-- ==== Sys2Proof/Word.lean ====
section
/-!
DEFINITION. Word types and the type of sparse tables.
-/

namespace Sys2Proof

/-- A byte. -/
abbrev Byte := BitVec 8

/-- A 32-bit word: registers, FP32 bit patterns. -/
abbrev Word32 := BitVec 32

/-- A 64-bit word: scalar registers, addresses. -/
abbrev Word64 := BitVec 64

/-- The 64 data bytes of a line; byte `i` is bits `8i + 7` to `8i` (R6, R7). -/
abbrev LineData := BitVec 512

/-- A sparse table: keys strictly rising, no entry equal to the table's default entry (its canonical form,
`Sys2Proof.Machine.Tab.wf`). An unlisted key reads as the default. -/
abbrev Tab (α : Type) := List (Nat × α)

end Sys2Proof
end

