-- ==== Sys2Proof/Syntax.lean ====
section
/-!
DEFINITION. The commands of the block: one constructor of `Instr` for each row of spec/opcode_table.json, with the
operands of the row. What the device's surroundings supply to a step (host memory, a partner's packet, an upset of a
datapath, an error pattern of a DRAM line) is an operand: R2 puts the surroundings outside the device.
-/

namespace Sys2Proof

/-- An upset that the step meets in the datapath (R51, R276). -/
inductive Upset where
  | clean       -- no upset
  | formeCE     -- single-bit error in a Forme word that the step reads
  | formeUE     -- double-bit error in such a word
  | formeOut    -- double-bit error in a Forme word outside every share
  | residue     -- a residue mismatch in the operation
  deriving DecidableEq, Repr

/-- An upset, and the number of the operation of the step that it strikes: the row of a drain (R61), an addition of a reduction
(R276). -/
structure UpsetAt where
  kind : Upset
  nth  : Nat
  deriving DecidableEq, Repr

/-- A tile instruction as the running slot of a cluster issues it: the fields of the instruction word (R74). -/
structure TileOp where
  cl  : BitVec 7
  a   : BitVec 5
  b   : BitVec 5
  c   : BitVec 5
  x   : BitVec 7
  imm : Word32
  up  : Upset
  deriving DecidableEq, Repr

/-- A queue: a management queue of PF0, or a local queue of a context (R323, R352). -/
inductive QSrc where
  | mgmt (m : BitVec 4)
  | ctx (c : BitVec 12) (q : BitVec 4)
  deriving DecidableEq, Repr

/-- How a host access fails (R315, R523). -/
inductive HostErr where
  | poison
  | timeout
  | ur
  deriving DecidableEq, Repr

/-- The surroundings during one step. `host` holds host memory, keyed by space * 2^64 + address, where space 0 is
without a PASID and space p + 1 is PASID p; a byte it does not list is zero. `hostFail` is how every host read of the
step fails, if it does. `lineErr` gives, for the line identity LID of a DRAM line, the pattern that is XORed onto its 80
bytes as they are read (R222). -/
structure Env where
  host     : List (Nat × Byte)
  hostFail : Option HostErr
  lineErr  : List (Nat × BitVec 640)
  deriving DecidableEq, Repr

/-- A command descriptor at the head of a queue: `d` holds bytes 1 to 63, byte `i` in bits `8(i-1) + 7` to `8(i-1)`
(R348); byte 0 is the row's opcode (R351). -/
structure CmdIn where
  src : QSrc
  d   : BitVec 504
  env : Env
  deriving DecidableEq, Repr

/-- An EXEC_OPTIM, and the residue mismatch that its vector lanes meet (R276): a cluster, and the tensor record that it works on. -/
structure OptimIn where
  cmd  : CmdIn
  lane : Option (BitVec 7 × Nat)
  deriving DecidableEq, Repr

/-- A register read: `fn` 0 is PF0 and `fn` k is virtual function k, which serves partition k - 1 (R301). -/
structure RegRead where
  fn   : BitVec 6
  bar2 : Bool
  off  : BitVec 26
  size : Nat
  deriving DecidableEq, Repr

/-- A register write. -/
structure RegWrite where
  fn    : BitVec 6
  bar2  : Bool
  off   : BitVec 26
  size  : Nat
  value : Word64
  deriving DecidableEq, Repr

/-- A write of a 32-bit register that has a row of its own, through function `fn`. -/
structure RegVal where
  fn    : BitVec 6
  value : Word32
  deriving DecidableEq, Repr

/-- The agents whose bit a Frisket mask holds (R436). -/
inductive Agent where
  | clRead
  | clWrite
  | exec
  | reduce
  | copy
  | fabric
  | ckpt
  | host
  deriving DecidableEq, Repr

/-- An access to one object line: channel, channel-local line, KeyID, partition and agent of the access. -/
structure LineAcc where
  ch    : BitVec 9
  line  : BitVec 24
  kid   : BitVec 16
  part  : BitVec 6
  agent : Agent
  env   : Env
  deriving DecidableEq, Repr

/-- Check-code outcome of a Case word (R233). -/
inductive Ecc where
  | ok
  | single
  | double
  deriving DecidableEq, Repr

/-- The bind request as the host memory read returns it: 256 bytes, or a failed read (R371, PART_BIND.ERR 15). -/
structure BindIn where
  req : Option (BitVec 2048)
  deriving DecidableEq, Repr

/-- The egress paths of R261. -/
inductive Path where
  | cxl
  | cache
  | staging
  | port (p : BitVec 3)
  | devmem (q : BitVec 2)
  | sideband
  deriving DecidableEq, Repr

/-- The causes of a Seal halt (R265). -/
inductive HaltCause where
  | tag
  | tree
  | treeUE
  | ctrWrap
  | verifyTimeout
  | root
  deriving DecidableEq, Repr

/-- A Seal-halt cause with its location (SEAL_HALT_CAUSE, SEAL_HALT_LOC). -/
structure HaltAt where
  cause : HaltCause
  stack : BitVec 5
  level : BitVec 4
  loc   : BitVec 4
  line  : BitVec 24
  deriving DecidableEq, Repr

/-- A check of the Proof unit of a quadrant (R280, R281): the cluster whose oldest captured pass is checked, what errors in the
array and in the Proof unit change in the CRC-64 of each chunk (0, or absent, where there is none), and whether the unit's own
residue failed. -/
structure ProofIn where
  q       : BitVec 2
  cl      : BitVec 7
  arrayErr : List Word64
  proofErr : List Word64
  selfBad : Bool
  deriving DecidableEq, Repr

/-- The measured rate of one cluster over a laggard window: ideal cycles over dispatched cycles (R293). -/
structure RateIn where
  cl    : BitVec 7
  ideal : Nat
  busy  : Nat
  deriving DecidableEq, Repr

/-- SPDM, IDE_KM and TSP requests (R313, R314). -/
inductive SpdmReq where
  | discovery (index : BitVec 8)
  | standard (code : BitVec 8)
  | endSession
  | keySet (stream : BitVec 3)
  | keyStop (stream : BitVec 3)
  | tdiLock (vf : BitVec 6)
  | tdiStart (vf : BitVec 6)
  deriving DecidableEq, Repr

/-- What the host writes to a function's configuration space (R301 to R303, R314, R523): Bus Master Enable; in PF0, VF Enable with
NumVFs and the DVSEC Range 1 base, none while the range is disabled; ones that clear AER status bits; or anything else. -/
inductive CfgWrite where
  | busMaster (on : Bool)
  | vfEnable (on : Bool) (n : BitVec 6)
  | hdmRange (base : Option Word64)
  | aerClear (bits : Word32)
  | other
  deriving DecidableEq, Repr

/-- A write to the configuration space of a function. -/
structure CfgIn where
  fn : BitVec 6
  w  : CfgWrite
  deriving DecidableEq, Repr

/-- Snoops the device answers (R305). -/
inductive Snoop where
  | data
  | inv
  | cur
  deriving DecidableEq, Repr

/-- What a refused host write carried (R523). -/
inductive RefusedWrite where
  | record (src : QSrc)
  | forCmd (src : QSrc)
  | colophon (fn : BitVec 6)
  | mailbox
  deriving DecidableEq, Repr

/-- What the evidence of a fabric partner shows when it is verified (R397, R441). -/
structure PeerEvidence where
  verifies     : Bool
  confidential : Bool
  lifecycle    : BitVec 3
  nonceOk      : Bool
  serial       : Word64
  meas         : BitVec 512
  ephemeral    : BitVec 448
  deriving DecidableEq, Repr

/-- A packet as it arrives: its 16-byte header (R406), what follows it (the payload and, when MGMT is 0, the 16-byte job tag),
whether its hop tag and job tag verify and its hop sequence number (R414, R415). -/
structure PacketIn where
  port    : BitVec 3
  hopSeq  : Word32
  hopOk   : Bool
  header  : BitVec 128
  payload : List Byte
  jobOk   : Bool
  deriving DecidableEq, Repr

/-- A packet that a command of the device forms (R412). -/
structure InjectIn where
  src      : QSrc
  vc       : BitVec 2
  dst      : BitVec 10
  dstEp    : BitVec 4
  srcEp    : BitVec 4
  slice    : BitVec 6
  payload  : List Byte
  deriving DecidableEq, Repr

/-- A link report: for each port of a device of the group whether it is UP, its role, and the device's measurement as
its partners report it (R402). -/
structure LinkRep where
  dev   : BitVec 10
  up    : BitVec 8
  roles : BitVec 24
  meas  : BitVec 512
  deriving DecidableEq, Repr

/-- A LOSS packet for a packet that this device sent (R411). -/
structure LossIn where
  slice : BitVec 6
  ep    : BitVec 4
  vc    : BitVec 2
  seq   : Word64
  src   : QSrc
  deriving DecidableEq, Repr

/-- A mailbox request as the host memory read returns it (R450): its bytes, or a failed read. -/
structure MbIn where
  req : Option (List Byte)
  deriving DecidableEq, Repr

/-- A peer's collective header (R159); of an OPT_DIGEST, `steps` is the STEP_MARK count and CTL carries PLANES (R187). -/
structure CollHeader where
  slice  : BitVec 6
  seq    : Word32
  ctl    : BitVec 16
  count  : Word32
  ranks  : BitVec 16
  base   : BitVec 10
  digest : Word64
  steps  : Word64
  deriving DecidableEq, Repr

/-- What this rank sends in a phase of a reduction: the rank it goes to, its first element over the RANKS blocks, and its
count. -/
structure PhaseOut where
  peer  : BitVec 10
  first : Nat
  count : Nat
  deriving DecidableEq, Repr

/-- The data of one collective phase at this rank: the peer's rank and the bytes that arrive from it, with the always-on time of
the peer's first packet (R167). In a reduction, `first` and `count` are the elements that arrive, counted over the RANKS blocks,
and `ranks` the ranks whose contributions their partial sums hold, in wire form; with no rank named, the bytes are the peer's own
contributions in SRCFMT (R164). `out` is what this rank sends: the algorithm is the engine's choice (R160). An upset strikes the
addition or conversion number `hit`. -/
structure PhaseIn where
  src    : QSrc
  peer   : BitVec 10
  first  : Nat
  count  : Nat
  ranks  : List (BitVec 10)
  data   : List Byte
  out    : Option PhaseOut
  arrive : Nat
  last   : Bool
  up     : Upset
  hit    : Nat
  env    : Env
  deriving DecidableEq, Repr

/-- What a peer contributes to a closing exchange (R161). -/
structure ClosingIn where
  peer   : BitVec 10
  ovfExp : Option Int
  shed   : Word64
  nonfin : Word32
  deriving DecidableEq, Repr

/-- A closing exchange (R161): what each peer contributes, and the upset that the addition of an own contribution meets. -/
structure ClosingRound where
  peers : List ClosingIn
  up    : UpsetAt
  deriving DecidableEq, Repr

/-- A firmware bundle as it is read (R488): its length, whether the host read succeeds, whether every signature
verifies, its SVN and the measurement M_4 it would give. -/
structure BundleIn where
  hostOk : Bool
  valid  : Bool
  svn    : BitVec 16
  meas   : BitVec 512
  deriving DecidableEq, Repr

/-- A rail of R459, in table order. -/
abbrev Rail := BitVec 3

/-- The reference clocks of R503. -/
inductive RefClk where
  | cxl
  | fab
  | aon
  deriving DecidableEq, Repr

/-- What a program of the journal flash met (R486). -/
structure FlashIn where
  ok : Bool
  deriving DecidableEq, Repr

/-- A JTAG access (R425, R508). -/
inductive JtagOp where
  | writeDus (v : BitVec 256)
  | other
  deriving DecidableEq, Repr

/-- What a slice device contributes to a STEP_MARK merge (R168): per SCOPE 1 tensor its step maximum and NONFINITE flag,
per SCOPE 1 layer its counts, and whether it saw a detection event. -/
structure MergeIn where
  tensors : List (Nat × Word32 × Bool)
  layers  : List (Nat × Nat × Nat)
  event   : Bool
  deriving DecidableEq, Repr

/-- STEP_MARK's operands: the descriptor and, for a slice merge, what every other device of the slice sends. -/
structure StepMarkIn where
  cmd   : CmdIn
  peers : List MergeIn
  deriving DecidableEq, Repr

/-- The commands; the comment names the row's rule. Those with operands stand first, in the order of
spec/opcode_table.json, then those without. -/
inductive Instr where
  | nop (t : TileOp)  -- R82
  | jmp (t : TileOp)  -- R82
  | beq (t : TileOp)  -- R82
  | bne (t : TileOp)  -- R82
  | bltu (t : TileOp)  -- R82
  | loop (t : TileOp)  -- R82
  | endProg (t : TileOp)  -- R82
  | add (t : TileOp)  -- R83
  | sub (t : TileOp)  -- R83
  | and (t : TileOp)  -- R83
  | or (t : TileOp)  -- R83
  | xor (t : TileOp)  -- R83
  | shl (t : TileOp)  -- R83
  | shr (t : TileOp)  -- R83
  | sra (t : TileOp)  -- R83
  | minu (t : TileOp)  -- R83
  | maxu (t : TileOp)  -- R83
  | mul (t : TileOp)  -- R83
  | divu (t : TileOp)  -- R83
  | remu (t : TileOp)  -- R83
  | addi (t : TileOp)  -- R83
  | subi (t : TileOp)  -- R83
  | andi (t : TileOp)  -- R83
  | ori (t : TileOp)  -- R83
  | xori (t : TileOp)  -- R83
  | shli (t : TileOp)  -- R83
  | shri (t : TileOp)  -- R83
  | srai (t : TileOp)  -- R83
  | minui (t : TileOp)  -- R83
  | maxui (t : TileOp)  -- R83
  | muli (t : TileOp)  -- R83
  | divui (t : TileOp)  -- R83
  | remui (t : TileOp)  -- R83
  | li (t : TileOp)  -- R83
  | lui (t : TileOp)  -- R83
  | lds (t : TileOp)  -- R84
  | sts (t : TileOp)  -- R84
  | rdsize (t : TileOp)  -- R85
  | rdid (t : TileOp)  -- R85
  | movg (t : TileOp)  -- R83
  | rdg (t : TileOp)  -- R83
  | dset (t : TileOp)  -- R97
  | dseti (t : TileOp)  -- R97
  | dld (t : TileOp)  -- R84
  | dst (t : TileOp)  -- R84
  | attach (t : TileOp)  -- R522
  | detach (t : TileOp)  -- R86
  | waitr (t : TileOp)  -- R86
  | consume (t : TileOp)  -- R86
  | ringptr (t : TileOp)  -- R86
  | dmov (t : TileOp)  -- R97
  | sowLineFetch (cl : BitVec 7) (st : BitVec 2) (env : Env)  -- R52
  | sowLineArrive (cl : BitVec 7) (st : BitVec 2)  -- R53
  | passAcc (t : TileOp)  -- R88
  | passOw (t : TileOp)  -- R88
  | passStart (cl : BitVec 7) (up : Upset)  -- R46
  | rowSettle (cl : BitVec 7) (row : BitVec 12) (up : Upset)  -- R55
  | drain (t : TileOp)  -- R91
  | drainStart (cl : BitVec 7) (up : UpsetAt) (env : Env)  -- R57
  | drainRowWrite (cl : BitVec 7) (env : Env)  -- R59
  | vld (t : TileOp)  -- R93
  | vst (t : TileOp)  -- R93
  | vadd (t : TileOp)  -- R119
  | vsub (t : TileOp)  -- R119
  | vmul (t : TileOp)  -- R119
  | vfma (t : TileOp)  -- R119
  | vmax (t : TileOp)  -- R120
  | vmin (t : TileOp)  -- R120
  | vcmplt (t : TileOp)  -- R120
  | vsel (t : TileOp)  -- R120
  | vbcast (t : TileOp)  -- R119
  | vexp2 (t : TileOp)  -- R119
  | vlog2 (t : TileOp)  -- R119
  | vrcp (t : TileOp)  -- R119
  | vrsq (t : TileOp)  -- R119
  | vsum (t : TileOp)  -- R120
  | vamax (t : TileOp)  -- R120
  | vtopkclr (t : TileOp)  -- R63
  | vtopk (t : TileOp)  -- R63
  | vtopkrd (t : TileOp)  -- R93
  | scget (t : TileOp)  -- R127
  | scamax (t : TileOp)  -- R128
  | chkeq (t : TileOp)  -- R103
  | ptile (t : TileOp)  -- R94
  | wait (t : TileOp)  -- R95
  | tbnd (t : TileOp)  -- R96
  | boundaryLateExpiry (cl : BitVec 7)  -- R65
  | execTile (q : CmdIn)  -- R101
  | execLayers (q : CmdIn)  -- R197
  | layerBoundary (src : QSrc)  -- R201
  | bwdRunSelect (src : QSrc)  -- R203
  | wgradFenceSignal (src : QSrc)  -- R204
  | execOptim (q : OptimIn)  -- R181
  | memCopy (q : CmdIn)  -- R351
  | memXwOpen (q : CmdIn)  -- R153
  | memXwAdd (q : CmdIn) (up : UpsetAt)  -- R153
  | memXwClose (q : CmdIn) (up : Upset)  -- R156
  | objAlloc (q : CmdIn)  -- R329
  | objFree (q : CmdIn)  -- R331
  | objDeferredFree (idx : BitVec 20)  -- R331
  | objMap (q : CmdIn)  -- R333
  | objUnmap (q : CmdIn)  -- R335
  | fenceAlloc (q : CmdIn)  -- R336
  | fenceFree (q : CmdIn)  -- R341
  | fenceSignal (q : CmdIn)  -- R337
  | fenceWait (q : CmdIn)  -- R338
  | fenceGrant (q : CmdIn)  -- R339
  | fenceAccept (q : CmdIn)  -- R339
  | stepMark (m : StepMarkIn)  -- R359
  | scaleDeclare (q : CmdIn)  -- R132
  | keyLoad (q : CmdIn)  -- R438
  | collRun (q : CmdIn)  -- R157
  | collHeaderExchange (src : QSrc) (peer : BitVec 10) (h : CollHeader)  -- R159
  | collPhase (p : PhaseIn)  -- R164
  | collClosingExchange (src : QSrc) (r : ClosingRound) (env : Env)  -- R161
  | collFinalExchange (src : QSrc) (up : Upset) (env : Env)  -- R162
  | collAbort (src : QSrc) (peer : BitVec 10)  -- R162
  | collTimeoutExpiry (src : QSrc)  -- R159
  | optDigest (q : CmdIn)  -- R186
  | digestExchange (src : QSrc) (others : List (BitVec 256))  -- R187
  | ckptWrite (q : CmdIn)  -- R189
  | ckptLoad (q : CmdIn)  -- R192
  | ctxCreate (q : CmdIn)  -- R319
  | ctxResume (q : CmdIn)  -- R322
  | ctxReset (q : CmdIn)  -- R343
  | ctxTeardown (q : CmdIn)  -- R342
  | queueCreate (q : CmdIn)  -- R326
  | queueDelete (q : CmdIn)  -- R326
  | sysNop (q : CmdIn)  -- R351
  | sysColophon (q : CmdIn)  -- R361
  | qdbTail (fn : BitVec 6) (page : BitVec 12) (q : BitVec 4) (tail : Word32)  -- R325
  | mqEnable (w : RegVal)  -- R524
  | devColophonStart (fn : BitVec 6)  -- R362
  | registerWrite (w : RegWrite)  -- R9
  | intSet (w : RegWrite)  -- R35
  | msixUnmask (fn : BitVec 6) (vector : BitVec 4)  -- R34
  | devBadaccCntRead (fn : BitVec 6)  -- R43
  | hifMemrejCntRead (fn : BitVec 6)  -- R307
  | fallowReq (fn : BitVec 6) (cl : BitVec 7) (req : Bool)  -- R67
  | idleDelayExpiry (cl : BitVec 7)  -- R67
  | flashClearDone (cl : BitVec 7)  -- R68
  | bind (b : BindIn)  -- R373
  | release (b : BindIn)  -- R376
  | partReset (b : BindIn)  -- R377
  | resetDrained (part : BitVec 6)  -- R377
  | vfFlr (vf : BitVec 6)  -- R302
  | clusterRemove (cl : BitVec 7)  -- R379
  | caseFlushDone (way : BitVec 4)  -- R232
  | sliceEnd (part : BitVec 6) (us : Nat)  -- R382
  | starveExpiry (c : BitVec 12)  -- R382
  | preemptSwitch (part : BitVec 6) (us overrun : Nat)  -- R383
  | partDbgHold (w : RegVal)  -- R385
  | sealLineRead (l : LineAcc)  -- R253
  | sealVerifyDone (q : BitVec 2) (latency : Nat)  -- R253
  | verifyTimeout (q : BitVec 2)  -- R254
  | sealLineWrite (l : LineAcc) (data : LineData)  -- R249
  | sealPartialWrite (l : LineAcc) (mask : Word64) (data : LineData)  -- R256
  | counterEvict (ch : BitVec 9) (level : BitVec 2) (blk : BitVec 18)  -- R252
  | keyCacheFill (kid : BitVec 16)  -- R242
  | keyidRetireDone (kid : BitVec 16)  -- R270
  | caseLineAccess (l : LineAcc) (write : Option LineData) (ecc : Ecc)  -- R233
  | harrowPatrolRead (ch : BitVec 9) (line : BitVec 24) (err : BitVec 640)  -- R234
  | harrowEraseLine (ch : BitVec 9) (err : BitVec 640)  -- R235
  | epochAdvance (q : BitVec 2)  -- R258
  | egressSample (p : Path)  -- R259
  | egressEnqueue (p : Path) (stamped : Bool) (payload : List Byte)  -- R263
  | egressRelease (p : Path)  -- R260
  | sealHalt (h : HaltAt)  -- R266
  | proofChunkCheck (p : ProofIn)  -- R280
  | refereePassDone (q : BitVec 2) (err : List Word64)  -- R284
  | suspectClear (cl : BitVec 7)  -- R286
  | lagWindow (rates : List RateIn)  -- R293
  | spdmRequest (r : SpdmReq)  -- R313
  | tdiConfigChange (c : CfgIn)  -- R314
  | stopInterface (vf : BitVec 6)  -- R314
  | ideRxFail (stream : BitVec 3)  -- R312
  | cxlMemRead (addr : Word64) (env : Env)  -- R308
  | cxlMemWrite (addr : Word64) (mask : Word64) (data : LineData) (poison : Bool) (env : Env)  -- R308
  | hostSnoop (kind : Snoop) (addr : Nat)  -- R305
  | hostReadError (src : QSrc) (err : HostErr) (ring : Bool)  -- R315
  | hostWriteRefused (w : RefusedWrite)  -- R523
  | stagingMap (w : RegVal)  -- R310
  | stagingUnmap (w : RegVal)  -- R310
  | ctnEnable (fn : BitVec 6) (port : BitVec 3) (enable : Bool)  -- R393
  | linkReset (fn : BitVec 6) (port : BitVec 3)  -- R470
  | trainRetryExpiry (port : BitVec 3)  -- R393
  | trainingTimeout (port : BitVec 3)  -- R393
  | identityRecord (port : BitVec 3) (rec : BitVec 512) (lanes : BitVec 8)  -- R395
  | attestationEvidence (port : BitVec 3) (ev : PeerEvidence)  -- R397
  | attestTimeout (port : BitVec 3)  -- R393
  | portRetrain (port : BitVec 3) (fecBurst : Bool)  -- R393
  | retrainTimeout (port : BitVec 3)  -- R393
  | hopAuthFail (port : BitVec 3)  -- R417
  | replayExhausted (port : BitVec 3)  -- R417
  | hopRekey (port : BitVec 3) (ok : Bool)  -- R414
  | haltFrame (port : BitVec 3)  -- R418
  | creditReturn (port : BitVec 3) (vc : BitVec 2) (cls : BitVec 1) (units : Nat)  -- R413
  | packetInject (p : InjectIn)  -- R412
  | packetReceive (p : PacketIn)  -- R407
  | lossPacket (l : LossIn)  -- R411
  | linkReport (r : LinkRep)  -- R402
  | vc0CreditTimeout (port : BitVec 3)  -- R404
  | pairAttest (dev : BitVec 10) (ev : PeerEvidence)  -- R409
  | pairAttestTimeout (dev : BitVec 10)  -- R409
  | pairClose (dev : BitVec 10) (ack : Bool)  -- R410
  | planLoad (fn : BitVec 6) (plan : Option (List Byte))  -- R399
  | frtOpen (w : RegVal)  -- R404
  | getEvidence (m : MbIn)  -- R440
  | keyGen (m : MbIn)  -- R451
  | keyRelease (m : MbIn)  -- R442
  | shareSubmit (m : MbIn)  -- R444
  | releaseExport (m : MbIn)  -- R446
  | lcAdvance (m : MbIn)  -- R428
  | jobDrop (m : MbIn)  -- R451
  | pwrOkRise (sbMode : Bool)  -- R468
  | uvWarn (rail : Rail) (mv : BitVec 16)  -- R461
  | railRecovered (rail : Rail) (mv : BitVec 16)  -- R462
  | uvReset (rail : Rail)  -- R463
  | thermalGovernorTick (readings : List (BitVec 6 × BitVec 8))  -- R464
  | powerCapTick (watts : BitVec 11)  -- R458
  | thermalTrip (sensor : BitVec 6) (reading : BitVec 8)  -- R465
  | slumberReq (fn : BitVec 6)  -- R466
  | slumberReqClear (fn : BitVec 6)  -- R467
  | warm (fn : BitVec 6)  -- R470
  | refclkLoss (r : RefClk)  -- R504
  | refclkReturn (r : RefClk)  -- R504
  | getSensor (sensor : BitVec 8)  -- R475
  | readJournal (seq : Word64)  -- R475
  | sbLcAdvance (token : BitVec 1040)  -- R475
  | journalWrite (f : FlashIn)  -- R481
  | journalCompaction (f : FlashIn)  -- R485
  | stage (fn : BitVec 6)  -- R488
  | stageDone (b : BundleIn)  -- R488
  | activate (fn : BitVec 6)  -- R489
  | discard (fn : BitVec 6)  -- R489
  | commitSvn (fn : BitVec 6)  -- R490
  | registerRead (r : RegRead)  -- R42
  | reservedDescriptor (op : Byte) (q : CmdIn)  -- R350
  | reservedInstruction (cls : BitVec 4) (op : BitVec 6) (t : TileOp)  -- R75
  | secMbReservedOpcode (op : Byte) (m : MbIn)  -- R451
  | sidebandUnknownCommand (code : Byte)  -- R475
  | jtagAccess (j : JtagOp)  -- R425
  | cxlLinkUp (rate : BitVec 3) (width : BitVec 5)  -- R298
  | cxlRetrain (rate : BitVec 3) (width : BitVec 5)  -- R300
  | dramTHot (stack : BitVec 5) (hot : Bool)  -- R464
  | bindQuiesced  -- R373
  | releaseDrained  -- R376
  | pf0Flr  -- R302
  | debugHoldExpiry  -- R385
  | linkTrainFail  -- R299
  | linkDown  -- R300
  | ideGraceExpiry  -- R312
  | pwrOkFall  -- R469
  | bootDone  -- R455
  | bootImageFail  -- R431
  | activationTimeout  -- R489
  | braceMaxExpiry  -- R463
  | slumberEnter  -- R466
  | getStatus  -- R476
  | warmReset  -- R475
  | linkRetry  -- R475
  | wake  -- R475
  | hoursTick  -- R482
  deriving DecidableEq, Repr

end Sys2Proof
end

