-- ==== Sys2Proof/WellFormed.lean ====
section
/-!
DEFINITION. The well-formed commands: the checks on operands that the row itself makes. The reserved rows take only the
codes that the spec's tables leave reserved (R75, R351, R451).
-/

namespace Sys2Proof

/-- The operation codes that a class's table lists (R82, R83, R86, R88, R91, R93, R94, R95, R96). -/
def opListed (cls : BitVec 4) (op : BitVec 6) : Bool :=
  let o := op.toNat
  match cls.toNat with
  | 0 => o ≤ 5 || o == 0x3F
  | 1 => o ≤ 0x0C || (0x10 ≤ o && o ≤ 0x1C) || (0x20 ≤ o && o ≤ 0x27)
  | 2 => o ≤ 9
  | 3 => o ≤ 1
  | 4 => o == 0
  | 5 => o ≤ 1 || (0x08 ≤ o && o ≤ 0x10) || (0x18 ≤ o && o ≤ 0x1B) || o == 0x20 || o == 0x21
      || (0x28 ≤ o && o ≤ 0x2A)
  | 6 => o ≤ 1
  | 7 => o ≤ 1
  | 8 => o == 0
  | 9 => o == 0
  | _ => false

/-- The opcodes that R351 lists. -/
def opcodeListed (op : Byte) : Bool :=
  [0x11, 0x12, 0x13, 0x21, 0x22, 0x23, 0x24, 0x31, 0x32, 0x33, 0x34, 0x41, 0x42, 0x43, 0x44, 0x45, 0x46, 0x51, 0x61,
    0x71, 0x81, 0x91, 0xA1, 0xA2, 0xB1, 0xB2, 0xB3, 0xB4, 0xC1, 0xC2, 0xD1, 0xD2].contains op.toNat

/-- The mailbox opcodes that R451 lists. -/
def mailboxListed (op : Byte) : Bool :=
  1 ≤ op.toNat && op.toNat ≤ 7

/-- Well-formed commands. -/
def Instr.wellFormed : Instr → Bool
  | .reservedInstruction cls op _ => !opListed cls op
  | .reservedDescriptor op _ => !opcodeListed op
  | .secMbReservedOpcode op _ => !mailboxListed op
  | .registerRead r => r.size == 4 || r.size == 8 || r.size == 1 || r.size == 2
  | .registerWrite w => w.size == 4 || w.size == 8 || w.size == 1 || w.size == 2
  | .digestExchange _ others => others.length < 1024
  | .thermalGovernorTick readings => readings.length ≤ 64
  | _ => true

end Sys2Proof
end

