-- ==== Sys2Proof/Decode.lean ====
section
/-!
DEFINITION. The decoder of the command table, which gives no row bits, and the instruction words of tile code (R74, R75):
the decoder of a 64-bit word, total, and its encoder.
-/

namespace Sys2Proof

/-- The command that a word spells by the table's bits. The table gives no row bits, so no word spells a command. -/
def decodeTableWord (_nbits _w : Nat) : Option Instr := none

/-- CLASS, bits [63:60]. -/
def wordClass (w : Word64) : BitVec 4 := w.extractLsb' 60 4

/-- OP, bits [59:54]. -/
def wordOp (w : Word64) : BitVec 6 := w.extractLsb' 54 6

/-- The fields A, B, C, X and IMM of a word (R74), as a cluster issues it. -/
def wordFields (cl : BitVec 7) (up : Upset) (w : Word64) : TileOp where
  cl := cl
  a := w.extractLsb' 49 5
  b := w.extractLsb' 44 5
  c := w.extractLsb' 39 5
  x := w.extractLsb' 32 7
  imm := w.extractLsb' 0 32
  up := up

/-- The instruction of a class and operation; none for a reserved pair (R75). -/
def tileRow (cls : BitVec 4) (op : BitVec 6) (t : TileOp) : Option Instr :=
  match cls.toNat, op.toNat with
  | 0, 0 => some (.nop t)
  | 0, 1 => some (.jmp t)
  | 0, 2 => some (.beq t)
  | 0, 3 => some (.bne t)
  | 0, 4 => some (.bltu t)
  | 0, 5 => some (.loop t)
  | 0, 63 => some (.endProg t)
  | 1, 0 => some (.add t)
  | 1, 1 => some (.sub t)
  | 1, 2 => some (.and t)
  | 1, 3 => some (.or t)
  | 1, 4 => some (.xor t)
  | 1, 5 => some (.shl t)
  | 1, 6 => some (.shr t)
  | 1, 7 => some (.sra t)
  | 1, 8 => some (.minu t)
  | 1, 9 => some (.maxu t)
  | 1, 10 => some (.mul t)
  | 1, 11 => some (.divu t)
  | 1, 12 => some (.remu t)
  | 1, 16 => some (.addi t)
  | 1, 17 => some (.subi t)
  | 1, 18 => some (.andi t)
  | 1, 19 => some (.ori t)
  | 1, 20 => some (.xori t)
  | 1, 21 => some (.shli t)
  | 1, 22 => some (.shri t)
  | 1, 23 => some (.srai t)
  | 1, 24 => some (.minui t)
  | 1, 25 => some (.maxui t)
  | 1, 26 => some (.muli t)
  | 1, 27 => some (.divui t)
  | 1, 28 => some (.remui t)
  | 1, 32 => some (.li t)
  | 1, 33 => some (.lui t)
  | 1, 34 => some (.lds t)
  | 1, 35 => some (.sts t)
  | 1, 36 => some (.rdsize t)
  | 1, 37 => some (.rdid t)
  | 1, 38 => some (.movg t)
  | 1, 39 => some (.rdg t)
  | 2, 0 => some (.dset t)
  | 2, 1 => some (.dseti t)
  | 2, 2 => some (.dld t)
  | 2, 3 => some (.dst t)
  | 2, 4 => some (.attach t)
  | 2, 5 => some (.detach t)
  | 2, 6 => some (.waitr t)
  | 2, 7 => some (.consume t)
  | 2, 8 => some (.ringptr t)
  | 2, 9 => some (.dmov t)
  | 3, 0 => some (.passAcc t)
  | 3, 1 => some (.passOw t)
  | 4, 0 => some (.drain t)
  | 5, 0 => some (.vld t)
  | 5, 1 => some (.vst t)
  | 5, 8 => some (.vadd t)
  | 5, 9 => some (.vsub t)
  | 5, 10 => some (.vmul t)
  | 5, 11 => some (.vfma t)
  | 5, 12 => some (.vmax t)
  | 5, 13 => some (.vmin t)
  | 5, 14 => some (.vcmplt t)
  | 5, 15 => some (.vsel t)
  | 5, 16 => some (.vbcast t)
  | 5, 24 => some (.vexp2 t)
  | 5, 25 => some (.vlog2 t)
  | 5, 26 => some (.vrcp t)
  | 5, 27 => some (.vrsq t)
  | 5, 32 => some (.vsum t)
  | 5, 33 => some (.vamax t)
  | 5, 40 => some (.vtopkclr t)
  | 5, 41 => some (.vtopk t)
  | 5, 42 => some (.vtopkrd t)
  | 6, 0 => some (.scget t)
  | 6, 1 => some (.scamax t)
  | 7, 0 => some (.chkeq t)
  | 7, 1 => some (.ptile t)
  | 8, 0 => some (.wait t)
  | 9, 0 => some (.tbnd t)
  | _, _ => none

/-- The instruction that a word spells; a reserved class or operation spells RESERVED_INSTRUCTION (R75). -/
def tileDecode (cl : BitVec 7) (up : Upset) (w : Word64) : Instr :=
  (tileRow (wordClass w) (wordOp w) (wordFields cl up w)).getD
    (.reservedInstruction (wordClass w) (wordOp w) (wordFields cl up w))

/-- CLASS, OP and the fields of a tile instruction; none for another command. -/
def tileParts : Instr → Option (BitVec 4 × BitVec 6 × TileOp)
  | .nop t => some (0, 0, t)
  | .jmp t => some (0, 1, t)
  | .beq t => some (0, 2, t)
  | .bne t => some (0, 3, t)
  | .bltu t => some (0, 4, t)
  | .loop t => some (0, 5, t)
  | .endProg t => some (0, 63, t)
  | .add t => some (1, 0, t)
  | .sub t => some (1, 1, t)
  | .and t => some (1, 2, t)
  | .or t => some (1, 3, t)
  | .xor t => some (1, 4, t)
  | .shl t => some (1, 5, t)
  | .shr t => some (1, 6, t)
  | .sra t => some (1, 7, t)
  | .minu t => some (1, 8, t)
  | .maxu t => some (1, 9, t)
  | .mul t => some (1, 10, t)
  | .divu t => some (1, 11, t)
  | .remu t => some (1, 12, t)
  | .addi t => some (1, 16, t)
  | .subi t => some (1, 17, t)
  | .andi t => some (1, 18, t)
  | .ori t => some (1, 19, t)
  | .xori t => some (1, 20, t)
  | .shli t => some (1, 21, t)
  | .shri t => some (1, 22, t)
  | .srai t => some (1, 23, t)
  | .minui t => some (1, 24, t)
  | .maxui t => some (1, 25, t)
  | .muli t => some (1, 26, t)
  | .divui t => some (1, 27, t)
  | .remui t => some (1, 28, t)
  | .li t => some (1, 32, t)
  | .lui t => some (1, 33, t)
  | .lds t => some (1, 34, t)
  | .sts t => some (1, 35, t)
  | .rdsize t => some (1, 36, t)
  | .rdid t => some (1, 37, t)
  | .movg t => some (1, 38, t)
  | .rdg t => some (1, 39, t)
  | .dset t => some (2, 0, t)
  | .dseti t => some (2, 1, t)
  | .dld t => some (2, 2, t)
  | .dst t => some (2, 3, t)
  | .attach t => some (2, 4, t)
  | .detach t => some (2, 5, t)
  | .waitr t => some (2, 6, t)
  | .consume t => some (2, 7, t)
  | .ringptr t => some (2, 8, t)
  | .dmov t => some (2, 9, t)
  | .passAcc t => some (3, 0, t)
  | .passOw t => some (3, 1, t)
  | .drain t => some (4, 0, t)
  | .vld t => some (5, 0, t)
  | .vst t => some (5, 1, t)
  | .vadd t => some (5, 8, t)
  | .vsub t => some (5, 9, t)
  | .vmul t => some (5, 10, t)
  | .vfma t => some (5, 11, t)
  | .vmax t => some (5, 12, t)
  | .vmin t => some (5, 13, t)
  | .vcmplt t => some (5, 14, t)
  | .vsel t => some (5, 15, t)
  | .vbcast t => some (5, 16, t)
  | .vexp2 t => some (5, 24, t)
  | .vlog2 t => some (5, 25, t)
  | .vrcp t => some (5, 26, t)
  | .vrsq t => some (5, 27, t)
  | .vsum t => some (5, 32, t)
  | .vamax t => some (5, 33, t)
  | .vtopkclr t => some (5, 40, t)
  | .vtopk t => some (5, 41, t)
  | .vtopkrd t => some (5, 42, t)
  | .scget t => some (6, 0, t)
  | .scamax t => some (6, 1, t)
  | .chkeq t => some (7, 0, t)
  | .ptile t => some (7, 1, t)
  | .wait t => some (8, 0, t)
  | .tbnd t => some (9, 0, t)
  | .reservedInstruction cls op t => some (cls, op, t)
  | _ => none

/-- The word of a class, an operation and fields (R74). -/
def tileWordOf (cls : BitVec 4) (op : BitVec 6) (t : TileOp) : Word64 :=
  cls ++ op ++ t.a ++ t.b ++ t.c ++ t.x ++ t.imm

/-- The word of a tile instruction. -/
def tileEncode (i : Instr) : Option Word64 :=
  (tileParts i).map fun p => tileWordOf p.1 p.2.1 p.2.2

end Sys2Proof
end

