-- ==== Sys2Proof/Config.lean ====
section
/-!
DEFINITION. What an implementation or a part fixes, and the free values of the model: constants without a body, so that
no proof sees a value of them. The published cryptographic primitives that the spec names without giving their text are
here as well (log entry 11).
-/

namespace Sys2Proof.Config

/-- The set of a Case that a line of a channel occupies, modulo the 98,304 sets: the spec does not give it (R230; log entry 180). -/
opaque caseSet : Nat → Nat → Nat

/-- The set of its part of the counter cache that a counter block of a level occupies, modulo 64 (R252; log entry 180). -/
opaque ctrSet : Nat → Nat → Nat

/-- The part's serial number (DEV_SERIAL). -/
opaque serial : BitVec 64

/-- The device unique secret that the provisioning station wrote (R425). -/
opaque dus : BitVec 256

/-- A draw of the true random number generator (R432, R434): the n-th free value. -/
opaque trng : Nat → BitVec 512

/-- A value that the spec leaves undefined (R64, R162, R184): the n-th free value. -/
opaque free : Nat → BitVec 8192

/-- The code of a QUANTISED second moment for an FP32 value that rounds to no integer from 0 to 255 (R181; log entry 35). -/
opaque optCode : BitVec 32 → BitVec 8

/-- Which of the free numbers an allocation returns, counted among those that are free (R148, R326, R328, R336): the
n-th choice. -/
opaque choice : Nat → Nat

/-- Whether the descriptor at an index of a ring is of a command that needs the slice, while the device has not fetched it: by the
context, its queue's number and the index. No row says what a ring holds before its fetch (R382; log entry 21). -/
opaque ringSlice : Nat → Nat → Nat → Bool

/-- The ROM identifier of the measurement chain (R431). -/
opaque romId : List Byte

/-- The running image's measurement after power-on from slot A (R431). -/
opaque bootMeas : BitVec 512

/-- AES-256 of one block under a key (R244). -/
opaque aes256 : BitVec 256 → BitVec 128 → BitVec 128

/-- SHAKE256: the first 64 bytes of its output, byte `i` in bits 8i + 7 to 8i (R186, R279, R433). A shorter output is a
prefix of it. -/
opaque shake256 : List Byte → BitVec 512

/-- An Ed448 signature of 114 bytes by the key of a 57-byte seed (R195). -/
opaque ed448Sign : List Byte → List Byte → List Byte

/-- The Ed448 public key of a seed. -/
opaque ed448Public : List Byte → List Byte

/-- Ed448 verification: public key, message, signature. -/
opaque ed448Verify : List Byte → List Byte → List Byte → Bool

/-- The Plolvo life-cycle key, whose hash the ROM holds (R428). -/
opaque lifeCycleKey : List Byte

/-- HPKE open in base mode (R442): private key, encapsulated key, info, ciphertext; the plaintext, or none. -/
opaque hpkeOpen : List Byte → List Byte → List Byte → List Byte → Option (List Byte)

/-- HPKE seal in base mode (R447): randomness, recipient, info, plaintext; encapsulated key and ciphertext. -/
opaque hpkeSeal : BitVec 512 → List Byte → List Byte → List Byte → List Byte

/-- The X448 public key of a private key (R433, claim 11 of R439). -/
opaque x448Public : List Byte → List Byte

/-- The keys of a hop or pair session, from a draw and what the partner's evidence carries (R397, R409). -/
opaque sessionKeys : BitVec 512 → PeerEvidence → BitVec 1024

/-- The certificate chain of SPDM slot 0 (R313). -/
opaque certChain : List Byte

/-- SHA-384, the base hash of the SPDM responder (R313). -/
opaque sha384 : List Byte → BitVec 384

/-- The responder's signature under a request code and a draw (R313). -/
opaque spdmSign : BitVec 8 → BitVec 512 → List Byte

/-- The measurements M_1 to M_3 of the image whose M_4 is given (R431). -/
opaque meas : BitVec 512 → Nat → BitVec 512

end Sys2Proof.Config
end

