-- ==== Sys2Proof/Machine/State.lean ====
section
/-!
DEFINITION. The state of the device as plain data: every piece of state the spec gives it, the queue of waiting commands
and the model's own counter of free values. Widths and rules stand beside each field; INVENTORY.md lists reset values.
-/

namespace Sys2Proof.Machine

/-! ## Registers held as storage -/

/-- The DEV_BADACC record (R43). -/
structure BadAcc where
  valid : Bool
  write : Bool
  vf    : Bool
  part  : BitVec 6
  bar   : BitVec 2
  size  : BitVec 4
  off   : Word32
  deriving DecidableEq, Repr

/-! ## Compute clusters -/

/-- An attached stream (R72, R86, R98). `fetched` counts the source lines that the engine has issued in fetch order,
`arrived` the destination lines written to the ring, `consumed` those released. `flight` holds the source lines in
flight and `group` the arrived source lines of the transpose group under way (R99). -/
structure Stream where
  desc     : BitVec 512
  ring     : Nat
  size     : Nat
  fetched  : Nat
  arrived  : Nat
  consumed : Nat
  flight   : List LineData
  group    : List LineData
  stopped  : Bool           -- a DETACH waits for the lines in flight (R86)
  deriving DecidableEq, Repr

/-- A program that a slot runs: the queue of its command, the code object's instruction count and, for a layer's run,
the layer (R101, R197). -/
structure Prog where
  src   : QSrc
  words : Nat
  entry : Nat            -- where the program starts, for a re-run (R137)
  args  : List Word64    -- s1 on as the program starts (R73, R200)
  quiet : Bool           -- a RECOMP run, which reports nothing to the Scale manager (R213)
  deriving DecidableEq, Repr

/-- A sequencer slot (R72). Registers that are not listed hold zero. -/
structure Slot where
  ctx     : BitVec 12
  prog    : Option Prog
  ended   : Bool            -- the program has retired END
  s       : Tab Word64
  d       : Tab (BitVec 512)
  g       : Tab (BitVec 12)
  pc      : Nat
  streams : Tab (Option Stream)
  ptid    : Word64
  formeBase : Nat           -- bytes
  formeSize : Nat
  galBase   : Nat           -- tile rows
  galRows   : Nat
  boundary  : Bool          -- a tile boundary is reached and no instruction has issued since (R96)
  closing   : Bool          -- stopped: its issued passes and drains finish without effect, then its Galley share is zeroed (R66)
  deriving DecidableEq, Repr

/-- A pass that the array holds (R78, R88): its slot, mode, formats, sources, depth, first physical row and Proof tile
identifier. A source is a stream or a Forme address (R89). `done` counts the chunks that the array has read; `behind` counts
the accepted drains issued before it that have not started (R56); `sampled` marks a pass for the Proof unit (R279). -/
structure Pass where
  slot : Nat
  ow   : Bool
  fa   : BitVec 4
  fb   : BitVec 4
  srcA : BitVec 3
  srcB : BitVec 3
  addrA : Word64
  addrB : Word64
  kch  : Nat
  row  : Nat
  ptid : Word64
  done : Nat
  behind : Nat
  sampled : Bool
  got  : List (Nat × Nat)   -- of a sampled pass, the operand blocks that the array has read (R280)
  crcs : List Word64        -- and the CRC-64 of each chunk's contributions
  deriving DecidableEq, Repr

/-- A drain that the Gleaner holds (R78, R90): its slot, first physical row, row count, destination and record address. -/
structure Drain where
  slot : Nat
  row  : Nat
  rows : Nat
  dest : Word64
  recAt : Word64
  deriving DecidableEq, Repr

/-- A converted row of a drain that awaits its write (R59): addresses and bytes, the last row of an MX output with the scale
block (R91); whether a residue mismatch stops the drain before it (R61); and what it reports (R60): the drain's record, its
saturated and underflowing elements, whether it is its tile's first row with a saturated element and, with the last row, the
drain's largest magnitude. -/
structure RowOut where
  slot  : Nat
  parts : List (Nat × List Byte)
  bad   : Bool
  epi   : BitVec 512
  sat   : Nat
  under : Nat
  tile  : Bool
  mag   : Option Word32
  deriving DecidableEq, Repr

/-- Cluster power states (R67). -/
inductive ClPwr where
  | active
  | idle
  | fallow
  deriving DecidableEq, Repr

/-- Health states of a cluster (R286). -/
inductive Health where
  | normal
  | suspect
  | confirmed
  deriving DecidableEq, Repr

/-- A cluster (chapter 3, R286). `forme` is keyed by line, `galley` by physical row (word `w` is bits 40w+39 to 40w),
`v` by register (lane `n` is bits 32n+31 to 32n). -/
structure Cluster where
  pwr       : ClPwr
  owner     : BitVec 6
  inService : Bool
  clear     : Bool          -- a flash-clear is in progress (R68)
  laggard   : Bool
  forme     : Tab LineData
  galley    : Tab (BitVec 5120)
  v         : Tab (BitVec 8192)
  topk      : List (Word32 × Word32)
  k         : Nat
  slots     : Tab (Option Slot)
  running   : Option Nat
  passRun   : Option Pass    -- the pass whose rows are not all settled, when the array still holds it
  passWait  : Option Pass
  unsettled : List Nat      -- physical rows of started passes that are not settled (R55)
  drains    : List Drain    -- accepted drains in issue order, not started
  rowsOut   : List RowOut   -- rows of the running drain that are converted and not yet written
  worked    : Bool          -- work since the last idle (R67)
  health    : Health
  findings  : BitVec 8
  hours     : BitVec 16
  sampled   : Nat           -- sampled passes without a finding since SUSPECT (R286)
  faultCtx  : BitVec 12
  faultCode : BitVec 16
  sowFault  : Word64
  passes    : Word64
  rowsDone  : Word64
  ueOut     : Nat           -- double-bit Forme errors outside every share, which no register shows (R51)
  deriving DecidableEq, Repr

/-! ## Scale manager (chapter 6) -/

/-- What a tensor's ON_OVF asks for (R129). -/
inductive OnOvf where
  | saturate
  | rerun
  | stop
  deriving DecidableEq, Repr

/-- A declared tensor (R129 to R140). `hist` is the ring, oldest entry first; `stepMax` the step's largest finite
magnitude of completed commands (an FP32 pattern); `last` the value a of the last update. -/
structure Tensor where
  layer    : Nat
  kind     : BitVec 4
  scope1   : Bool
  ufWatch  : Bool
  fallbackOk : Bool
  fmt      : BitVec 4
  delayed  : Bool
  histLen  : Nat
  margin   : Int
  xInit    : Int
  xMin     : Int
  xMax     : Int
  downMax  : Int
  onOvf    : OnOvf
  ovfShift : Int
  retries  : Nat
  x        : Int
  hist     : List Word32
  stepMax  : Word32
  runMax   : Word32         -- the largest of the running command, which a re-run discards (R138)
  last     : Word32
  nonfin   : Bool
  fallback : Bool
  marked   : Bool           -- overflowed in the running command (R137)
  cmdRuns  : Nat            -- re-runs of the running command for this tensor
  reruns   : Nat            -- re-runs in the step (SCL_TENSOR_STAT.RERUNS)
  writer   : Option Nat     -- the command that writes it this step (R139), by dispatch number
  deriving DecidableEq, Repr

/-- A layer entry (R132, R141). -/
structure Layer where
  elems  : Nat
  zeros  : Nat
  run    : Nat
  alarms : Nat
  k      : BitVec 4
  kNew   : Option (BitVec 4)  -- a write to SCL_LAYER_STAT.K that awaits the next STEP_MARK (R142)
  deriving DecidableEq, Repr

/-! ## Reduction units and collectives (chapter 7) -/

/-- An XW128 region (R148) and where it lies. -/
structure Region where
  b       : Int
  limit   : Nat
  contrib : Nat
  shed    : Nat
  nonfin  : Nat
  ovf     : Bool
  ovfExp  : Int
  ctx     : BitVec 12
  obj     : Word32          -- object handle; it holds the object (R330)
  off     : Nat
  elems   : Nat
  residue : Bool            -- a residue mismatch marks the region (R277)
  deriving DecidableEq, Repr

/-- Stages of a running collective (R159 to R162). -/
inductive CollStage where
  | headers
  | phases      -- contributions and partial sums move, or the blocks of AG and A2A
  | closing
  | spread      -- the finished sums of AR move
  | final
  deriving DecidableEq, Repr

/-- A running collective, keyed by the queue of its COLL_RUN (R157, R166), or the exchange of an OPT_DIGEST (R187), whose
local digest and STEP_MARK count are `opt`. `region` is the region that it opened in SCRATCH; `slots` tells of which block each
element of SCRATCH holds the sum (the block plus 1; 0 none). The elements of a reduction are numbered over the RANKS blocks:
`landed` lists what has landed (first element, count, the ranks whose contributions it holds), `sent` what has left for another
rank. `got` is what each peer has sent of finished sums (elements) or of AG and A2A data (bytes), by rank; `own` tells that this
rank's own contribution is in; `arrivals` the arrival times of the running phase (R167); `touched` tells that memory it names
was written while it ran (R163). -/
structure Coll where
  src     : QSrc
  desc    : BitVec 512
  ranks   : List (BitVec 10 × BitVec 4)
  digest  : Word64
  base    : Int
  stage   : CollStage
  seen    : List (BitVec 10)         -- peers whose header arrived (R159)
  region  : Option Nat
  slots   : Tab Nat
  landed  : List (Nat × Nat × List Nat)
  sent    : List (Nat × Nat)
  got     : Tab Nat
  own     : Bool
  shed    : Nat
  nonfin  : Nat
  reran   : Bool
  arrivals : List (BitVec 10 × Nat)
  opt     : Option (BitVec 256 × Word64)
  touched : Bool
  deriving DecidableEq, Repr

/-- The skew record of a peer in a partition's view: of the last 256 phases, skew and whether it was last (R167). -/
structure Skew where
  phases : List (Nat × Bool)
  deriving DecidableEq, Repr

/-! ## Checkpoints and layers (chapters 8 and 9) -/

/-- A PROVISIONAL entry of the checkpoint table (R193): its context, job, step, horizon, identifier, digest of the file
and the address of its promotion record. -/
structure Ckpt where
  ctx    : BitVec 12
  id     : Word32
  step   : Nat
  h      : Nat
  digest : BitVec 512
  recVa  : Word64
  deriving DecidableEq, Repr

/-- A layer of the stash (R206, R209, R211): where its slice lies, if it has one, and whether it is in recompute mode. -/
structure StashLayer where
  layer     : Nat
  inForme   : Bool
  off       : Nat
  bytes     : Nat
  recompute : Bool
  deriving DecidableEq, Repr

/-- A context's activation stash (R206 to R211). -/
structure Stash where
  formeBytes : Nat
  obj        : Word32
  off        : Nat
  share      : Nat
  reserve    : Nat
  sizesGen   : Word32
  tokens     : Word64
  formeCur   : Nat
  dramCur    : Nat
  recompute  : Bool
  layers     : List StashLayer
  deriving DecidableEq, Repr

/-- Kinds of a run of EXEC_LAYERS (R200). -/
inductive RunKind where
  | fwd
  | dgrad
  | wgrad
  | recomp
  deriving DecidableEq, Repr

/-- The progress of an EXEC_LAYERS command (R201, R203). Positions count in the order in which the layers run. `code` gives
for each entry of the table its instruction count and the starts of FWD, DGRAD, WGRAD and RECOMP; `scales` the exponents in
force at dispatch (R213); `next` the position of the next layer; `recompOf` the layer whose RECOMP has run and whose own run
follows at once (R212); `signal` a completed WGRAD run whose fence is not yet signalled (R204). -/
structure LayerRun where
  entries  : List (BitVec 1024)
  code     : List (List Nat)
  scales   : List (Nat × Int)
  bwd      : Bool
  fallback : Bool
  deferMax : Nat
  tokens   : Word64
  jobTokens : Word64
  next     : Nat
  recompOf : Option Nat
  run      : Option (Nat × RunKind)
  deferred : List Nat
  signal   : Option Nat
  place    : Option StashLayer   -- the slice of the FWD run under way
  deriving DecidableEq, Repr

/-! ## Memory controllers, Case and Seal (chapters 10 and 11) -/

/-- A stored line (R219). -/
structure Line where
  data  : LineData
  tag   : Word64
  state : BitVec 16
  check : BitVec 48
  deriving DecidableEq, Repr

/-- A memory channel (R217, R219, R224, R235, R236, R251). `rowErr` lists the rows with corrected errors, most recent
first, with their counts; `spared` the rows that a spare serves; `front` the next line of a running erase pass. -/
structure Channel where
  owner    : BitVec 6
  era      : BitVec 14
  complete : BitVec 14
  passEra  : BitVec 14
  front    : Option (BitVec 24)
  spares   : Nat
  rowErr   : List (Nat × Nat)
  spared   : List Nat
  gen      : Word64
  deriving DecidableEq, Repr

/-- A counter block in the counter cache (R246, R252); the root is a block of level 4. -/
structure CtrBlk where
  minor    : BitVec 384
  major    : Word64
  gen      : Word64
  dirty    : Bool
  verified : Bool
  bad      : Option HaltAt   -- the check of the block, when it is resolved, fails as given
  used     : Nat             -- the order of last use (R252)
  deriving DecidableEq, Repr

/-- A line in a Case (R230, R257). -/
structure CaseLine where
  data  : LineData
  dirty : Bool
  kid   : BitVec 16
  part  : BitVec 6
  way   : BitVec 4
  stamp : Option Word64   -- the epoch of a delivery whose verification is pending
  used  : Nat             -- the order of last use (R231)
  deriving DecidableEq, Repr

/-- A delivered read that awaits verification (R253, R258): quadrant, stamp, stack, the line, the counter blocks it read
and, when its check fails, the halt it brings. -/
structure PendRead where
  q     : BitVec 2
  stamp : Word64
  stack : BitVec 5
  lid   : Nat
  blks  : List Nat
  bad   : Option HaltAt
  deriving DecidableEq, Repr

/-- KeyID states (R268). -/
inductive KidState where
  | free
  | bound
  | keyed
  | retiring
  deriving DecidableEq, Repr

/-- A KeyID (R240, R241, R268): state, owner and the wrapped blob that KEY_LOAD installed; whether the key cache holds its
entry and, of that entry, the seed of its keys, its Frisket mask and the job digest of its blob; the order of last use. -/
structure KeyId where
  state  : KidState
  owner  : BitVec 6
  blob   : BitVec 1024
  cached : Bool
  seed   : BitVec 256
  mask   : Word32
  jobDig : BitVec 224
  used   : Nat
  deriving DecidableEq, Repr

/-- The halt record (SEAL_HALT_CAUSE, SEAL_HALT_LOC). -/
structure HaltRec where
  cause : BitVec 16
  stack : BitVec 5
  level : BitVec 4
  loc   : BitVec 4
  line  : BitVec 24
  deriving DecidableEq, Repr

/-- Verification latency of a stack since SEAL_VLAT was read, and the outstanding sums (SEAL_VLAT). -/
structure VLat where
  max   : Nat
  sum   : Nat
  count : Nat
  deriving DecidableEq, Repr

/-! ## Egress (chapter 11) and what leaves the device -/

/-- What a write to host memory is, where that decides its way or what its refusal brings (R304, R523): data of a command, a
completion record, a fence record, a register-path Colophon or a mailbox response. -/
inductive WriteKind where
  | data
  | record
  | fence
  | colophon
  | mailbox
  deriving DecidableEq, Repr

/-- The CXL.cache requests that the device issues (R305). -/
inductive CacheReq where
  | rdShared
  | rdOwn
  | rdOwnNoData
  | rdCurr
  | cleanEvict
  | dirtyEvict
  | itoMWr
  deriving DecidableEq, Repr

/-- What an SPDM response or a DOE Discovery response carries (R313): the version; the selected algorithms; the digest of the
certificate chain in slot 0; the chain; a signature; the measurement blocks with their signature; a data object type, with
the next index. -/
inductive SpdmData where
  | none
  | version (major minor : Nat)
  | algorithms (asym hash dhe aead : Nat)
  | digest (d : BitVec 384)
  | chain (l : List Byte)
  | signature (l : List Byte)
  | measurements (blocks : List (BitVec 512)) (sig : List Byte)
  | objectType (vendor type next : Nat)
  deriving DecidableEq, Repr

/-- What leaves the device, or is answered at one of its interfaces. -/
inductive OutEv where
  | hostWrite (fn : BitVec 6) (kind : WriteKind) (pasid : Option (BitVec 20)) (addr : Word64) (data : List Byte)
  | cacheReq (kind : CacheReq) (addr : Nat) (data : Option LineData)   -- a request for a host line (R305)
  | ownLine (lid : Nat)                                -- RdOwnNoData for a staging line (R309)
  | aer (fn : BitVec 6) (bit : BitVec 5)               -- an error reported through AER (R315, R523)
  | msix (fn : BitVec 6) (vector : BitVec 4)
  | packet (port : BitVec 3) (data : List Byte)
  | memWrite (staging : Bool) (lid : Nat) (kid : BitVec 16) (part : BitVec 6) (mask : Word64) (data : LineData)  -- a line of device memory
  | record (data : List Byte)                          -- sideband or flash record
  | regRead (value : Word64)
  | memRead (data : LineData)
  | memCmp                                             -- NDR completion of a CXL.mem write
  | snoop (data : Option LineData)
  | spdm (ok : Bool) (code : BitVec 8) (data : SpdmData)
  | sideband (status : Byte) (data : List Byte)
  | haltFrame (port : BitVec 3)
  | reset                                              -- a reset of the core and the links
  deriving DecidableEq, Repr

/-- An entry of an egress path (R259 to R261): `stamp` is none until the path's next sample; a record that is `free` of
stamps passes in every state. `src` is the queue of the command that formed it, and `seq` that command's dispatch number. -/
structure Egress where
  stamp  : Option (List Word64)
  free   : Bool
  src    : Option QSrc
  seq    : Option Nat
  ev     : OutEv
  deriving DecidableEq, Repr

/-! ## Contexts, queues, objects, fences and commands (chapters 14 and 15) -/

/-- Context states (R320). -/
inductive CtxState where
  | idle
  | runnable
  | running
  | preempted
  | faulted
  | teardown
  deriving DecidableEq, Repr

/-- A mapping range (R333): virtual pages of 4 KiB onto pages of an object. -/
structure MapRange where
  va     : Nat
  len    : Nat
  handle : Word32
  off    : Nat
  read   : Bool
  write  : Bool
  exec   : Bool
  deriving DecidableEq, Repr

/-- A context queue (R324, R325). `num` is its device queue number. -/
structure Queue where
  num  : BitVec 14
  ring : Word64
  cpl  : Word64
  size : Nat
  irq  : Bool
  vector : BitVec 8
  prio : BitVec 8
  head : Word32
  tail : Word32
  done : Word32
  deriving DecidableEq, Repr

/-- Where a context's shares lie on every cluster of its partition (R381). -/
structure Placed where
  slot      : Nat
  formeBase : Nat
  formeSize : Nat
  galBase   : Nat
  galRows   : Nat
  deriving DecidableEq, Repr

/-- A context (R319 to R322, R359, R380, R386). -/
structure Context where
  bound   : Bool
  part    : BitVec 6
  pasid   : BitVec 20
  admin   : Bool
  state   : CtxState
  code    : BitVec 16
  faultQ  : BitVec 4
  faultIx : Word32
  steps   : Word64
  ranges  : List MapRange
  queues  : Tab (Option Queue)
  stash   : Option Stash
  suspect : Bool               -- CKPT_WRITE is barred (R188)
  rollbackAt : Option Word64   -- the count at which a rollback was found, not reloaded yet (R188)
  denseTo : Option Word64      -- dense sampling until the count reaches this (R188)
  prfPend : Option (BitVec 2)  -- a PRF_MISMATCH of a Proof unit awaits the next STEP_MARK (R283)
  pinned  : Bool
  placed  : Option Placed
  tdWait  : List QSrc          -- teardown and reset commands that wait for the sequence (R344)
  tdReset : Bool               -- the sequence is that of a reset (R343)
  runUs   : Nat
  waitUs  : Nat
  preempts : Nat
  overrun : Nat
  owed    : Nat                -- overrun not yet taken from slices (R384)
  starved : Bool               -- counts as priority 4 (R382)
  deriving DecidableEq, Repr

/-- A management queue (R352, R524). -/
structure MgmtQ where
  ring   : Word64
  cpl    : Word64
  enable : Bool
  irq    : Bool
  stop   : BitVec 2
  log2   : Nat
  head   : Word32
  tail   : Word32
  done   : Word32
  deriving DecidableEq, Repr

/-- A memory object (R328 to R331). A device object lies in an extent at a PMA offset; a host object at a PASID-space
address. -/
structure Obj where
  gen      : Nat
  owner    : BitVec 12
  part     : BitVec 6
  pasid    : BitVec 20
  host     : Bool
  staging  : Bool
  ext      : BitVec 3
  kid      : BitVec 16
  base     : Nat
  len      : Nat
  retiring : Bool
  freeing  : Bool            -- its KeyID's retirement is under way (R270, R331)
  holds    : Nat
  signal   : Option (BitVec 16 × Word32)  -- the fence of a deferred OBJ_FREE (R349)
  signaller : BitVec 12
  deriving DecidableEq, Repr

/-- Fence states (R336). -/
inductive FenceState where
  | live
  | broken
  | abandoned
  deriving DecidableEq, Repr

/-- A grant on a fence (R339). -/
structure Grant where
  ctx    : BitVec 12
  wait   : Bool
  signal : Bool
  active : Bool
  deriving DecidableEq, Repr

/-- An allocated fence slot (R336 to R341). -/
structure Fence where
  value   : Word64
  release : Word64
  state   : FenceState
  code    : BitVec 16
  owner   : BitVec 12
  mirror  : Word64
  grants  : List Grant
  deriving DecidableEq, Repr

/-- What a fetched command does until it completes. -/
inductive CmdStage where
  | syncWait              -- waits at check 5 of R350 (R349)
  | ready                 -- its SYNC wait is over; it awaits dispatch at check 6
  | fenceWait             -- a FENCE_WAIT that waits (R338)
  | tiles                 -- tile programs run (EXEC_TILE)
  | layers (r : LayerRun) -- EXEC_LAYERS (R201, R203)
  | coll                  -- COLL_RUN or OPT_DIGEST that exchanges with peers
  | teardown              -- CTX_TEARDOWN or CTX_RESET that waits (R342, R344)
  | freeing (idx : Nat)   -- OBJ_FREE that waits for its KeyID's retirement (R331)
  | storing (code r0 r1 detail : Nat)   -- done, but for its writes to device memory at the egress gate (R356)
  deriving DecidableEq, Repr

/-- A command in flight: fetched and not completed. There is at most one per queue (R356). -/
structure Cmd where
  src    : QSrc
  index  : Word32
  op     : Byte
  d      : BitVec 504
  seq    : Nat              -- dispatch number (R155)
  stage  : CmdStage
  holds  : List Word32      -- objects held (R330)
  left   : List (BitVec 7)  -- clusters that have not ended (R81)
  reruns : Nat
  fellBack : Bool
  deriving DecidableEq, Repr

/-! ## Partitions and scheduling (chapter 16) -/

/-- Partition states (R370). -/
inductive PartState where
  | free
  | binding
  | active
  | draining
  | resetting
  | halted
  deriving DecidableEq, Repr

/-- A tenant partition (R367, R370, R382). Clusters, channels and KeyIDs name their owner themselves. -/
structure Partition where
  state    : PartState
  extents  : Tab (List Nat)         -- the ordered channels of each extent (R228)
  ways     : BitVec 16
  ports    : List (BitVec 7)
  slice    : Option (BitVec 6)
  sizesGen : Word32
  sizes    : List Word32            -- the words of DEV_SIZES that it reads: those of its last command boundary (R23, R24)
  haltDue  : Bool                   -- a halt cause arose in BINDING (R370)
  flrDue   : Bool                   -- a Function Level Reset arrived in BINDING or DRAINING (R370)
  holder   : Option (BitVec 12)     -- context that holds the slice (R382)
  queueing : List (BitVec 12)       -- ready contexts without the slice, longest waiting first
  preemptDue : Bool                 -- the holder is being pre-empted (R382, R383)
  uePma    : Tab (Option Nat)       -- MC_UE_PMA per stack
  passRate : Nat
  job      : Option (BitVec 256)    -- digest of the installed job (R445)
  shared   : List (BitVec 512)      -- allow-list in force (R403)
  event    : Bool                   -- a detection event since the last merged STEP_MARK (R194)
  deriving DecidableEq, Repr

/-- A bind request in progress (R371). -/
structure BindReq where
  op   : BitVec 8
  part : BitVec 6
  req  : BitVec 2048
  moved : Bool               -- its resources have moved, and leaving Case ways are still being flushed (R232)
  deriving DecidableEq, Repr

/-! ## Proof units (chapter 12) -/

/-- A captured pass whose check has not resolved (R280). -/
structure Capture where
  cl   : BitVec 7
  ctx  : BitVec 12
  part : BitVec 6
  cmd  : Nat                 -- dispatch number of its command
  id   : Word64
  fa   : BitVec 4            -- its formats
  fb   : BitVec 4
  blocks : List (Nat × Nat)  -- the copies of its operand blocks, chunk by chunk
  crcs : List Word64         -- the CRC-64 of each chunk, as the array sent it
  own  : List Word64         -- the Proof unit's, once a referee is called (R284)
  row  : Nat                 -- its first physical row
  found : Bool               -- a residue fault of the pass is a finding already (R286)
  void : Bool                -- its command has faulted or was abandoned (R282)
  gone : Bool                -- its context has been torn down (R282)
  referee : Option (BitVec 7)   -- the cluster that runs its referee pass (R284)
  deriving DecidableEq, Repr

/-- A Proof unit, by quadrant. -/
structure ProofUnit where
  online  : Bool
  queue   : List Capture
  deriving DecidableEq, Repr

/-! ## Host interface (chapter 13) -/

/-- States of a TSP device interface (R314). -/
inductive Tdi where
  | unlocked
  | locked
  | run
  | error
  deriving DecidableEq, Repr

/-- A staging slot (R306, R310). -/
structure Staging where
  mapped : Bool
  part   : BitVec 6
  handle : Word32
  off4k  : Nat
  err    : BitVec 3
  deriving DecidableEq, Repr

/-- A host line of the HIF cache (R304): its bytes, whether the device has modified it, and its order of last use. -/
structure HostLine where
  data     : LineData
  modified : Bool
  used     : Nat
  deriving DecidableEq, Repr

/-- The host interface (R298 to R315). Stream 0 is the CXL.io link stream, 1 the CXL.cachemem stream, 2 to 5 the
selective streams. `hostCache` is the HIF cache: released values of host lines by address. -/
structure Hif where
  up       : Bool
  rate     : BitVec 3
  width    : BitVec 5
  tries    : Nat
  stuck    : Bool               -- stays in Detect (R299)
  cacheOn  : Bool               -- CXL.cache enabled by the host while the link is up
  ide      : BitVec 6
  fails    : Nat
  graceOut : Bool               -- the grace period has expired
  txQueue  : List Egress        -- released entries that wait for a secure link (R312)
  hostCache : Tab (Option HostLine)
  tdi      : Tab Tdi            -- by partition
  staging  : Tab Staging
  rejInfo  : Option (Bool × BitVec 3 × BitVec 8 × BitVec 36)
  session  : Bool               -- an SPDM secured session is open (R313)
  keyEx    : Bool               -- a KEY_EXCHANGE awaits its FINISH
  masters  : Tab Bool           -- Bus Master Enable, by function (R523)
  numVfs   : BitVec 6           -- the VFs that are enabled: VF 1 on (R301)
  hdm      : Option Word64      -- the base of DVSEC Range 1, while it is enabled (R303, R306)
  aer      : Tab Word32         -- AER uncorrectable error status, by function (R302)
  deriving DecidableEq, Repr

/-! ## Fabric (chapter 17) -/

/-- Link states (R393). -/
inductive PortState where
  | down
  | training
  | attesting
  | fenced
  | up
  deriving DecidableEq, Repr

/-- A packet as a port holds it: header, payload and job tag, and the command of this device that formed it. -/
structure Pkt where
  src  : Option QSrc
  data : List Byte
  deriving DecidableEq, Repr

/-- A Cuton port (R391 to R418). -/
structure Port where
  state    : PortState
  reason   : BitVec 5
  role     : Option (BitVec 3)    -- a logical role other than the port's own (R401)
  version  : BitVec 4
  x4       : Bool
  switch   : Bool
  lanes    : BitVec 8
  retryOk  : Bool                 -- TRAIN_RETRY_MS has passed since the port left TRAINING for DOWN
  idOk     : Bool
  attested : Bool
  serial   : Word64
  peerDev  : BitVec 10
  peerPort : BitVec 3
  planId   : Word64
  peerRole : Byte
  meas     : BitVec 512
  session  : Option (BitVec 1024)  -- the four keys of the hop session (R397)
  retrain  : Bool                 -- in TRAINING from UP
  txSeq    : Word32
  rxSeq    : Word32
  credits  : Tab Nat              -- credits in use by VC and class (R413)
  replay   : List Pkt             -- sent and not acknowledged
  txq      : List Pkt             -- packets that wait for credits
  deriving DecidableEq, Repr

/-- A pair session with a device of another group (R409, R410). -/
structure Pair where
  up      : Bool
  keys    : BitVec 1024
  waiting : List InjectIn
  closing : Bool
  used    : Nat
  rxSeq   : Option Word32
  deriving DecidableEq, Repr

/-- The fabric router (R398 to R415). `plan` is the loaded plan's bytes; `map` the link reports of the group's devices;
`seqOut` and `seqIn` the sequence numbers by (slice, endpoint, VC) and (slice, source, endpoint, VC). -/
structure Frt where
  plan    : Option (List Byte)
  planErr : BitVec 4
  map     : List LinkRep
  twoMeas : List (BitVec 10)                -- devices with reports of two measurements (R403)
  pairs   : List (BitVec 10 × Pair)
  keys    : Tab (Option (BitVec 256))       -- job key by slice (R415)
  allow   : Tab (List (BitVec 512))         -- allow-list by slice (R403)
  seqOut  : Tab Nat
  seqIn   : Tab Nat
  lost    : List QSrc                       -- commands whose packet this step discards (R411)
  deriving DecidableEq, Repr

/-! ## Security (chapter 18) -/

/-- A pending job: its digest, record, and the shares held by owner index (R444). -/
structure PendJob where
  digest : BitVec 256
  record : List Byte
  shares : Tab (Option (BitVec 256))
  deriving DecidableEq, Repr

/-- An installed job (R445). -/
structure Job where
  digest : BitVec 256
  key    : BitVec 256
  record : List Byte
  deriving DecidableEq, Repr

/-- The security controller (R424 to R453). `lc` is the three copies of the life-cycle word; `dus` is none before it is
written; `cloaked` holds while the key rows are burned to all ones (R429). -/
structure Sec where
  lc       : List (BitVec 16)
  dus      : Option (BitVec 256)
  cloaked  : Bool
  floor    : BitVec 16
  epoch    : Nat                  -- burned bits of the health epoch (R487)
  nonce    : BitVec 256
  bootVal  : BitVec 256           -- stands for DUS in RETURN and SCRAP (R429)
  treeKeys : Option Nat           -- channel c's tree keys are draw treeKeys + c; none while they are zeroised (R251, R266)
  seed     : BitVec 256           -- Proof seed (R279)
  m4       : BitVec 512
  busy     : Bool
  status   : BitVec 4
  respLen  : BitVec 17
  pend     : List PendJob
  jobs     : Tab (Option Job)     -- by partition
  jobRecs  : List (BitVec 256 × List Byte)  -- records of jobs with a JOB blob of this boot, by digest
  keyFault : BitVec 12 × BitVec 16
  deriving DecidableEq, Repr

/-! ## Power (chapter 19) -/

/-- Device states (R455). -/
inductive DevState where
  | boot
  | service
  | braced
  | halted
  | evacuate
  | slumber
  deriving DecidableEq, Repr

/-- Reset causes (PWR_RST_CAUSE.KIND). -/
inductive RstCause where
  | pwrOk
  | uv (rail : BitVec 3)
  | warm
  | flr
  | sideband
  | lcAdvance
  | braceMax
  | trip
  | sealHalt
  deriving DecidableEq, Repr

/-- Power, clocks and resets. -/
structure Pwr where
  state     : DevState
  sealHalt  : Bool               -- HALTED by a Seal halt
  bootFail  : Bool
  held      : Bool               -- BOOT's progress is held by a rail (R463)
  offHold   : Bool               -- PWR_OK is low, or a condition of R502 or R504 holds power-on reset
  nTherm    : Nat
  nCap      : Nat
  rails     : List (Nat × Nat × Bool)   -- sense and lowest mV, below UV_WARN, in table order
  temps     : Tab (Nat × Nat × Nat)     -- now, highest since PWR_TEMP, highest since GET_SENSOR
  watts     : BitVec 11
  trip      : Option (BitVec 6 × BitVec 8)
  cause     : RstCause
  slumErr   : BitVec 2
  slumWait  : Bool               -- a SLUMBER entry is under way (R466)
  dramHot   : BitVec 32          -- stacks at doubled refresh (R464)
  refFab    : Bool
  refCxl    : Bool
  refAon    : Bool
  pwrOk     : Bool
  haltN     : Bool               -- HALT_N is driven low
  thermN    : Bool               -- THERM_N is driven low
  sbSmbus   : Bool
  deriving DecidableEq, Repr

/-! ## Management (chapter 20) -/

/-- Journal record types (R480). -/
inductive RecType where
  | health
  | spare
  | era
  | hours
  | image
  | event
  deriving DecidableEq, Repr

/-- A journal record (R479): its type, KEY, SEQ, hours and payload; `ok` when it is committed and its TAG verifies. -/
structure Rec where
  type    : RecType
  key     : Byte
  seq     : Word64
  hours   : Word32
  payload : List Byte
  ok      : Bool
  deriving DecidableEq, Repr

/-- States of a journal sector (R478). -/
inductive SecState where
  | erased
  | openS
  | sealedS
  | stale
  deriving DecidableEq, Repr

/-- A journal sector (R478): `spare` while it is not in rotation, `retired` after R486. -/
structure Sector where
  state   : SecState
  erases  : Nat
  first   : Word64
  recs    : List Rec
  used    : Nat
  deriving DecidableEq, Repr

/-- A firmware slot (R488, R489). -/
structure FwSlot where
  valid : Bool
  svn   : BitVec 16
  meas  : BitVec 512
  deriving DecidableEq, Repr

/-- The management controller (R474 to R494). `rotation` and `sectors` are the journal store; `pending` the records of
the always-on queue. -/
structure Mgt where
  store    : BitVec 2             -- 0 writable, 1 read-only, 2 no flash
  serial   : Word64               -- the layout header's SERIAL
  sectors  : Tab Sector
  rotation : List Nat
  spares   : List Nat
  nextSeq  : Word64
  queue    : List Rec
  hours    : Nat
  reformat : Bool
  slotA    : FwSlot
  slotB    : FwSlot
  activeB  : Bool
  stagedB  : Option Bool          -- the slot that holds a staged image
  tryB     : Option Bool          -- the slot that TRY names
  tryUsed  : Bool
  fwBusy   : Bool
  fwErr    : BitVec 4
  recovery : Bool                 -- recovery staging is open (R491)
  fwLen    : Nat
  replace  : Bool                 -- PRF_HEALTH.REPLACE
  deriving DecidableEq, Repr

/-- The PRF_LAST record. -/
structure PrfLast where
  kind : BitVec 2
  cl   : BitVec 7
  ctx  : BitVec 12
  part : BitVec 6
  id   : Word64
  deriving DecidableEq, Repr

/-- A Colophon register copy (R362). -/
structure Colo where
  busy   : Bool
  status : BitVec 3
  deriving DecidableEq, Repr

/-- A debug hold (R385). -/
structure DbgHold where
  hold : Bool
  held : Bool
  cl   : BitVec 7
  deriving DecidableEq, Repr

/-! ## Registers (chapter 2) -/

/-- The register blocks of R29. -/
inductive Blk where
  | dev | pwr | mgt | sec | cl | sow | gal | gln | vec | scl | prf | hif | iommu | cmdp | part | mc | seal | rdu | ctn
  | frt | coll
  deriving DecidableEq, Repr

/-- A change of register fields whose value derives from tenant data (R39): a counter of a function's copy, one of 64 bits, a
condition or an error bit of a page for a party, the fault record of a cluster. -/
inductive RegUpd where
  | count (fn : Nat) (b : Blk) (inst off n : Nat)
  | count64 (fn : Nat) (b : Blk) (inst off n : Nat)
  | cond (b : Blk) (inst n part : Nat)
  | err (b : Blk) (inst n part : Nat)
  | fault (cl ctx code : Nat)
  deriving DecidableEq, Repr

/-- What registers show of tenant data while a read waits for its verification (R39): changes that wait, each with the epochs of
the quadrants when it arose, and the tables that the registers show. -/
structure Shown where
  late    : List (List Word64 × RegUpd)
  tensors : Tab (Option Tensor)
  layers  : Tab (Option Layer)
  regions : Tab (Option Region)
  deriving DecidableEq, Repr

/-! ## The state -/

/-- The state of the device. Tables list only entries that differ from their default entry (`Sys2Proof.Tab`); the
defaults stand in Machine/Ops.lean. -/
structure State where
  pending  : List Instr              -- waiting commands, first in first out
  freeCtr  : Nat                     -- the model's own: free values are read at it
  out      : List OutEv              -- what has left the device, oldest first
  -- registers (chapter 2)
  regs     : Tab Word32
  latch    : Tab (Option Word32)     -- latched upper halves by function and offset (R42)
  badacc   : BadAcc
  colo     : Tab Colo                -- by function
  coloGen  : Word64
  msixOpen : Tab Bool                -- unmasked vectors, by function * 16 + vector (R34)
  msixPend : Tab Bool
  -- device
  pwr      : Pwr
  sec      : Sec
  mgt      : Mgt
  hif      : Hif
  ports    : Tab Port
  frt      : Frt
  -- clusters
  clusters : Tab Cluster
  dbg      : DbgHold
  -- memory and Seal
  chans    : Tab Channel
  lines    : Tab Line                -- by LID
  ctrs     : Tab (Option CtrBlk)     -- by channel, level and block
  cases    : Tab (Option CaseLine)   -- by LID
  flushing : List (BitVec 4)         -- Case ways that have left a partition and are not flushed yet (R232)
  kids     : Tab KeyId
  retiring : List (BitVec 16 × Option Nat)  -- retirements under way, with the object's index (R270)
  reads    : List PendRead           -- oldest first
  shown    : Shown
  epochs   : Tab Word64              -- by quadrant
  halt     : Option HaltRec
  vlat     : Tab VLat                -- by stack
  delivered : Option LineData        -- what the last access to one line delivered to its agent (R230, R253)
  egress   : Tab (List Egress)       -- by path, oldest first
  -- reductions, collectives, scales
  regions  : Tab (Option Region)
  colls    : List Coll
  skews    : Tab Skew                -- by partition * 1024 + device
  tensors  : Tab (Option Tensor)     -- by context * 16384 + identifier
  layers   : Tab (Option Layer)      -- by context * 4096 + layer
  ckpts    : List Ckpt
  ckptId   : Word32
  -- contexts and commands
  ctxs     : Tab Context
  mqs      : Tab MgmtQ
  objs     : Tab (Option Obj)        -- by index
  objGen   : Tab Nat                 -- last generation issued for an index
  fences   : Tab (Option Fence)
  inflight : List Cmd
  sent     : Tab Nat                 -- commands dispatched since BOOT, by partition and at 64 for the device (R363)
  -- partitions
  parts    : Tab Partition
  bind     : Option BindReq
  bindErr  : BitVec 4
  bindPart : BitVec 6
  sizesGen : Word32                  -- device scope (R22)
  -- Proof units
  units    : Tab ProofUnit
  prfLast  : PrfLast
  deriving DecidableEq, Repr

/-- Why a step stops with a fault: a command names a thing that the spec says does not exist. -/
inductive Fault where
  /-- Raised by the commands on one line (SEAL_*, CASE_LINE_ACCESS, HARROW_*) whose line number lies beyond the channel's
  lines or, for an object line, in the counter-tree region (R216). Safe: nothing happens. -/
  | noSuchLine
  /-- Raised by the rail commands for a rail number that R459 does not list, or a UV_WARN of VDD_AON, which has none.
  Safe: nothing happens. -/
  | noSuchRail
  deriving DecidableEq, Repr

/-- Why a step is refused. -/
inductive Refusal where
  /-- Raised by `exec` alone, for a command without a meaning. Safe: nothing happens. -/
  | notModelled (mnemonic : String)
  /-- Raised by the reserved rows (RESERVED_DESCRIPTOR, RESERVED_INSTRUCTION,
  SEC_MB_RESERVED_OPCODE) when their code is not a reserved one: another row describes it. Safe: nothing happens. -/
  | otherRow
  deriving DecidableEq, Repr

/-! ## Reset -/

/-- Power, after a power-on reset (R455, R457, R472, R505). -/
def Pwr.reset : Pwr where
  state := .boot
  sealHalt := false
  bootFail := false
  held := false
  offHold := false
  nTherm := 16
  nCap := 16
  rails := List.replicate 6 (0, 0xFFFF, false)
  temps := []
  watts := 0
  trip := none
  cause := .pwrOk
  slumErr := 0
  slumWait := false
  dramHot := 0
  refFab := true
  refCxl := true
  refAon := true
  pwrOk := true
  haltN := false
  thermN := false
  sbSmbus := false

/-- Security, after a power-on reset (R426, R432, R450). The fuses are a part's: log entry 3. -/
def Sec.reset : Sec where
  lc := List.replicate 3 0x00FF#16
  dus := some Config.dus
  cloaked := false
  floor := 0
  epoch := 0
  nonce := (Config.trng 0).setWidth 256
  bootVal := (Config.trng 3).setWidth 256
  treeKeys := some 4
  seed := (Config.trng 2).setWidth 256
  m4 := Config.bootMeas
  busy := false
  status := 0
  respLen := 0
  pend := []
  jobs := []
  jobRecs := []
  keyFault := (0, 0)

/-- Management, after a power-on reset (R478, R487): log entry 10. -/
def Mgt.reset : Mgt where
  store := 0
  serial := Config.serial
  sectors := []
  rotation := List.range 448
  spares := (List.range 48).map (· + 448)
  nextSeq := 1
  queue := []
  hours := 0
  reformat := true
  slotA := { valid := true, svn := 0, meas := Config.bootMeas }
  slotB := { valid := false, svn := 0, meas := 0 }
  activeB := false
  stagedB := none
  tryB := none
  tryUsed := false
  fwBusy := false
  fwErr := 0
  recovery := false
  fwLen := 0
  replace := false

/-- The host interface, after a power-on reset (R298, R311, R314). -/
def Hif.reset : Hif where
  up := false
  rate := 0
  width := 0
  tries := 0
  stuck := false
  cacheOn := false
  ide := 0
  fails := 0
  graceOut := false
  txQueue := []
  hostCache := []
  tdi := []
  staging := []
  rejInfo := none
  session := false
  keyEx := false
  masters := []
  numVfs := 0
  hdm := none
  aer := []

/-- The fabric router, after a reset (R404, R422). -/
def Frt.reset : Frt where
  plan := none
  planErr := 0
  map := []
  twoMeas := []
  pairs := []
  keys := []
  allow := []
  seqOut := []
  seqIn := []
  lost := []

/-- The state right after a power-on reset: BOOT has begun, nothing is bound and nothing waits. -/
def State.reset : State where
  pending := []
  freeCtr := 516
  out := []
  regs := []
  latch := []
  badacc := { valid := false, write := false, vf := false, part := 0, bar := 0, size := 0, off := 0 }
  colo := []
  coloGen := 0
  msixOpen := []
  msixPend := []
  pwr := Pwr.reset
  sec := Sec.reset
  mgt := Mgt.reset
  hif := Hif.reset
  ports := []
  frt := Frt.reset
  clusters := []
  dbg := { hold := false, held := false, cl := 0 }
  chans := []
  lines := []
  ctrs := []
  cases := []
  flushing := []
  kids := []
  retiring := []
  reads := []
  shown := { late := [], tensors := [], layers := [], regions := [] }
  epochs := []
  halt := none
  vlat := []
  delivered := none
  egress := []
  regions := []
  colls := []
  skews := []
  tensors := []
  layers := []
  ckpts := []
  ckptId := 1
  ctxs := []
  mqs := []
  objs := []
  objGen := []
  fences := []
  inflight := []
  sent := []
  parts := []
  bind := none
  bindErr := 0
  bindPart := 0
  sizesGen := 0
  units := []
  prfLast := { kind := 0, cl := 0, ctx := 0, part := 0, id := 0 }

end Sys2Proof.Machine
end

