-- ==== Sys2Proof/Machine/Tab.lean ====
section
/-!
DEFINITION. Sparse tables: reading and writing an entry, and the canonical form that a write keeps. Byte strings and
little-endian fields (R6, R7).
-/

namespace Sys2Proof.Machine

/-- The entry of key `k`, or the default. -/
def tget {α : Type} (d : α) : Tab α → Nat → α
  | [], _ => d
  | (a, v) :: t, k => if a = k then v else tget d t k

/-- Insert an entry whose key the table does not hold, in order. -/
def tins {α : Type} (k : Nat) (v : α) : Tab α → Tab α
  | [] => [(k, v)]
  | (a, w) :: t => if k < a then (k, v) :: (a, w) :: t else (a, w) :: tins k v t

/-- The table without key `k`. -/
def tdel {α : Type} (k : Nat) (t : Tab α) : Tab α :=
  t.filter fun e => e.1 != k

/-- Write an entry. An entry equal to the default is not listed. -/
def tput {α : Type} [DecidableEq α] (d : α) (t : Tab α) (k : Nat) (v : α) : Tab α :=
  if v = d then tdel k t else tins k v (tdel k t)

/-- The canonical form: keys strictly rising, no entry equal to the default. -/
def Tab.wf {α : Type} [DecidableEq α] (d : α) (t : Tab α) : Bool :=
  decide ((t.map (·.1)).Pairwise (· < ·)) && t.all fun e => decide (e.2 ≠ d)

/-- The low `n` bytes of a number, little-endian. -/
def leBytes : Nat → Nat → List Byte
  | 0, _ => []
  | n + 1, v => BitVec.ofNat 8 v :: leBytes n (v / 256)

/-- The number that little-endian bytes spell. -/
def ofLe : List Byte → Nat
  | [] => 0
  | b :: t => b.toNat + 256 * ofLe t

/-- The low `n` bytes of a number, big-endian. -/
def beBytes (n v : Nat) : List Byte :=
  (leBytes n v).reverse

/-- The number in `len` bytes from byte `off` of a little-endian string held as a number. -/
def field (v off len : Nat) : Nat :=
  (v >>> (8 * off)) % 2 ^ (8 * len)

/-- Bits `hi` to `lo` of a number. -/
def bits (v hi lo : Nat) : Nat :=
  (v >>> lo) % 2 ^ (hi + 1 - lo)

/-- Bit `i` of a number. -/
def bit (v i : Nat) : Bool :=
  v.testBit i

/-- The two's-complement value of the low `w` bits of a number. -/
def signed (v w : Nat) : Int :=
  (BitVec.ofNat w v).toInt

/-- A Bool as a bit. -/
def b2n (b : Bool) : Nat :=
  if b then 1 else 0

/-- A count from 1 to a limit. -/
def countOk (n top : Nat) : Bool := decide (1 ≤ n) && decide (n ≤ top)

/-- The bytes `off` to `off + len - 1` of a string; bytes beyond its end read as zero. -/
def slice (l : List Byte) (off len : Nat) : List Byte :=
  let t := (l.drop off).take len
  t ++ List.replicate (len - t.length) 0

/-- The number that `len` bytes at `off` of a string spell, little-endian. -/
def leAt (l : List Byte) (off len : Nat) : Nat :=
  ofLe (slice l off len)

/-- A string padded with zero bytes to a multiple of `n`. -/
def padTo (n : Nat) (l : List Byte) : List Byte :=
  l ++ List.replicate ((n - l.length % n) % n) 0

/-- ASCII text as bytes, from its code points. -/
def ascii (l : List Nat) : List Byte :=
  l.map (BitVec.ofNat 8)

end Sys2Proof.Machine
end

