-- ==== Sys2Proof/Machine/Num.lean ====
section
/-!
DEFINITION. Numeric formats, rounding and arithmetic (chapter 5): values as exact sign, integer and power of two, and
round to nearest even applied to exact results (R108).
-/

namespace Sys2Proof.Machine

/-- A value: NaN, an infinity, or (-1)^neg × m × 2^e. A zero keeps its sign (R109). -/
inductive Num where
  | nan
  | inf (neg : Bool)
  | fin (neg : Bool) (m : Nat) (e : Int)
  deriving DecidableEq, Repr

/-- An element format (R104): exponent bits, fraction bits and bias; whether its top exponent holds infinities and NaNs
(`ieee`), or only the fraction of all ones is NaN (`e4m3`). -/
structure Fmt where
  eb   : Nat
  fb   : Nat
  bias : Nat
  ieee : Bool
  e4m3 : Bool
  deriving DecidableEq, Repr

/-- FP8 E4M3. -/
def Fmt.E4M3 : Fmt := { eb := 4, fb := 3, bias := 7, ieee := false, e4m3 := true }
/-- FP8 E5M2. -/
def Fmt.E5M2 : Fmt := { eb := 5, fb := 2, bias := 15, ieee := true, e4m3 := false }
/-- FP6 E3M2. -/
def Fmt.E3M2 : Fmt := { eb := 3, fb := 2, bias := 3, ieee := false, e4m3 := false }
/-- FP6 E2M3. -/
def Fmt.E2M3 : Fmt := { eb := 2, fb := 3, bias := 1, ieee := false, e4m3 := false }
/-- FP4 E2M1. -/
def Fmt.E2M1 : Fmt := { eb := 2, fb := 1, bias := 1, ieee := false, e4m3 := false }
/-- BF16. -/
def Fmt.BF16 : Fmt := { eb := 8, fb := 7, bias := 127, ieee := true, e4m3 := false }
/-- FP16. -/
def Fmt.FP16 : Fmt := { eb := 5, fb := 10, bias := 15, ieee := true, e4m3 := false }
/-- FP32. -/
def Fmt.FP32 : Fmt := { eb := 8, fb := 23, bias := 127, ieee := true, e4m3 := false }
/-- GW40, the Galley word (R114). -/
def Fmt.GW40 : Fmt := { eb := 8, fb := 31, bias := 127, ieee := true, e4m3 := false }

/-- The element format of a format code (R76); the elements of an MX code. -/
def Fmt.ofCode (c : Nat) : Option Fmt :=
  match c with
  | 0 => some .E4M3
  | 1 => some .E5M2
  | 2 => some .E4M3
  | 3 => some .E5M2
  | 4 => some .E3M2
  | 5 => some .E2M3
  | 6 => some .E2M1
  | 7 => some .BF16
  | 8 => some .FP16
  | 9 => some .FP32
  | _ => none

/-- The width of a format in bits. -/
def Fmt.width (f : Fmt) : Nat := 1 + f.eb + f.fb

/-- MX codes (R76). -/
def isMx (c : Nat) : Bool := 2 ≤ c && c ≤ 6

/-- The width of an element of a format code in bits. -/
def codeWidth (c : Nat) : Nat :=
  match Fmt.ofCode c with
  | some f => f.width
  | none => 0

/-- The exponent of the format's least subnormal. -/
def Fmt.emin (f : Fmt) : Int := 1 - (f.bias : Int) - f.fb

/-- The largest exponent field of a finite value. -/
def Fmt.topE (f : Fmt) : Nat := if f.ieee then 2 ^ f.eb - 2 else 2 ^ f.eb - 1

/-- The integer significand of the largest finite value. -/
def Fmt.topM (f : Fmt) : Nat := if f.e4m3 then 2 ^ (f.fb + 1) - 2 else 2 ^ (f.fb + 1) - 1

/-- The exponent of the unit of the largest finite value. -/
def Fmt.topX (f : Fmt) : Int := (f.topE : Int) - f.bias - f.fb

/-- The value that a pattern encodes (R104). -/
def Fmt.decode (f : Fmt) (w : Nat) : Num :=
  let frac := w % 2 ^ f.fb
  let ex := w / 2 ^ f.fb % 2 ^ f.eb
  let neg := w.testBit (f.eb + f.fb)
  if f.ieee && ex == 2 ^ f.eb - 1 then (if frac = 0 then .inf neg else .nan)
  else if f.e4m3 && ex == 2 ^ f.eb - 1 && frac == 2 ^ f.fb - 1 then .nan
  else if ex = 0 then .fin neg frac f.emin
  else .fin neg (2 ^ f.fb + frac) ((ex : Int) - f.bias - f.fb)

/-- The canonical NaN of a format (R110). FP6 and FP4 have none: zero, beside a NaN scale. -/
def Fmt.nanBits (f : Fmt) : Nat :=
  if f.ieee then (2 ^ f.eb - 1) * 2 ^ f.fb + 2 ^ (f.fb - 1)
  else if f.e4m3 then 2 ^ (f.eb + f.fb) - 1
  else 0

/-- The sign bit of a format, when set. -/
def Fmt.signBits (f : Fmt) (neg : Bool) : Nat := if neg then 2 ^ (f.eb + f.fb) else 0

/-- The largest finite value's pattern, with a sign. -/
def Fmt.maxBits (f : Fmt) (neg : Bool) : Nat :=
  f.signBits neg + f.topE * 2 ^ f.fb + f.topM % 2 ^ f.fb

/-- The infinity's pattern, with a sign. -/
def Fmt.infBits (f : Fmt) (neg : Bool) : Nat :=
  f.signBits neg + (2 ^ f.eb - 1) * 2 ^ f.fb

/-- Round m × 2^e to an integer multiple of 2^q, to nearest, ties to even (R108). -/
def rneAt (m : Nat) (e q : Int) : Nat :=
  if q ≤ e then m <<< (e - q).toNat
  else
    let sh := (q - e).toNat
    let fl := m >>> sh
    let rest := m - (fl <<< sh)
    let half := 2 ^ (sh - 1)
    if rest > half ∨ (rest = half ∧ fl % 2 = 1) then fl + 1 else fl

/-- The exponent of the unit in which a value with significand m and exponent e is rounded: the format's precision, with
the exponent range unbounded above (R111). -/
def Fmt.quantum (f : Fmt) (m : Nat) (e : Int) : Int :=
  max (e + (m.log2 : Int) - f.fb) f.emin

/-- What a rounding gives: the pattern, whether the rounded magnitude exceeds the largest finite value, and whether a
non-zero value became zero (R111, R113). -/
structure Rounded where
  bits  : Nat
  sat   : Bool
  under : Bool
  deriving DecidableEq, Repr

/-- The pattern of an integer multiple of 2^q that the format represents. -/
def Fmt.pack (f : Fmt) (neg : Bool) (r : Nat) (q : Int) : Nat :=
  let (r, q) := if 2 ^ (f.fb + 1) ≤ r then (r / 2, q + 1) else (r, q)
  if r < 2 ^ f.fb then f.signBits neg + r
  else f.signBits neg + (q + f.fb + f.bias).toNat * 2 ^ f.fb + r % 2 ^ f.fb

/-- Round a finite value to a format. -/
def Fmt.round (f : Fmt) (neg : Bool) (m : Nat) (e : Int) : Rounded :=
  if m = 0 then { bits := f.signBits neg, sat := false, under := false }
  else
    let q := f.quantum m e
    let r := rneAt m e q
    if r = 0 then { bits := f.signBits neg, sat := false, under := true }
    else
      let top := f.topX
      let sat := if q ≤ top then decide (f.topM <<< (top - q).toNat < r) else true
      if sat then { bits := f.maxBits neg, sat := true, under := false }
      else { bits := f.pack neg r q, sat := false, under := false }

/-- The result of an operation in a format with infinities: overflow gives an infinity (R115, R119). -/
def Fmt.ofNum (f : Fmt) (x : Num) : Nat :=
  match x with
  | .nan => f.nanBits
  | .inf n => f.infBits n
  | .fin n m e =>
    let r := f.round n m e
    if r.sat then f.infBits n else r.bits

/-- A conversion (R111): the pattern, whether it is a saturation (R112) and whether it underflows (R113). -/
def Fmt.convert (f : Fmt) (x : Num) : Rounded :=
  match x with
  | .nan => { bits := f.nanBits, sat := false, under := false }
  | .inf n =>
    if f.ieee then { bits := f.infBits n, sat := false, under := false }
    else { bits := f.maxBits n, sat := true, under := false }
  | .fin n m e => f.round n m e

/-! ## Exact operations -/

/-- The magnitude of an integer times 2^e as a value; zero takes the given sign. -/
def Num.ofInt (z : Int) (e : Int) (zneg : Bool) : Num :=
  if z = 0 then .fin zneg 0 0 else .fin (decide (z < 0)) z.natAbs e

/-- The signed integer of a finite value in units of 2^q, for q at most its exponent. -/
def signedAt (neg : Bool) (m : Nat) (e q : Int) : Int :=
  let a : Int := ((m <<< (e - q).toNat : Nat) : Int)
  if neg then -a else a

/-- The exact sum. An exact zero is +0, except that the sum of -0 and -0 is -0 (R109). -/
def Num.add (x y : Num) : Num :=
  match x, y with
  | .nan, _ => .nan
  | _, .nan => .nan
  | .inf a, .inf b => if a = b then .inf a else .nan
  | .inf a, _ => .inf a
  | _, .inf b => .inf b
  | .fin a m e, .fin b n d =>
    let q := min e d
    Num.ofInt (signedAt a m e q + signedAt b n d q) q (a && b && m == 0 && n == 0)

/-- The negation; NaN stays NaN. -/
def Num.neg (x : Num) : Num :=
  match x with
  | .nan => .nan
  | .inf a => .inf (!a)
  | .fin a m e => .fin (!a) m e

/-- The exact product. -/
def Num.mul (x y : Num) : Num :=
  match x, y with
  | .nan, _ => .nan
  | _, .nan => .nan
  | .inf a, .inf b => .inf (a != b)
  | .inf a, .fin b n _ => if n = 0 then .nan else .inf (a != b)
  | .fin a m _, .inf b => if m = 0 then .nan else .inf (a != b)
  | .fin a m e, .fin b n d => .fin (a != b) (m * n) (e + d)

/-- A positive quotient num/den × 2^e with enough bits and a sticky bit for one rounding to any format. -/
def quot (num den : Nat) : Nat × Int :=
  let k := 160 + den.log2
  let a := num <<< k
  let d := a / den
  (2 * d + (if d * den = a then 0 else 1), -(k : Int) - 1)

/-- The quotient, for one rounding. -/
def Num.div (x y : Num) : Num :=
  match x, y with
  | .nan, _ => .nan
  | _, .nan => .nan
  | .inf _, .inf _ => .nan
  | .inf a, .fin b _ _ => .inf (a != b)
  | .fin a _ _, .inf b => .fin (a != b) 0 0
  | .fin a m e, .fin b n d =>
    if n = 0 then (if m = 0 then .nan else .inf (a != b))
    else if m = 0 then .fin (a != b) 0 0
    else let r := quot m n; .fin (a != b) r.1 (r.2 + e - d)

/-- The integer square root, bit by bit. -/
def isqrtAux : Nat → Nat → Nat → Nat
  | 0, _, r => r
  | k + 1, n, r =>
    let t := r + 2 ^ k
    isqrtAux k n (if t * t ≤ n then t else r)

/-- The integer square root. -/
def isqrt (n : Nat) : Nat :=
  isqrtAux (n.log2 / 2 + 1) n 0

/-- The square root, for one rounding; NaN for values below zero, the zero itself for zeros. -/
def Num.sqrt (x : Num) : Num :=
  match x with
  | .nan => .nan
  | .inf true => .nan
  | .inf false => .inf false
  | .fin a m e =>
    if m = 0 then .fin a 0 0
    else if a then .nan
    else
      let e0 := e - 320
      let sh := if e0 % 2 = 0 then 320 else 321
      let n := m <<< sh
      let r := isqrt n
      .fin false (2 * r + (if r * r = n then 0 else 1)) ((e - (sh : Int)) / 2 - 1)

/-- 1/√x, for one rounding (R119): ±∞ for ±0, NaN below zero. -/
def Num.rsqrt (x : Num) : Num :=
  match x with
  | .nan => .nan
  | .inf true => .nan
  | .inf false => .fin false 0 0
  | .fin a m e =>
    if m = 0 then .inf a
    else if a then .nan
    else
      -- 1/√(m 2^e) = √(2^k / m) 2^-((e + k)/2), with k of the parity of e
      let k := if e % 2 = 0 then 400 + 2 * m.log2 else 401 + 2 * m.log2
      let n := 2 ^ k / m
      let r := isqrt n
      .fin false (2 * r + (if r * r * m = 2 ^ k then 0 else 1)) (-((e + (k : Int)) / 2) - 1)

/-- 1/x (R119). -/
def Num.recip (x : Num) : Num :=
  Num.div (.fin false 1 0) x

/-- The order of two values, neither NaN: x < y. -/
def Num.lt (x y : Num) : Bool :=
  match x, y with
  | .nan, _ => false
  | _, .nan => false
  | .inf a, .inf b => a && !b
  | .inf a, _ => a
  | _, .inf b => !b
  | .fin a m e, .fin b n d =>
    let q := min e d
    decide (signedAt a m e q < signedAt b n d q)

/-- The magnitude. -/
def Num.abs (x : Num) : Num :=
  match x with
  | .nan => .nan
  | .inf _ => .inf false
  | .fin _ m e => .fin false m e

/-- Whether a value is NaN. -/
def Num.isNan (x : Num) : Bool :=
  match x with
  | .nan => true
  | _ => false

/-- Whether a value is a zero. -/
def Num.isZero (x : Num) : Bool :=
  match x with
  | .fin _ m _ => m == 0
  | _ => false

/-- Whether a value is finite. -/
def Num.isFin (x : Num) : Bool :=
  match x with
  | .fin _ _ _ => true
  | _ => false

/-- The largest of magnitudes under R118: NaN if any is NaN, an infinity if any is infinite. -/
def Num.maxMag (x y : Num) : Num :=
  match x, y with
  | .nan, _ => .nan
  | _, .nan => .nan
  | a, b => if a.lt b then b else a

/-! ## Transcendental functions

Fixed-point series with 320 fractional bits. The spec asks for the correctly rounded value (R118, R119); that this working
precision always decides the rounding is log entry 13. -/

/-- The working precision in bits. -/
def wp : Nat := 320

/-- 1 in the working fixed point. -/
def fxOne : Nat := 2 ^ wp

/-- atanh(1/n) × 2^wp by its series. -/
def atanhInv (n : Nat) : Nat :=
  ((List.range 210).foldl (fun (acc : Nat × Nat) i => (acc.1 + acc.2 / (2 * i + 1), acc.2 / (n * n))) (0, fxOne / n)).1

/-- ln 2 in the working fixed point: 2 atanh(1/3). -/
def fxLn2 : Nat := 2 * atanhInv 3

/-- arctan(1/n) × 2^wp by its series. -/
def atanInv (n : Nat) : Int :=
  ((List.range 150).foldl (fun (acc : Int × Nat) i =>
    let t : Int := ((acc.2 / (2 * i + 1) : Nat) : Int)
    (if i % 2 = 0 then acc.1 + t else acc.1 - t, acc.2 / (n * n))) (0, fxOne / n)).1

/-- π in the working fixed point: 16 arctan(1/5) - 4 arctan(1/239). -/
def fxPi : Nat := (16 * atanInv 5 - 4 * atanInv 239).toNat

/-- exp of a fixed-point number in [0, 1). -/
def fxExp (x : Nat) : Nat :=
  ((List.range 90).foldl (fun (acc : Nat × Nat) i => (acc.1 + acc.2, acc.2 * x / fxOne / (i + 1))) (0, fxOne)).1

/-- A fixed-point integer of a value m × 2^e, rounded down. -/
def toFx (m : Nat) (e : Int) : Nat :=
  if 0 ≤ e + (wp : Int) then m <<< (e + (wp : Int)).toNat else m >>> (-(e + (wp : Int))).toNat

/-- 2^x (R119). Exact for integers; otherwise irrational, so a sticky bit is set. -/
def Num.exp2 (x : Num) : Num :=
  match x with
  | .nan => .nan
  | .inf true => .fin false 0 0
  | .inf false => .inf false
  | .fin a m e =>
    if m = 0 then .fin false 1 0
    else if 0 ≤ e ∧ 64 ≤ e + (m.log2 : Int) then (if a then .fin false 1 (-4000) else .fin false 1 4000)
    else
      let z : Int := signedAt a (toFx m e) 0 0
      let n := z / (fxOne : Int)
      let fr := (z % (fxOne : Int)).toNat
      if 4000 < n then .fin false 1 4000
      else if n < -4000 then .fin false 1 (-4000)
      else if fr = 0 ∧ 0 ≤ e + (wp : Int) then .fin false 1 n
      else .fin false (2 * fxExp (fr * fxLn2 / fxOne) + 1) (n - (wp : Int) - 1)

/-- ln of m/2^k in [1, 2), as 2 atanh((m - 2^k)/(m + 2^k)), in the working fixed point. -/
def fxLn (m k : Nat) : Nat :=
  let z := ((m - 2 ^ k) * fxOne) / (m + 2 ^ k)
  let z2 := z * z / fxOne
  2 * ((List.range 110).foldl (fun (acc : Nat × Nat) i => (acc.1 + acc.2 / (2 * i + 1), acc.2 * z2 / fxOne)) (0, z)).1

/-- log2 x (R119). Exact for powers of two; otherwise irrational. -/
def Num.log2 (x : Num) : Num :=
  match x with
  | .nan => .nan
  | .inf true => .nan
  | .inf false => .inf false
  | .fin a m e =>
    if m = 0 then .inf true
    else if a then .nan
    else
      let k := m.log2
      let n : Int := e + (k : Int)
      if m = 2 ^ k then Num.ofInt n 0 false
      else
        let fr := fxLn m k * fxOne / fxLn2
        let z : Int := n * (fxOne : Int) + (fr : Int)
        .fin (decide (z < 0)) (2 * z.natAbs + 1) (-(wp : Int) - 1)

/-- x / (1 + e^y) for a finite non-zero x and a real y = ±ym/2^wp, as SiLU and GELU need it. -/
def logistic (a : Bool) (m : Nat) (e : Int) (yneg : Bool) (ym : Nat) : Num :=
  if 400 * fxOne ≤ ym then
    if yneg then .fin a (m * 2 ^ 400 - 1) (e - 400)   -- just below x
    else .fin a 1 (-4000)                             -- a non-zero value below every format
  else
    -- e^|y| = 2^n exp(r), with 0 ≤ r < ln 2
    let n := ym / fxLn2
    let ex := fxExp (ym % fxLn2)
    let big := ex <<< n
    let d := if yneg then fxOne + fxOne * fxOne / big else fxOne + big
    let q := quot (m * fxOne) d
    .fin a (q.1 ||| 1) (q.2 + e)

/-- SiLU: x / (1 + e^-x) (R118). -/
def Num.silu (x : Num) : Num :=
  match x with
  | .nan => .nan
  | .inf false => .inf false
  | .inf true => .fin true 0 0
  | .fin a m e =>
    if m = 0 then .fin a 0 0
    else if 9 ≤ e + (m.log2 : Int) then logistic a m e (!a) (400 * fxOne)
    else if e + (m.log2 : Int) < -280 then .fin a (if a then m * 2 ^ 300 - 1 else m * 2 ^ 300 + 1) (e - 301)
    else logistic a m e (!a) (toFx m e)

/-- GELU, tanh form: 0.5x(1 + tanh u) = x / (1 + e^(-2u)), u = √(2/π)(x + 0.044715x³) (R118).
GELU and SiLU of −0 are −0 (log entry 198). -/
def Num.gelu (x : Num) : Num :=
  match x with
  | .nan => .nan
  | .inf false => .inf false
  | .inf true => .fin true 0 0
  | .fin a m e =>
    if m = 0 then .fin a 0 0
    else if 6 ≤ e + (m.log2 : Int) then logistic a m e (!a) (400 * fxOne)
    else if e + (m.log2 : Int) < -280 then .fin a (if a then m * 2 ^ 300 - 1 else m * 2 ^ 300 + 1) (e - 301)
    else
      let t := toFx m e
      let t3 := t * t / fxOne * t / fxOne
      let root := isqrt (2 * fxOne * fxOne * fxOne / fxPi)
      let u := root * (t + 44715 * t3 / 1000000) / fxOne
      logistic a m e (!a) (2 * u)

/-- Squared ReLU: max(x, 0)². -/
def Num.sqrelu (x : Num) : Num :=
  match x with
  | .nan => .nan
  | .inf false => .inf false
  | .inf true => .fin false 0 0
  | .fin a m e => if a then .fin false 0 0 else .fin false (m * m) (2 * e)

/-- ReLU; ReLU of -0 is +0. -/
def Num.relu (x : Num) : Num :=
  match x with
  | .nan => .nan
  | .inf false => .inf false
  | .inf true => .fin false 0 0
  | .fin a m e => if a then .fin false 0 0 else .fin false m e

/-! ## FP32 -/

/-- The value of an FP32 pattern. -/
def f32 (w : Word32) : Num := Fmt.FP32.decode w.toNat

/-- The FP32 pattern of an operation's result. -/
def toF32 (x : Num) : Word32 := BitVec.ofNat 32 (Fmt.FP32.ofNum x)

/-- FP32 addition. -/
def fadd (a b : Word32) : Word32 := toF32 ((f32 a).add (f32 b))
/-- FP32 subtraction. -/
def fsub (a b : Word32) : Word32 := toF32 ((f32 a).add (f32 b).neg)
/-- FP32 multiplication. -/
def fmul (a b : Word32) : Word32 := toF32 ((f32 a).mul (f32 b))
/-- FP32 division, rounded once. -/
def fdiv (a b : Word32) : Word32 := toF32 ((f32 a).div (f32 b))
/-- FP32 fused multiply-add: a × b + c, rounded once. -/
def ffma (a b c : Word32) : Word32 := toF32 (((f32 a).mul (f32 b)).add (f32 c))
/-- FP32 square root. -/
def fsqrt (a : Word32) : Word32 := toF32 (f32 a).sqrt

/-- VMAX (R120): the canonical NaN if either is NaN; the larger, +0 over -0. -/
def fmax (a b : Word32) : Word32 :=
  let x := f32 a
  let y := f32 b
  if x.isNan || y.isNan then 0x7FC00000
  else if x.isZero && y.isZero then a &&& b
  else if x.lt y then b else a

/-- VMIN (R120). -/
def fmin (a b : Word32) : Word32 :=
  let x := f32 a
  let y := f32 b
  if x.isNan || y.isNan then 0x7FC00000
  else if x.isZero && y.isZero then a ||| b
  else if y.lt x then b else a

/-- The FP32 pattern of 2^x for an exponent of the Scale manager or a sum of two (R127). -/
def scale2 (x : Int) : Word32 := toF32 (.fin false 1 x)

/-- floor(log2 a) of a positive finite value. -/
def Num.ilog2 (x : Num) : Int :=
  match x with
  | .fin _ m e => e + (m.log2 : Int)
  | _ => 0

end Sys2Proof.Machine
end

