-- ==== Sys2Proof/Machine/Ops.lean ====
section
/-!
DEFINITION. The shared operations: default entries of the tables, accessors, register storage, interrupts, error status,
the egress paths, journal records and the result monad of the compound commands.
-/

namespace Sys2Proof.Machine

/-! ## Default entries -/

/-- A cluster after a flash-clear at reset (R68, R471). -/
def Cluster.reset : Cluster where
  pwr := .active
  owner := 0x3F
  inService := true
  clear := false
  laggard := false
  forme := []
  galley := []
  v := []
  topk := []
  k := 0
  slots := []
  running := none
  passRun := none
  passWait := none
  unsettled := []
  drains := []
  rowsOut := []
  worked := false
  health := .normal
  findings := 0
  hours := 0xFFFF
  sampled := 0
  faultCtx := 0
  faultCode := 0
  sowFault := 0
  passes := 0
  rowsDone := 0
  ueOut := 0

/-- A channel of partition 0x3F before its first erase (R219, R472). -/
def Channel.reset : Channel where
  owner := 0x3F
  era := 0
  complete := 0
  passEra := 0
  front := none
  spares := 256
  rowErr := []
  spared := []
  gen := 0

/-- A line that nothing has written: LSTATE EMPTY, ERA 0 (log entry 7). -/
def Line.empty : Line where
  data := 0
  tag := 0
  state := 0
  check := 0

/-- The canonical form of the lines of memory: rising line numbers, and no entry that an unlisted line reads as. -/
abbrev Memory.wf (t : Tab Line) : Bool := Tab.wf Line.empty t

/-- A KeyID that no block binds (R268). -/
def KeyId.reset : KeyId where
  state := .free
  owner := 0x3F
  blob := 0
  cached := false
  seed := 0
  mask := 0
  jobDig := 0
  used := 0

/-- An IDLE context of partition 0x3F (R319). -/
def Context.reset : Context where
  bound := false
  part := 0x3F
  pasid := 0
  admin := false
  state := .idle
  code := 0
  faultQ := 0
  faultIx := 0
  steps := 0
  ranges := []
  queues := []
  stash := none
  suspect := false
  rollbackAt := none
  denseTo := none
  prfPend := none
  pinned := false
  placed := none
  tdWait := []
  tdReset := false
  runUs := 0
  waitUs := 0
  preempts := 0
  overrun := 0
  owed := 0
  starved := false

/-- A disabled management queue (CMDP_MQ_CTRL). -/
def MgmtQ.reset : MgmtQ where
  ring := 0
  cpl := 0
  enable := false
  irq := false
  stop := 0
  log2 := 4
  head := 0
  tail := 0
  done := 0

/-- A FREE partition (R370). -/
def Partition.reset : Partition where
  state := .free
  extents := []
  ways := 0
  ports := List.replicate 8 0
  slice := none
  sizesGen := 0
  sizes := []
  haltDue := false
  flrDue := false
  holder := none
  queueing := []
  preemptDue := false
  uePma := []
  passRate := 0
  job := none
  shared := []
  event := false

/-- An online Proof unit with nothing captured. -/
def ProofUnit.reset : ProofUnit where
  online := true
  queue := []

/-- A port that is DOWN and disabled (CTN_STAT.REASON 1). -/
def Port.reset : Port where
  state := .down
  reason := 1
  role := none
  version := 0
  x4 := false
  switch := false
  lanes := 0
  retryOk := true
  idOk := false
  attested := false
  serial := 0
  peerDev := 0
  peerPort := 0
  planId := 0
  peerRole := 0
  meas := 0
  session := none
  retrain := false
  txSeq := 0
  rxSeq := 0
  credits := []
  replay := []
  txq := []

/-- An unmapped staging slot (R306). -/
def Staging.reset : Staging where
  mapped := false
  part := 0
  handle := 0
  off4k := 0
  err := 0

/-- No latency recorded since the last read. -/
def VLat.reset : VLat where
  max := 0
  sum := 0
  count := 0

/-- A Colophon copy that nothing has used (R362). -/
def Colo.reset : Colo where
  busy := false
  status := 0

/-- Dense sampling ends once the count of STEP_MARKs reaches the one at which the divergence was found (R188). -/
def Context.reached (x : Context) : Context :=
  { x with denseTo := x.denseTo.filter fun n => decide (x.steps.toNat < n.toNat) }

/-- A journal sector after formatting. -/
def Sector.reset : Sector where
  state := .erased
  erases := 0
  first := 0
  recs := []
  used := 64

/-! ## Accessors -/

def State.cluster (s : State) (c : Nat) : Cluster := tget Cluster.reset s.clusters c

def State.setCluster (s : State) (c : Nat) (x : Cluster) : State :=
  { s with clusters := tput Cluster.reset s.clusters c x }

def State.chan (s : State) (c : Nat) : Channel := tget Channel.reset s.chans c

def State.setChan (s : State) (c : Nat) (x : Channel) : State :=
  { s with chans := tput Channel.reset s.chans c x }

def State.line (s : State) (lid : Nat) : Line := tget Line.empty s.lines lid

def State.setLine (s : State) (lid : Nat) (x : Line) : State :=
  { s with lines := tput Line.empty s.lines lid x }

def State.kid (s : State) (k : Nat) : KeyId := tget KeyId.reset s.kids k

def State.setKid (s : State) (k : Nat) (x : KeyId) : State :=
  { s with kids := tput KeyId.reset s.kids k x }

def State.ctx (s : State) (c : Nat) : Context := tget Context.reset s.ctxs c

def State.setCtx (s : State) (c : Nat) (x : Context) : State :=
  { s with ctxs := tput Context.reset s.ctxs c x }

def State.part (s : State) (p : Nat) : Partition := tget Partition.reset s.parts p

def State.setPart (s : State) (p : Nat) (x : Partition) : State :=
  { s with parts := tput Partition.reset s.parts p x }

def State.mq (s : State) (m : Nat) : MgmtQ := tget MgmtQ.reset s.mqs m

def State.setMq (s : State) (m : Nat) (x : MgmtQ) : State :=
  { s with mqs := tput MgmtQ.reset s.mqs m x }

def State.obj (s : State) (i : Nat) : Option Obj := tget none s.objs i

def State.setObj (s : State) (i : Nat) (x : Option Obj) : State :=
  { s with objs := tput none s.objs i x }

def State.fence (s : State) (i : Nat) : Option Fence := tget none s.fences i

def State.setFence (s : State) (i : Nat) (x : Option Fence) : State :=
  { s with fences := tput none s.fences i x }

/-- A tensor of a context; an identifier above 16,383 names none (R129). -/
def State.tensor (s : State) (c t : Nat) : Option Tensor := if t < 16384 then tget none s.tensors (c * 16384 + t) else none

def State.setTensor (s : State) (c t : Nat) (x : Option Tensor) : State :=
  { s with tensors := tput none s.tensors (c * 16384 + t) x }

/-- A layer entry as it is created (R132). -/
def Layer.fresh : Layer := { elems := 0, zeros := 0, run := 0, alarms := 0, k := 0, kNew := none }

def State.layer (s : State) (c l : Nat) : Option Layer := tget none s.layers (c * 4096 + l)

def State.setLayer (s : State) (c l : Nat) (x : Option Layer) : State :=
  { s with layers := tput none s.layers (c * 4096 + l) x }

def State.unit (s : State) (q : Nat) : ProofUnit := tget ProofUnit.reset s.units q

def State.setUnit (s : State) (q : Nat) (x : ProofUnit) : State :=
  { s with units := tput ProofUnit.reset s.units q x }

def State.port (s : State) (p : Nat) : Port := tget Port.reset s.ports p

def State.setPort (s : State) (p : Nat) (x : Port) : State :=
  { s with ports := tput Port.reset s.ports p x }

def State.epoch (s : State) (q : Nat) : Word64 := tget 0 s.epochs q

def State.caseLine (s : State) (lid : Nat) : Option CaseLine := tget none s.cases lid

def State.setCaseLine (s : State) (lid : Nat) (x : Option CaseLine) : State :=
  { s with cases := tput none s.cases lid x }

def State.region (s : State) (r : Nat) : Option Region := tget none s.regions r

def State.setRegion (s : State) (r : Nat) (x : Option Region) : State :=
  { s with regions := tput none s.regions r x }

def State.tdi (s : State) (p : Nat) : Tdi := tget Tdi.unlocked s.hif.tdi p

def State.stg (s : State) (n : Nat) : Staging := tget Staging.reset s.hif.staging n

def State.setStg (s : State) (n : Nat) (x : Staging) : State :=
  { s with hif := { s.hif with staging := tput Staging.reset s.hif.staging n x } }

/-- A fresh free value: the n-th of `Config.free` (log entry 1). -/
def State.fresh (s : State) : BitVec 8192 × State :=
  (Config.free s.freeCtr, { s with freeCtr := s.freeCtr + 1 })

/-- A fresh draw of the random number generator. -/
def State.draw (s : State) : BitVec 512 × State :=
  (Config.trng s.freeCtr, { s with freeCtr := s.freeCtr + 1 })

/-- One of a list of allowed numbers; which one is a free choice (log entry 1). -/
def State.choose (s : State) (l : List Nat) : Option Nat × State :=
  (l[Config.choice s.freeCtr % l.length]?, { s with freeCtr := s.freeCtr + 1 })

/-! ## Life cycle -/

/-- The life-cycle word: each bit by majority of the three copies (R426). -/
def Sec.lcWord (x : Sec) : Nat :=
  match x.lc with
  | [a, b, c] => ((a &&& b) ||| (a &&& c) ||| (b &&& c)).toNat
  | _ => 0xFFFF

/-- DEV_STATE.LIFECYCLE (R426). -/
def State.lifecycle (s : State) : Nat :=
  match s.sec.lcWord with
  | 0x0000 => 0
  | 0x000F => 1
  | 0x00FF => 2
  | 0x0FFF => 3
  | 0x3FFF => 4
  | _ => 5

/-- Confidential mode: PROVISIONED or FIELD (R430). -/
def State.confidential (s : State) : Bool :=
  s.lifecycle == 2 || s.lifecycle == 3

/-- DEV_STATE.STATE. -/
def DevState.code : DevState → Nat
  | .boot => 0
  | .service => 1
  | .braced => 2
  | .halted => 3
  | .evacuate => 4
  | .slumber => 5

/-- HIF_STAT.IDE_SECURE: the CXL.io link stream and the CXL.cachemem stream are Secure (R311). -/
def State.ideSecure (s : State) : Bool :=
  s.hif.ide.toNat.testBit 0 && s.hif.ide.toNat.testBit 1

/-! ## Register storage -/

/-- A number for each block, for the keys of the register table. -/
def Blk.num : Blk → Nat
  | .dev => 0 | .pwr => 1 | .mgt => 2 | .sec => 3 | .cl => 4 | .sow => 5 | .gal => 6 | .gln => 7 | .vec => 8 | .scl => 9
  | .prf => 10 | .hif => 11 | .iommu => 12 | .cmdp => 13 | .part => 14 | .mc => 15 | .seal => 16 | .rdu => 17
  | .ctn => 18 | .frt => 19 | .coll => 20

/-- The MSI-X vector of a block (R38). -/
def Blk.vector : Blk → Nat
  | .cmdp => 0 | .cl => 1 | .sow => 1 | .gal => 1 | .gln => 1 | .vec => 1 | .scl => 2 | .mc => 3 | .seal => 3 | .rdu => 3
  | .ctn => 4 | .frt => 4 | .coll => 4 | .prf => 5 | .part => 6 | .iommu => 7 | .dev => 8 | .pwr => 9 | .hif => 10
  | .sec => 11 | .mgt => 12

/-- Bound pages (R29). -/
def Blk.bound : Blk → Bool
  | .cl | .sow | .gal | .gln | .vec => true
  | _ => false

/-- Shared pages (R29). -/
def Blk.shared : Blk → Bool
  | .dev | .scl | .prf | .iommu | .cmdp | .part | .mc | .seal | .rdu | .frt | .coll => true
  | _ => false

/-- The key of a register cell: the copy of function `fn` (0 where there is one copy), block, instance and offset. -/
def regKey (fn : Nat) (b : Blk) (inst off : Nat) : Nat :=
  ((fn * 32 + b.num) * 128 + inst) * 1024 + off / 4

/-- A stored register; a register that holds its reset value is not listed. -/
def State.reg (s : State) (fn : Nat) (b : Blk) (inst off : Nat) (reset : Nat) : Nat :=
  (tget 0 s.regs (regKey fn b inst off)).toNat ^^^ reset

/-- Store a register. -/
def State.setReg (s : State) (fn : Nat) (b : Blk) (inst off : Nat) (reset v : Nat) : State :=
  { s with regs := tput 0 s.regs (regKey fn b inst off) (BitVec.ofNat 32 (v ^^^ reset)) }

/-- Add to a counter that saturates at 0xFFFF_FFFF. -/
def State.bump (s : State) (fn : Nat) (b : Blk) (inst off n : Nat) : State :=
  s.setReg fn b inst off 0 (min 0xFFFFFFFF (s.reg fn b inst off 0 + n))

/-- A counter with a partition view: the partition's copy and the driver's (R521). -/
def State.bump2 (s : State) (p : Nat) (b : Blk) (inst off n : Nat) : State :=
  let s := s.bump 0 b inst off n
  if p < 63 then s.bump (p + 1) b inst off n else s

/-- A 64-bit counter held in two registers. -/
def State.bump64 (s : State) (fn : Nat) (b : Blk) (inst off n : Nat) : State :=
  let v := s.reg fn b inst off 0 + s.reg fn b inst (off + 4) 0 * 2 ^ 32 + n
  (s.setReg fn b inst off 0 (v % 2 ^ 32)).setReg fn b inst (off + 4) 0 (v / 2 ^ 32 % 2 ^ 32)

/-- The function of a partition: PF0 for 0x3F, VF p + 1 otherwise (R301). -/
def fnOf (p : Nat) : Nat :=
  if p < 63 then p + 1 else 0

/-! ## Egress -/

/-- The number of an egress path. -/
def pathNum : Path → Nat
  | .cxl => 0
  | .cache => 1
  | .staging => 2
  | .port p => 3 + p.toNat
  | .devmem q => 11 + q.toNat
  | .sideband => 15

/-- The context of a queue; 4,096 stands for a management queue, which has none (R352). -/
def ctxOf : QSrc → Nat
  | .mgmt _ => 4096
  | .ctx c _ => c.toNat

/-- Whether a queue is a management queue. -/
def isMgmt : QSrc → Bool
  | .mgmt _ => true
  | .ctx _ _ => false

/-- The partition that a queue's command runs for: 0x3F for a management queue (R352). -/
def State.partOf (s : State) (q : QSrc) : Nat := (s.ctx (ctxOf q)).part.toNat

/-- The command of a queue that is fetched and not completed. -/
def State.cmdOf (s : State) (q : QSrc) : Option Cmd := s.inflight.find? fun c => decide (c.src = q)

/-- Form an egress entry on a path (R259, R261). -/
def State.emit (s : State) (path : Nat) (free : Bool) (src : Option QSrc) (ev : OutEv) : State :=
  let e : Egress := { stamp := none, free := free, src := src, seq := (src.bind s.cmdOf).map (·.seq), ev := ev }
  { s with egress := tput [] s.egress path (tget [] s.egress path ++ [e]) }

/-- What leaves the device at once. -/
def State.say (s : State) (ev : OutEv) : State :=
  { s with out := s.out ++ [ev] }

/-- A write to host memory through a function's requester, formed on the CXL path (R261, R302). -/
def State.hostPost (s : State) (fn : Nat) (kind : WriteKind) (src : Option QSrc) (pasid : Option (BitVec 20)) (addr : Nat)
    (d : List Byte) : State :=
  s.emit 0 false src (.hostWrite (BitVec.ofNat 6 fn) kind pasid (BitVec.ofNat 64 addr) d)

/-- A command's write to host memory, through the function of its partition. -/
def State.hostWrite (s : State) (kind : WriteKind) (q : QSrc) (pasid : Option (BitVec 20)) (addr : Nat) (d : List Byte) : State :=
  s.hostPost (fnOf (s.partOf q)) kind (some q) pasid addr d

/-! ## Gate buffers (R261, R263) -/

/-- The bytes of an entry in a gate buffer. -/
def OutEv.size : OutEv → Nat
  | .hostWrite _ _ _ _ d => d.length
  | .packet _ d => d.length
  | .memWrite _ _ _ _ _ _ => 64
  | .record d => d.length
  | .msix _ _ => 4
  | _ => 0

/-- The paths that share a path's gate buffer, and its capacity. -/
def gateBuffer (p : Path) : List Nat × Nat :=
  match p with
  | .cxl | .cache | .staging => ([0, 1, 2], 2 * 2 ^ 20)
  | .port k => ([3 + k.toNat], 2 ^ 20)
  | .devmem q => ([11 + q.toNat], 256 * 1024)
  | .sideband => ([15], 16 * 1024)

/-- What a gate buffer holds. -/
def State.gateUsed (s : State) (l : List Nat) : Nat :=
  l.foldl (fun n p => (tget [] s.egress p).foldl (fun m e => m + e.ev.size) n) 0

/-- The gate buffers that commands fill. -/
def commandGates : List (List Nat × Nat) :=
  gateBuffer .cxl :: (List.range 8).map (fun k => gateBuffer (.port (BitVec.ofNat 3 k)))
    ++ (List.range 4).map fun q => gateBuffer (.devmem (BitVec.ofNat 2 q))

/-- No gate buffer that a command could fill is full (R263; log entry 91). -/
def State.gateRoom (s : State) : Bool := commandGates.all fun g => decide (s.gateUsed g.1 < g.2)

/-- HIF_CTRL. -/
def State.hifCtrl (s : State) : Nat := s.reg 0 .hif 0 0x10 0x3E801

/-- The HIF cache is in use (R304). -/
def State.cacheUsed (s : State) : Bool := s.hif.cacheOn && s.hifCtrl.testBit 0

/-- An error of a function is reported through AER: its status bit is set and the message sent (R302, R315, R523; log entry
189). -/
def State.aerReport (s : State) (fn bit : Nat) : State :=
  let v := tget 0 s.hif.aer fn
  { s with hif := { s.hif with aer := tput 0 s.hif.aer fn (v ||| BitVec.ofNat 32 (2 ^ bit)) } }.say
    (.aer (BitVec.ofNat 6 fn) (BitVec.ofNat 5 bit))

/-! ## Interrupts -/

/-- Send vector `v` of a function, or set its pending bit while it is masked (R34, R39). -/
def State.msix (s : State) (fn v : Nat) (src : Option QSrc) : State :=
  if tget false s.msixOpen (fn * 16 + v) then
    s.emit 0 false src (.msix (BitVec.ofNat 6 fn) (BitVec.ofNat 4 v))
  else { s with msixPend := tput false s.msixPend (fn * 16 + v) true }

/-- Set bits of a page's INT_FLAG copy and send its vector when its interrupt rises (R34). `fn` is the copy, `tgt` the
function that the page interrupts. -/
def State.latchInt (s : State) (fn : Nat) (b : Blk) (inst : Nat) (mask tgt : Nat) : State :=
  let old := s.reg fn b inst 0x28 0
  let en := s.reg fn b inst 0x24 0
  let s := s.setReg fn b inst 0x28 0 (old ||| mask)
  if (old &&& en) = 0 ∧ ((old ||| mask) &&& en) ≠ 0 then s.msix tgt b.vector none else s

/-- Raise condition `n` of a page for the party `p` (a partition, or 0x3F for the device): the copy of the party in a
shared page, the page's owner in a bound page (R36, R37). -/
def State.raise (s : State) (b : Blk) (inst n p : Nat) : State :=
  if b.bound then s.latchInt 0 b inst (2 ^ n) (fnOf (s.cluster inst).owner.toNat)
  else if b.shared then s.latchInt (fnOf p) b inst (2 ^ n) (fnOf p)
  else s.latchInt 0 b inst (2 ^ n) 0

/-- Set bit `n` of a block's ERRSTAT: the driver's copy and that of partition `p` (R512). -/
def State.errBit (s : State) (b : Blk) (inst n p : Nat) : State :=
  let one := fun (t : State) fn => t.setReg fn b inst 0x18 0 (t.reg fn b inst 0x18 0 ||| 2 ^ n)
  let s := one s 0
  if b.shared ∧ p < 63 then one s (p + 1) else s

/-! ## Register fields that derive from tenant data (R39) -/

/-- A change of register fields. -/
def State.regUpd (s : State) : RegUpd → State
  | .count fn b inst off n => s.bump fn b inst off n
  | .count64 fn b inst off n => s.bump64 fn b inst off n
  | .cond b inst n p => s.raise b inst n p
  | .err b inst n p => s.errBit b inst n p
  | .fault cl ctx code =>
    s.setCluster cl { s.cluster cl with faultCtx := BitVec.ofNat 12 ctx, faultCode := BitVec.ofNat 16 code }

/-- Changes that derive from tenant data: at once where no read of the device waits for its verification, and else when every
read that waits now has been verified (R39). -/
def State.fromData (s : State) (l : List RegUpd) : State :=
  if s.reads.isEmpty then l.foldl State.regUpd s
  else
    let now := (List.range 4).map s.epoch
    { s with shown := { s.shown with late := s.shown.late ++ l.map fun u => (now, u) } }

/-- A counter with a partition view (R521), as changes. -/
def count2 (p : Nat) (b : Blk) (inst off n : Nat) : List RegUpd :=
  [.count 0 b inst off n] ++ (if p < 63 then [.count (p + 1) b inst off n] else [])

/-- No read that was pending at the epochs of a change waits any more. -/
def State.verifiedSince (s : State) (stamps : List Word64) : Bool :=
  s.reads.all fun r => decide ((stamps.getD r.q.toNat 0).toNat < r.stamp.toNat)

/-- The changes that have waited for a verification take effect. -/
def State.lateDone (s : State) : State :=
  let due := s.shown.late.filter fun e => s.verifiedSince e.1
  due.foldl (fun (t : State) e => t.regUpd e.2)
    { s with shown := { s.shown with late := s.shown.late.filter fun e => !s.verifiedSince e.1 } }

/-- A read is about to wait for its verification: where it is the first, registers go on showing the tables as they are (R39). -/
def State.hold (s : State) : State :=
  if s.reads.isEmpty then { s with shown := { s.shown with tensors := s.tensors, layers := s.layers, regions := s.regions } }
  else s

/-! ## Journal records -/

/-- Queue a state or kept record (R480, R481): a pending state record of the same TYPE and KEY is replaced. -/
def State.journal (s : State) (ty : RecType) (key : Nat) (payload : List Byte) : State :=
  let r : Rec := { type := ty, key := BitVec.ofNat 8 key, seq := 0, hours := BitVec.ofNat 32 s.mgt.hours,
                   payload := payload, ok := true }
  if s.mgt.store ≠ 0 then s
  else
    let q := if ty = .spare then s.mgt.queue
             else s.mgt.queue.filter fun x => !(decide (x.type = ty) && x.key == BitVec.ofNat 8 key)
    { s with mgt := { s.mgt with queue := q ++ [r] } }

/-- Queue an event record; one that meets a full queue or a store that takes no records is dropped and counted
(R480, R481, R486). -/
def State.event (s : State) (cls cause detail : Nat) : State :=
  if s.mgt.store ≠ 0 ∨ 64 ≤ s.mgt.queue.length then s.bump 0 .mgt 0 0x50 1
  else
    { s with mgt := { s.mgt with queue := s.mgt.queue ++
      [{ type := .event, key := BitVec.ofNat 8 cls, seq := 0, hours := BitVec.ofNat 32 s.mgt.hours,
         payload := leBytes 2 cause ++ leBytes 8 detail, ok := true }] } }

/-! ## The result monad of compound commands -/

/-- How a compound command ends early: it waits and changes nothing; it faults with a code (a status is no fault), a
DETAIL and the number of the block instance that reports it; the device Seal-halts; a partition halts (R233). -/
inductive Exit where
  | hold
  | fault (code detail inst : Nat)
  | halt (h : HaltAt)
  | part (p : Nat)
  deriving DecidableEq, Repr

/-- Computations over the state that can end early; the state they reached is kept. -/
abbrev M := EStateM Exit State

/-- Change the state. -/
def upd (f : State → State) : M Unit := fun s => .ok () (f s)

/-- Read the state. -/
def look {α : Type} (f : State → α) : M α := fun s => .ok (f s) s

/-- Change the state and answer what the change gives. -/
def act {α : Type} (f : State → α × State) : M α := fun s => .ok (f s).1 (f s).2

/-- The result of a computation, none where it ends early. -/
def attempt {α : Type} (m : M α) : M (Option α) := fun s =>
  match m s with
  | .ok a t => .ok (some a) t
  | .error _ t => .ok none t

/-- Wait. -/
def waitHere {α : Type} : M α := fun s => .error .hold s

/-- Fault with a code. -/
def flt {α : Type} (code : Nat) (detail : Nat := 0) (inst : Nat := 0) : M α := fun s => .error (.fault code detail inst) s

/-- Fault unless a condition holds. -/
def need (c : Bool) (code : Nat) (detail : Nat := 0) (inst : Nat := 0) : M Unit :=
  if c then pure () else flt code detail inst

end Sys2Proof.Machine
end

