-- ==== Sys2Proof/Machine/Dram.lean ====
section
/-!
DEFINITION. Memory controllers (chapter 10): the Reed-Solomon code, line reads and writes, correctable errors, row sparing
and the interleave of partition memory.
-/

namespace Sys2Proof.Machine

/-- The fault or refusal of a compound command reports only the code; lines of a channel below this hold object data. -/
def objectLines : Nat := 12386304

/-- Lines of a channel (R216). -/
def channelLines : Nat := 12582912

/-- The identity of a line (R243). -/
def lidOf (ch line : Nat) : Nat := ch * 2 ^ 24 + line

/-! ## The Reed-Solomon code (R221, R222) -/

/-- Multiplication in GF(2^8) with polynomial 0x11D. -/
def gfMulAux : Nat → Nat → Nat → Nat → Nat
  | 0, _, _, acc => acc
  | k + 1, a, b, acc =>
    let acc := if b % 2 = 1 then acc ^^^ a else acc
    let a2 := a * 2
    gfMulAux k (if 256 ≤ a2 then a2 ^^^ 0x11D else a2) (b / 2) acc

/-- The product of two field elements. -/
def gfMul (a b : Nat) : Nat := gfMulAux 8 a b 0

/-- a^n. -/
def gfPow (a : Nat) : Nat → Nat
  | 0 => 1
  | n + 1 => gfMul a (gfPow a n)

/-- The inverse of a non-zero element: a^254. -/
def gfInv (a : Nat) : Nat := gfPow a 254

/-- The coefficients of g(x) below x^6, from x^5 down: the product of (x + α^i), i from 0 to 5. -/
def rsGen : List Nat :=
  ((List.range 6).foldl (fun (p : List Nat) i =>
    -- p holds coefficients from the highest down; multiply by (x + α^i)
    List.zipWith (· ^^^ ·) (p ++ [0]) (0 :: p.map (gfMul (gfPow 2 i)))) [1]).drop 1

/-- One step of the division by g(x): the remainder's coefficients from x^5 down, and the next byte. -/
def rsStep (r : List Nat) (b : Nat) : List Nat :=
  let f := b ^^^ r.headD 0
  List.zipWith (· ^^^ ·) (r.drop 1 ++ [0]) (rsGen.map (gfMul f))

/-- The check bytes of bytes 0 to 73. -/
def rsCheck (l : List Byte) : List Byte :=
  ((l.map (·.toNat)).foldl rsStep (List.replicate 6 0)).map (BitVec.ofNat 8)

/-- Syndrome i of an 80-byte line, by Horner's rule. -/
def rsSyn (l : List Nat) (i : Nat) : Nat :=
  l.foldl (fun acc b => gfMul acc (gfPow 2 i) ^^^ b) 0

/-- What decoding gives. -/
inductive Decoded where
  | clean
  | fixed (patch : List (Nat × Nat))   -- byte positions and the values XORed there
  | lost
  deriving DecidableEq, Repr

/-- The byte position whose locator is x, if the line has one: x = α^(79 - i). -/
def rsPos (x : Nat) : Option Nat :=
  (List.range 80).find? fun i => gfPow 2 (79 - i) == x

/-- Bounded-distance decoding (R222): a codeword within distance 2 if there is one. -/
def rsDecode (l : List Byte) : Decoded :=
  let n := l.map (·.toNat)
  let s := fun i => rsSyn n i
  if (List.range 6).all fun i => s i == 0 then .clean
  else
    let x := gfMul (s 1) (gfInv (s 0))
    if s 0 != 0 && (List.range 5).all (fun i => s (i + 1) == gfMul (s i) x) then
      match rsPos x with
      | some i => .fixed [(i, s 0)]
      | none => .lost
    else
      let det := gfMul (s 1) (s 1) ^^^ gfMul (s 0) (s 2)
      let a := gfMul (gfMul (s 0) (s 3) ^^^ gfMul (s 1) (s 2)) (gfInv det)
      let b := gfMul (gfMul (s 1) (s 3) ^^^ gfMul (s 2) (s 2)) (gfInv det)
      if det == 0 || !((List.range 4).all fun i => s (i + 2) == (gfMul a (s (i + 1)) ^^^ gfMul b (s i))) then .lost
      else
        match (List.range 80).filter fun i =>
            let y := gfPow 2 (79 - i)
            (gfMul y y ^^^ gfMul a y ^^^ b) == 0 with
        | [i, j] =>
          let xi := gfPow 2 (79 - i)
          let xj := gfPow 2 (79 - j)
          let ej := gfMul (s 1 ^^^ gfMul (s 0) xi) (gfInv (xi ^^^ xj))
          let ei := s 0 ^^^ ej
          if ei == 0 || ej == 0 then .lost else .fixed [(i, ei), (j, ej)]
        | _ => .lost

/-- The 80 bytes of a stored line (R219). -/
def Line.bytes (l : Line) : List Byte :=
  leBytes 64 l.data.toNat ++ leBytes 8 l.tag.toNat ++ leBytes 2 l.state.toNat ++ leBytes 6 l.check.toNat

/-- A line from its 80 bytes. -/
def Line.ofBytes (b : List Byte) : Line where
  data := BitVec.ofNat 512 (leAt b 0 64)
  tag := BitVec.ofNat 64 (leAt b 64 8)
  state := BitVec.ofNat 16 (leAt b 72 2)
  check := BitVec.ofNat 48 (leAt b 74 6)

/-- A line with its check bytes computed (R219). -/
def Line.make (data : LineData) (tag : Word64) (lstate era : Nat) : Line :=
  let l : Line := { data := data, tag := tag, state := BitVec.ofNat 16 (lstate * 2 ^ 14 + era), check := 0 }
  { l with check := BitVec.ofNat 48 (ofLe (rsCheck (l.bytes.take 74))) }

/-! ## Interleave (R227, R228) -/

/-- The sort key of a channel in an extent. -/
def chanKey (ch : Nat) : Nat := (ch % 16) * 32 + ch / 16

/-- The channel, line and byte of a PMA of a partition; none outside its extents. -/
def Partition.locate (p : Partition) (pma : Nat) : Option (Nat × Nat × Nat) :=
  let ord := tget [] p.extents (pma / 2 ^ 39)
  let off := pma % 2 ^ 39
  let n := ord.length
  if n = 0 ∨ n * 756 * 2 ^ 20 ≤ off then none
  else
    let g := off / 4096
    match ord[g % n]? with
    | some ch => some (ch, (g / n) * 64 + off / 64 % 64, off % 64)
    | none => none

/-- The PMA of an object line of a channel, if an extent of the partition holds the channel. -/
def Partition.pmaOf (p : Partition) (ch line : Nat) : Option Nat :=
  (List.range 8).findSome? fun e =>
    let ord := tget [] p.extents e
    match ord.findIdx? (· == ch) with
    | some slot => some (e * 2 ^ 39 + ((line / 64) * ord.length + slot) * 4096 + line % 64 * 64)
    | none => none

/-! ## Reads and writes of whole lines -/

/-- MC_ERR_INFO. -/
def errInfo (ue : Bool) (syms ch line : Nat) : Nat :=
  2 ^ 31 + b2n ue * 2 ^ 30 + syms * 2 ^ 28 + ch % 16 * 2 ^ 24 + line

/-- Whether a channel of the stack has fewer than 16 spare rows (R239). -/
def State.spareLow (s : State) (stack : Nat) : Bool :=
  (List.range 16).any fun i => (s.chan (stack * 16 + i)).spares < 16

/-- Any channel has fewer than 16 spare rows (R492). -/
def State.anySpareLow (s : State) : Bool :=
  s.chans.any fun e => e.2.spares < 16

/-- MGT_MAINT (R492). -/
def State.maint (s : State) : Nat :=
  b2n s.mgt.replace
    + b2n (s.mgt.store == 1) * 2
    + b2n (decide (s.mgt.spares.length < 8)) * 4
    + b2n s.anySpareLow * 8
    + b2n ((List.range 4).any fun q => !(s.unit q).online) * 16
    + b2n (decide (61320 < s.mgt.hours)) * 32

/-- Raise the level conditions of the MGT page that have risen between two states (R34, R494). -/
def State.maintRise (old s : State) : State :=
  let s := if old.maint = 0 ∧ s.maint ≠ 0 then s.raise .mgt 0 0 63 else s
  if old.mgt.store ≠ 1 ∧ s.mgt.store = 1 then s.raise .mgt 0 1 63 else s

/-- Record a correction of a line: of `syms` symbols in DRAM, or of a Case word where it is 0 (R223, R226, R233). -/
def State.ceAt (s : State) (ch line syms : Nat) : State :=
  let k := ch / 16
  let s := s.bump 0 .mc k 0x4C 1
  let s := s.setReg 0 .mc k 0x58 0 (errInfo false syms ch line)
  (s.errBit .mc k 0 63).raise .mc k 0 63

/-- Count an uncorrectable line (R225, R226). -/
def State.countUE (s : State) (ch line : Nat) : State :=
  let s := s.bump2 (s.chan ch).owner.toNat .mc (ch / 16) 0x50 1
  s.setReg 0 .mc (ch / 16) 0x58 0 (errInfo true 0 ch line)

/-- The surroundings of a step whose row gives none. -/
def Env.quiet : Env where
  host := []
  hostFail := none
  lineErr := []

/-- The surroundings of a step that put a pattern on one line. -/
def Env.onLine (lid : Nat) (err : BitVec 640) : Env :=
  { Env.quiet with lineErr := [(lid, err)] }

/-- The error pattern that the surroundings put on a line (log entry 14). -/
def errOf (e : Env) (lid : Nat) : BitVec 640 :=
  ((e.lineErr.find? fun x => x.1 == lid).map (·.2)).getD 0

/-- A line with what the surroundings do to it as it is read. A line that is uncorrectable already keeps its raw bytes until a
write of all 64 data bytes replaces it (R225; log entry 14). -/
def State.struck (s : State) (env : Env) (lid : Nat) : State :=
  let err := errOf env lid
  if err = 0 ∨ rsDecode (s.line lid).bytes = .lost then s
  else s.setLine lid (Line.ofBytes (leBytes 80 (ofLe (s.line lid).bytes ^^^ err.toNat)))

/-- A line read and decoded (R222): the line and the symbols that were corrected, which are written back, or none where it is
uncorrectable. LSTATE 2 and 3 count as uncorrectable (R220). -/
def State.decode (s : State) (ch line : Nat) (env : Env) : Option Line × Nat × State :=
  let lid := lidOf ch line
  let s := s.struck env lid
  let got := (s.line lid).bytes
  let answer := fun (l : Line) (n : Nat) (t : State) => (if 2 ≤ l.state.toNat / 2 ^ 14 then none else some l, n, t)
  match rsDecode got with
  | .clean => answer (Line.ofBytes got) 0 s
  | .fixed patch =>
    let l := Line.ofBytes (patch.foldl (fun (b : List Byte) p => b.modify p.1 (· ^^^ BitVec.ofNat 8 p.2)) got)
    answer l patch.length (s.setLine lid l)
  | .lost => (none, 0, s)

/-- A line of a row as sparing copies it: corrected, and else its raw bytes (R224). What it finds is counted. -/
def State.spareLine (s : State) (ch line : Nat) (env : Env) : State :=
  let (r, n, t) := s.decode ch line env
  let t := if n = 0 then t else t.ceAt ch line n
  if r.isNone then t.countUE ch line else t

/-- Copy the 32 lines of a row to a spare row and remap it (R224). -/
def State.spareRow (s : State) (ch row : Nat) (env : Env) : State :=
  let c := s.chan ch
  if c.spares = 0 then s
  else
    let t := (List.range 32).foldl (fun (t : State) i => t.spareLine ch (row * 32 + i) env) s
    let t := t.setChan ch { c with spares := c.spares - 1, spared := c.spared ++ [row],
                                   rowErr := c.rowErr.filter fun e => e.1 != row }
    let t := t.journal .spare (ch / 16) (leBytes 1 (ch % 16) ++ leBytes 4 row ++ leBytes 2 (256 - c.spares))
    let t := if c.spares = 1 then (t.errBit .mc (ch / 16) 3 63).raise .mc (ch / 16) 4 63 else t
    let t := if !s.spareLow (ch / 16) && t.spareLow (ch / 16) then t.raise .mc (ch / 16) 3 63 else t
    State.maintRise s t

/-- MC_CTRL.CE_SPARE; 0 is treated as 1. -/
def State.ceSpare (s : State) (stack : Nat) : Nat :=
  max 1 (bits (s.reg 0 .mc stack 0x10 0x180421) 11 8)

/-- Count a corrected error and its row, and spare the row when it has had enough (R223, R224, R226). The line itself has
been corrected. -/
def State.countCE (s : State) (ch line syms : Nat) (env : Env) : State :=
  let k := ch / 16
  let s := s.ceAt ch line syms
  let row := line / 32
  let c := s.chan ch
  let n := ((c.rowErr.find? fun e => e.1 == row).map (·.2)).getD 0 + 1
  let s := s.setChan ch { c with rowErr := ((row, n) :: c.rowErr.filter fun e => e.1 != row).take 64 }
  if s.ceSpare k ≤ n then s.spareRow ch row { env with lineErr := env.lineErr.filter fun e => e.1 != lidOf ch line } else s

/-- A line read by the memory controller: decoded, corrected and written back, or uncorrectable (R222, R223). -/
def State.mcRead (s : State) (ch line : Nat) (env : Env) : Option Line × State :=
  let (r, n, s) := s.decode ch line env
  let s := if n = 0 then s else s.countCE ch line n env
  (r, if r.isNone then s.countUE ch line else s)

/-- A line is delivered as SEALED: LSTATE is SEALED and ERA is current (R220). -/
def Line.sealedIn (l : Line) (c : Channel) : Bool :=
  l.state.toNat / 2 ^ 14 == 1 && l.state.toNat % 2 ^ 14 == c.era.toNat

end Sys2Proof.Machine
end

