-- ==== Sys2Proof/Machine/Gcm.lean ====
section
/-!
DEFINITION. AES-256 in GCM and GMAC, as NIST SP 800-38D gives them (R190, R244, R414, R415, R434), over the AES-256 block
function of Config. A byte string's first byte is its head.
-/

namespace Sys2Proof.Machine

/-- The number that big-endian bytes spell. -/
def ofBe (l : List Byte) : Nat := ofLe l.reverse

/-- AES-256 of 16 bytes. -/
def aesBytes (key : BitVec 256) (l : List Byte) : List Byte := leBytes 16 (Config.aes256 key (BitVec.ofNat 128 (ofLe l))).toNat

/-- The product of two blocks; the first bit of a block is its most significant one. -/
def gcmMul (x y : BitVec 128) : BitVec 128 :=
  ((List.range 128).foldl (fun (a : BitVec 128 × BitVec 128) i =>
    (if x.getMsbD i then a.1 ^^^ a.2 else a.1, if a.2.getLsbD 0 then (a.2 >>> 1) ^^^ (0xE1 <<< 120) else a.2 >>> 1)) (0, y)).1

/-- GHASH of a string of whole blocks. -/
def ghash (h : BitVec 128) (l : List Byte) : BitVec 128 :=
  (List.range (l.length / 16)).foldl (fun y i => gcmMul (y ^^^ BitVec.ofNat 128 (ofBe (slice l (16 * i) 16))) h) 0

/-- The hash subkey. -/
def gcmSubkey (key : BitVec 256) : BitVec 128 := BitVec.ofNat 128 (ofBe (aesBytes key (List.replicate 16 0)))

/-- The pre-counter block of an IV. -/
def gcmStart (key : BitVec 256) (iv : List Byte) : List Byte :=
  if iv.length = 12 then iv ++ [0, 0, 0, 1]
  else beBytes 16 (ghash (gcmSubkey key) (padTo 16 iv ++ beBytes 16 (8 * iv.length))).toNat

/-- The pre-counter block with its last 32 bits raised by n. -/
def gcmBlock (j : List Byte) (n : Nat) : List Byte := j.take 12 ++ beBytes 4 (ofBe (j.drop 12) + n)

/-- Text XOR the key stream, which begins with the block after the pre-counter block. -/
def gcmCrypt (key : BitVec 256) (iv l : List Byte) : List Byte :=
  let j := gcmStart key iv
  (List.range l.length).map fun i => l.getD i 0 ^^^ (aesBytes key (gcmBlock j (i / 16 + 1))).getD (i % 16) 0

/-- The tag over additional data and ciphertext, its first byte in bits 7 to 0. -/
def gcmTag (key : BitVec 256) (iv aad ct : List Byte) : BitVec 128 :=
  let s := ghash (gcmSubkey key) (padTo 16 aad ++ padTo 16 ct ++ beBytes 8 (8 * aad.length) ++ beBytes 8 (8 * ct.length))
  BitVec.ofNat 128 (ofLe (beBytes 16 s.toNat)) ^^^ BitVec.ofNat 128 (ofLe (aesBytes key (gcmStart key iv)))

/-- GMAC: the tag of an empty text. -/
def gmac (key : BitVec 256) (iv aad : List Byte) : BitVec 128 := gcmTag key iv aad []

/-- Authenticated encryption: ciphertext and tag. -/
def gcmSeal (key : BitVec 256) (iv aad text : List Byte) : List Byte × BitVec 128 :=
  let ct := gcmCrypt key iv text
  (ct, gcmTag key iv aad ct)

/-- Decryption; the tag is checked by `gcmTag`. -/
def gcmOpen (key : BitVec 256) (iv ct : List Byte) : List Byte := gcmCrypt key iv ct

end Sys2Proof.Machine
end

