-- ==== Sys2Proof/Machine/Seal.lean ====
section
/-!
DEFINITION. The Seal engine (chapter 11): keys, the line cipher, counter blocks, reads with pending verification and writes;
the Case before it (chapter 10).
-/

namespace Sys2Proof.Machine

/-! ## Key derivation (R433) -/

/-- The DUS that derivations use: the per-boot value in RETURN and SCRAP (R429), and while no DUS is written. -/
def State.dusBytes (s : State) : List Byte :=
  match s.sec.dus with
  | some d => if 4 ≤ s.lifecycle ∨ s.sec.cloaked then leBytes 32 s.sec.bootVal.toNat else leBytes 32 d.toNat
  | none => leBytes 32 s.sec.bootVal.toNat

/-- SHAKE256 of a string, as bytes. -/
def shakeBytes (n : Nat) (l : List Byte) : List Byte :=
  (leBytes 64 (Config.shake256 l).toNat).take n

/-- The blob wrap key: "IL9 wrap", DUS, M_4, reset nonce. -/
def State.kWrap (s : State) : BitVec 256 :=
  BitVec.ofNat 256 (ofLe (shakeBytes 32 (ascii [0x49, 0x4C, 0x39, 0x20, 0x77, 0x72, 0x61, 0x70] ++ s.dusBytes
    ++ leBytes 64 s.sec.m4.toNat ++ leBytes 32 s.sec.nonce.toNat)))

/-- The bytes of a blob. -/
def blobBytes (b : BitVec 1024) : List Byte := leBytes 128 b.toNat

/-- The secret of a blob whose TAG verifies under K_WRAP (R434). -/
def State.unwrap (s : State) (b : List Byte) : Option (List Byte) :=
  let iv := slice b 24 12
  let aad := slice b 0 64
  let ct := slice b 64 32
  if leBytes 16 (gcmTag s.kWrap iv aad ct).toNat = slice b 96 16 then some (gcmOpen s.kWrap iv ct)
  else none

/-- The memory keys of a KeyID: K_ENC, then K_TAG (R433). -/
def State.memKeys (s : State) (kid : Nat) : BitVec 256 × BitVec 256 :=
  let k := Config.shake256 (ascii [0x49, 0x4C, 0x39, 0x20, 0x6D, 0x65, 0x6D] ++ leBytes 32 (s.kid kid).seed.toNat
    ++ leBytes 32 s.sec.nonce.toNat ++ leBytes 2 kid)
  (k.setWidth 256, (k >>> 256).setWidth 256)

/-- The tree keys of a channel (R251): a draw of the boot, or zero once they are zeroised (R266). -/
def State.treeKeys (s : State) (ch : Nat) : BitVec 256 × BitVec 256 :=
  match s.sec.treeKeys with
  | some n =>
    let k := Config.trng (n + ch)
    (k.setWidth 256, (k >>> 256).setWidth 256)
  | none => (0, 0)

/-! ## The line cipher (R243, R244) -/

/-- The block B_j. -/
def ctrBlockB (c lid level j : Nat) : BitVec 128 :=
  BitVec.ofNat 128 (ofLe (beBytes 8 c ++ beBytes 5 lid ++ [0, 0, BitVec.ofNat 8 (level * 4 + j)]))

/-- The 64 bytes of key stream of a line. -/
def keyStream (kEnc : BitVec 256) (c lid level : Nat) : LineData :=
  Config.aes256 kEnc (ctrBlockB c lid level 3) ++ Config.aes256 kEnc (ctrBlockB c lid level 2)
    ++ Config.aes256 kEnc (ctrBlockB c lid level 1) ++ Config.aes256 kEnc (ctrBlockB c lid level 0)

/-- Ciphertext from plaintext, or plaintext from ciphertext. -/
def crypt (kEnc : BitVec 256) (c lid level : Nat) (d : LineData) : LineData :=
  d ^^^ keyStream kEnc c lid level

/-- The tag of a ciphertext: the first 8 bytes of the GMAC. -/
def lineTag (kTag : BitVec 256) (c lid level kid : Nat) (ct : LineData) : Word64 :=
  (gmac kTag (leBytes 16 (ctrBlockB c lid level 0).toNat)
    (leBytes 64 ct.toNat ++ beBytes 2 kid ++ [BitVec.ofNat 8 level] ++ List.replicate 5 0)).setWidth 64

/-! ## Key access (R242, R437) -/

/-- The agent's bit of a Frisket mask (R436). -/
def agentBit : Agent → Nat
  | .clRead => 0
  | .clWrite => 1
  | .exec => 2
  | .reduce => 3
  | .copy => 4
  | .fabric => 5
  | .ckpt => 6
  | .host => 7

/-- Whether a mask admits an agent: its bit, LC and WORLD (R436, R437). -/
def State.maskAdmits (s : State) (k : KeyId) (a : Agent) : Bool :=
  k.mask.toNat.testBit (agentBit a) && (decide (1 ≤ s.lifecycle ∧ s.lifecycle ≤ 4) && k.mask.toNat.testBit (23 + s.lifecycle))
    && (!k.mask.toNat.testBit 16 ||
        match (s.part k.owner.toNat).job with
        | some d => d.setWidth 224 == k.jobDig
        | none => false)

/-- SEAL_KC_QUOTA of a partition. -/
def State.kcQuota (s : State) (p : Nat) : Nat := s.reg (fnOf p) .seal 0 0x64 0

/-- The key-cache entries of a partition. -/
def State.kcUsed (s : State) (p : Nat) : List (Nat × KeyId) :=
  s.kids.filter fun e => e.2.cached && e.2.owner.toNat == p

/-- Mark a KeyID as the most recently used. -/
def State.touchKid (s : State) (kid : Nat) : State :=
  s.setKid kid { s.kid kid with used := s.kids.foldl (fun m e => max m e.2.used) 0 + 1 }

/-- The key-cache entries in use, of every partition. -/
def State.kcAll (s : State) : Nat := (s.kids.filter fun e => e.2.cached).length

/-- The entry of a list with the smallest last use. -/
def oldest {α : Type} (used : α → Nat) (l : List α) : Option α :=
  l.foldl (fun b e => match b with
    | none => some e
    | some x => if used e < used x then some e else some x) none

/-- Give up a partition's least recently used key-cache entries until it holds fewer than `n` (R242). -/
def State.kcShrink (p n : Nat) : Nat → State → State
  | 0, s => s
  | k + 1, s =>
    if (s.kcUsed p).length < n then s
    else
      match oldest (fun e => e.2.used) (s.kcUsed p) with
      | some (v, _) =>
        State.kcShrink p n k (s.setKid v { s.kid v with cached := false, seed := 0, mask := 0, jobDig := 0 })
      | none => s

/-- Fill a missing key-cache entry (R241, R242): 0x2104 with a quota of 0, 0x2103 when the blob cannot be unwrapped. A partition
at its quota, or one that finds no free entry of the 8,192, gives up its own least recently used entries; one that holds none
then waits. -/
def fillKey (kid : Nat) : M Unit := do
  let k ← look (·.kid kid)
  let p := k.owner.toNat
  let quota ← look (·.kcQuota p)
  need (quota != 0) 0x2104
  match ← look (·.unwrap (blobBytes k.blob)) with
  | none => flt 0x2103
  | some secret =>
    let all ← look (·.kcAll)
    let used ← look fun s => (s.kcUsed p).length
    if 8192 ≤ all ∧ used = 0 then waitHere
    upd fun s => State.kcShrink p (if 8192 ≤ all then min quota used else quota) used s
    upd fun s => (s.setKid kid { s.kid kid with
      cached := true
      seed := BitVec.ofNat 256 (ofLe secret)
      mask := BitVec.ofNat 32 (leAt (blobBytes k.blob) 20 4)
      jobDig := BitVec.ofNat 224 (leAt (blobBytes k.blob) 36 28) }).touchKid kid

/-- The keys of a KeyID are in the key cache before an access goes on (R242). `stack` is the stack whose page reports a fault. -/
def holdKey (kid stack : Nat) : M Unit := do
  let k ← look (·.kid kid)
  if !k.cached then
    fun s =>
      match fillKey kid s with
      | .error (.fault c d _) t => .error (.fault c d stack) t
      | r => r

/-- The checks of an access under a KeyID (R242): KEYED and owned by the partition, a key-cache entry, the mask. `stack` is
the stack whose page reports a fault. -/
def keyCheck (kid part : Nat) (a : Agent) (stack : Nat) : M Unit := do
  let k ← look (·.kid kid)
  need (k.state == .keyed && k.owner.toNat == part) 0x2101 0 stack
  holdKey kid stack
  let k ← look (·.kid kid)
  let ok ← look (·.maskAdmits k a)
  need ok 0x2102 0 stack
  upd (·.touchKid kid)

/-! ## Counter blocks (R246 to R250) -/

/-- The key of a counter block in the cache. -/
def ctrKey (ch lvl b : Nat) : Nat := (ch * 8 + lvl) * 2 ^ 20 + b

/-- The channel-local line of a counter block (R250). -/
def ctrLine (lvl b : Nat) : Nat :=
  match lvl with
  | 1 => 12386304 + b
  | 2 => 12579840 + b
  | _ => 12582864 + b

/-- A block that holds zero in every field. -/
def CtrBlk.zero : CtrBlk :=
  { minor := 0, major := 0, gen := 0, dirty := false, verified := true, bad := none, used := 0 }

/-- MINOR[i]. -/
def CtrBlk.min (b : CtrBlk) (i : Nat) : Nat := (b.minor.toNat >>> (6 * i)) % 64

/-- Set MINOR[i]. -/
def CtrBlk.setMin (b : CtrBlk) (i v : Nat) : CtrBlk :=
  { b with minor := BitVec.ofNat 384 (b.minor.toNat - (b.min i) * 2 ^ (6 * i) + v * 2 ^ (6 * i)) }

/-- The logical counter of child i (R247). -/
def CtrBlk.count (b : CtrBlk) (i : Nat) : Nat := b.major.toNat * 64 + b.min i

/-- The plaintext of a counter block (R246). -/
def CtrBlk.text (b : CtrBlk) : LineData := b.gen ++ b.major ++ b.minor

/-- A counter block from its plaintext. -/
def CtrBlk.ofText (d : LineData) : CtrBlk :=
  { minor := d.setWidth 384, major := (d >>> 384).setWidth 64, gen := (d >>> 448).setWidth 64,
    dirty := false, verified := false, bad := none, used := 0 }

/-- A Seal halt's location at a line of a channel. -/
def haltAt (c : HaltCause) (ch level line : Nat) : HaltAt :=
  { cause := c, stack := BitVec.ofNat 5 (ch / 16), level := BitVec.ofNat 4 level, loc := BitVec.ofNat 4 (ch % 16),
    line := BitVec.ofNat 24 line }

def State.ctr (s : State) (ch lvl b : Nat) : Option CtrBlk := tget none s.ctrs (ctrKey ch lvl b)

def State.setCtr (s : State) (ch lvl b : Nat) (x : Option CtrBlk) : State :=
  { s with ctrs := tput none s.ctrs (ctrKey ch lvl b) x }

/-- Put a counter block in the cache, or use the one there: it becomes the most recently used (R252). -/
def State.keepCtr (s : State) (ch lvl b : Nat) (x : CtrBlk) : State :=
  s.setCtr ch lvl b (some { x with used := s.ctrs.foldl (fun m e => max m ((e.2.map (·.used)).getD 0)) 0 + 1 })

/-- Stop with a Seal halt. -/
def sealStop {α : Type} (h : HaltAt) : M α := fun s => .error (.halt h) s

/-- A counter block and the keys of the blocks that this read brought in: from the cache, or from DRAM under its parent's
counter, when it enters the cache unverified; below a counter of 0 it is zero, and as sure as that counter (R248, R253). The
first argument is 4 less the level. -/
def getCtr (env : Env) (ch : Nat) : Nat → Nat → M (CtrBlk × List Nat)
  | 0, _ => do
    let r ← look (·.ctr ch 4 0)
    pure (r.getD CtrBlk.zero, [])
  | up + 1, b => do
    let lvl := 4 - (up + 1)
    match ← look (·.ctr ch lvl b) with
    | some c =>
      upd (·.keepCtr ch lvl b c)
      pure (c, [])
    | none =>
      let (par, ks) ← getCtr env ch up (b / 64)
      let c := par.count (b % 64)
      if c = 0 then
        let blk := { CtrBlk.zero with verified := par.verified, bad := par.bad }
        upd (·.keepCtr ch lvl b blk)
        pure (blk, if par.verified then ks else ks ++ [ctrKey ch lvl b])
      else
        let line := ctrLine lvl b
        let r ← act fun s => s.mcRead ch line env
        match r with
        | none => sealStop (haltAt .treeUE ch lvl line)
        | some l =>
          let keys ← look (·.treeKeys ch)
          let chan ← look (·.chan ch)
          let lid := lidOf ch line
          let good := l.sealedIn chan && lineTag keys.2 c lid lvl 0 l.data == l.tag
          let blk := CtrBlk.ofText (crypt keys.1 c lid lvl l.data)
          let blk := { blk with bad := if par.bad.isSome then par.bad
                                       else if good then none else some (haltAt .tree ch lvl line) }
          upd (·.keepCtr ch lvl b blk)
          pure (blk, ks ++ [ctrKey ch lvl b])

/-- Complete the verification of the blocks above a line (R255): a failed check halts, the others become verified. -/
def settleCtrs (env : Env) (ch : Nat) : Nat → Nat → M CtrBlk
  | 0, _ => do
    let r ← look (·.ctr ch 4 0)
    pure (r.getD CtrBlk.zero)
  | up + 1, b => do
    let lvl := 4 - (up + 1)
    let _ ← settleCtrs env ch up (b / 64)
    let (c, _) ← getCtr env ch (up + 1) b
    match c.bad with
    | some h => sealStop h
    | none =>
      let c := { c with verified := true }
      upd (·.keepCtr ch lvl b c)
      pure c

/-- MAJOR + 1, or the halt of R249. -/
def majorInc (h : HaltAt) (b : CtrBlk) : M CtrBlk :=
  if b.major.toNat = 2 ^ 58 - 1 then sealStop h else pure { b with major := b.major + 1, dirty := true }

/-- renew() of R249, counted in SEAL_RENEW_CNT for level-1 blocks. -/
def renew (h : HaltAt) (ch : Nat) (b : CtrBlk) : M CtrBlk := do
  let b ← majorInc h b
  upd (·.bump 0 .seal (ch / 16) 0x70 1)
  pure { b with minor := 0 }

/-- Encrypt a line's plaintext under counter `c` and write it (R243, R244). -/
def putCipher (ch line level kid c : Nat) (keys : BitVec 256 × BitVec 256) (d : LineData) : M Unit :=
  upd fun s =>
    let lid := lidOf ch line
    let ct := crypt keys.1 c lid level d
    s.setLine lid (Line.make ct (lineTag keys.2 c lid level kid ct) 1 (s.chan ch).era.toNat)

/-- A command reads an uncorrectable object line: it faults, and the line's PMA is recorded for the channel's owner (R225). -/
def ueFault {α : Type} (ch line : Nat) : M α := do
  upd fun s =>
    let p := (s.chan ch).owner.toNat
    let x := s.part p
    s.setPart p { x with uePma := tput none x.uePma (ch / 16) (x.pmaOf ch line) }
  flt 0x2001 0 (ch / 16)

/-- A child whose counter is to change, as a re-encryption reads it: fully verified (R249). -/
def childText (env : Env) (ch line level kid old : Nat) (keys : BitVec 256 × BitVec 256) : M LineData := do
  let lid := lidOf ch line
  let r ← act fun s => s.mcRead ch line env
  let chan ← look (·.chan ch)
  match r with
  | none => if level = 0 then ueFault ch line else sealStop (haltAt .treeUE ch level line)
  | some l =>
    if l.sealedIn chan && lineTag keys.2 old lid level kid l.data == l.tag then
      pure (crypt keys.1 old lid level l.data)
    else sealStop (haltAt (if level = 0 then .tag else .tree) ch level line)

/-- The line of child `i` of block `b` of a level (R247, R250). -/
def childLine (lvl b i : Nat) : Nat := if lvl = 1 then b * 64 + i else ctrLine (lvl - 1) (b * 64 + i)

/-- A minor overflow of child `i` (R249): every other written child is read, and then all of them are rewritten under their new
counters together, so that one that cannot be read leaves every line and the block as they were. -/
def overflow (env : Env) (ch lvl b i kid : Nat) (keys : BitVec 256 × BitVec 256) (h : HaltAt) (blk : CtrBlk) : M CtrBlk := do
  let up ← majorInc h blk
  let js := (List.range 64).filter fun j => decide (j ≠ i) && blk.min j != 0
  let texts ← js.mapM fun j => do
    let d ← childText env ch (childLine lvl b j) (lvl - 1) kid (blk.count j) keys
    pure (j, d)
  upd (·.bump 0 .seal (ch / 16) 0x74 1)
  let nb := (js.foldl (fun (x : CtrBlk) j => x.setMin j 1) up).setMin i 1
  texts.forM fun p => putCipher ch (childLine lvl b p.1) (lvl - 1) kid (nb.count p.1) keys p.2
  pure nb

/-- A write of child `i` of block `b` at a level, whose children are lines of level `lvl - 1`: the new counter C (R249).
`kid` and `keys` are those of the children. -/
def writeChild (env : Env) (ch lvl b i kid : Nat) (keys : BitVec 256 × BitVec 256) : M Nat := do
  let blk ← settleCtrs env ch (4 - lvl) b
  let h := if lvl = 4 then haltAt .ctrWrap ch 15 0 else haltAt .ctrWrap ch lvl (ctrLine lvl b)
  let gen ← look fun s => (s.chan ch).gen
  let blk ← if lvl = 1 ∧ blk.gen ≠ gen then do
      let r ← renew h ch blk
      pure { r with gen := gen }
    else pure blk
  let nb ← if blk.min i = 63 then overflow env ch lvl b i kid keys h blk
    else pure { blk.setMin i (blk.min i + 1) with dirty := true }
  upd (·.keepCtr ch lvl b nb)
  pure (nb.count i)

/-- Write a dirty counter block of levels 1 to 3 to DRAM under its parent's new counter (R252). -/
def flushCtr (env : Env) (ch lvl b : Nat) : M Unit := do
  match ← look (·.ctr ch lvl b) with
  | none => pure ()
  | some c =>
    if c.dirty then
      let _ ← settleCtrs env ch (4 - lvl) b
      let keys ← look (·.treeKeys ch)
      let n ← writeChild env ch (lvl + 1) (b / 64) (b % 64) 0 keys
      putCipher ch (ctrLine lvl b) lvl 0 n keys c.text
      upd (·.keepCtr ch lvl b { c with dirty := false, verified := true })

/-- The cached counter blocks of a channel: level, number and block. The root is on the die and no part of the cache. -/
def State.partBlocks (s : State) (ch : Nat) : List (Nat × Nat × CtrBlk) :=
  s.ctrs.filterMap fun e =>
    if e.1 / 2 ^ 20 / 8 = ch ∧ e.1 / 2 ^ 20 % 8 ≠ 4 then e.2.map fun x => (e.1 / 2 ^ 20 % 8, e.1 % 2 ^ 20, x) else none

/-- The block that leaves a channel's part of the cache: the least recently used of those that lie in a set of more than 8
(R252). -/
def State.ctrVictim (s : State) (ch : Nat) : Option (Nat × Nat) :=
  let l := s.partBlocks ch
  if l.length ≤ 8 then none
  else
    let set := fun (x : Nat × Nat × CtrBlk) => Config.ctrSet x.1 x.2.1 % 64
    (oldest (fun x => x.2.2.used) (l.filter fun x => 8 < (l.filter fun y => set y == set x).length)).map fun x => (x.1, x.2.1)

/-- Write back and evict the counter blocks that a channel's part of the cache no longer has room for (R252). -/
def trimCtrs (env : Env) (ch : Nat) : Nat → M Unit
  | 0 => pure ()
  | n + 1 => do
    match ← look (·.ctrVictim ch) with
    | none => pure ()
    | some (lvl, b) =>
      flushCtr env ch lvl b
      upd (·.setCtr ch lvl b none)
      trimCtrs env ch n

/-- Every cached block of a channel at a level that is dirty. -/
def State.dirtyCtrs (s : State) (ch lvl : Nat) : List Nat :=
  (s.ctrs.filter fun e => e.1 / 2 ^ 20 == ch * 8 + lvl && (e.2.map (·.dirty)).getD false).map (·.1 % 2 ^ 20)

/-- Write back every dirty block of a channel, from level 1 up (R252, R271, R272). -/
def flushChannel (env : Env) (ch : Nat) : M Unit := do
  for lvl in [1, 2, 3] do
    let bs ← look (·.dirtyCtrs ch lvl)
    bs.forM fun b => flushCtr env ch lvl b

/-! ## Object lines -/

/-- An access to an object line: channel, line, KeyID, partition and agent. -/
structure Acc where
  ch    : Nat
  line  : Nat
  kid   : Nat
  part  : Nat
  agent : Agent

/-- A line as the Seal engine reads it (R253): its plaintext, the blocks it brought in, the halt that its check brings, and
whether it is EMPTY and so verified at once (R248). An uncorrectable line faults (R225). -/
def sealFetch (env : Env) (a : Acc) : M (LineData × List Nat × Option HaltAt × Bool) := do
  let (blk, ks) ← getCtr env a.ch 3 (a.line / 64)
  let chan ← look (·.chan a.ch)
  if blk.gen ≠ chan.gen ∨ blk.min (a.line % 64) = 0 then
    match blk.bad with
    | none => pure (0, ks, none, blk.verified)
    | some h => pure (0, ks, some h, false)
  else
    let lid := lidOf a.ch a.line
    let r ← act fun s => s.mcRead a.ch a.line env
    match r with
    | none => ueFault a.ch a.line
    | some l =>
      let keys ← look (·.memKeys a.kid)
      let c := blk.count (a.line % 64)
      let d := crypt keys.1 c lid 0 l.data
      let bad := if !l.sealedIn chan || lineTag keys.2 c lid 0 a.kid l.data != l.tag then
          some (haltAt .tag a.ch 0 a.line) else blk.bad
      pure (d, ks, bad, false)

/-- Deliver a read: plaintext at once, with its verification pending under the quadrant's epoch (R253, R258). -/
def sealDeliver (env : Env) (a : Acc) : M (LineData × Option Word64) := do
  let (d, ks, bad, done) ← sealFetch env a
  trimCtrs env a.ch 1024
  if done then pure (d, none)
  else
    let q := a.ch / 128
    let e ← look (·.epoch q)
    upd fun s => { s.hold with reads := s.reads ++ [{
      q := BitVec.ofNat 2 q, stamp := e, stack := BitVec.ofNat 5 (a.ch / 16), lid := lidOf a.ch a.line, blks := ks,
      bad := bad }] }
    pure (d, some e)

/-- A read whose verification the reader waits for (R256, R308). -/
def sealVerified (env : Env) (a : Acc) : M LineData := do
  let (d, _, bad, _) ← sealFetch env a
  match bad with
  | some h => sealStop h
  | none =>
    let _ ← settleCtrs env a.ch 3 (a.line / 64)
    trimCtrs env a.ch 1024
    pure d

/-- A write of all 64 bytes (R249, R255). -/
def sealStore (env : Env) (a : Acc) (d : LineData) : M Unit := do
  let keys ← look (·.memKeys a.kid)
  let c ← writeChild env a.ch 1 (a.line / 64) (a.line % 64) a.kid keys
  putCipher a.ch a.line 0 a.kid c keys d
  trimCtrs env a.ch 1024

/-- The bytes of `d` where the mask is set, else those of `old`. -/
def mergeBytes (old d : LineData) (mask : Word64) : LineData :=
  BitVec.ofNat 512 (ofLe ((List.range 64).map fun i =>
    if mask.toNat.testBit i then BitVec.ofNat 8 (d.toNat >>> (8 * i)) else BitVec.ofNat 8 (old.toNat >>> (8 * i))))

/-! ## The Case -/

/-- The check of a read has passed: its counter blocks are verified, and a Case line that waited for it carries no stamp
(R253, R257). -/
def State.readDone (s : State) (r : PendRead) : State :=
  let ctrs := r.blks.foldl (fun (t : Tab (Option CtrBlk)) k =>
    match tget none t k with
    | some b => tput none t k (some { b with verified := true })
    | none => t) s.ctrs
  let s := { s with ctrs := ctrs }
  match s.caseLine r.lid with
  | some c => if c.stamp = some r.stamp then s.setCaseLine r.lid (some { c with stamp := none }) else s
  | none => s

/-- What is about to be written from a Case line waits until the verification of the line has completed (R255, R256): a failed
check halts; the reads of the line that were pending are over (log entry 181). -/
def settleLine (lid : Nat) : M Unit := do
  let rs ← look fun s => s.reads.filter fun r => r.lid == lid
  match rs.findSome? (·.bad) with
  | some h => sealStop h
  | none => upd fun s => rs.foldl State.readDone { s with reads := s.reads.filter fun r => r.lid != lid }

/-- Write back a dirty Case line and leave it clean (R230, R255). -/
def writeBack (env : Env) (lid : Nat) : M Unit := do
  match ← look (·.caseLine lid) with
  | none => pure ()
  | some c =>
    if c.dirty then
      settleLine lid
      holdKey c.kid.toNat (lid / 2 ^ 24 / 16)
      sealStore env { ch := lid / 2 ^ 24, line := lid % 2 ^ 24, kid := c.kid.toNat, part := c.part.toNat, agent := .clWrite }
        c.data
      upd (·.setCaseLine lid (some { c with dirty := false, stamp := none }))

/-- The set of its Case that a line occupies: its quadrant and the set there (R230). -/
def caseSetOf (lid : Nat) : Nat × Nat := (lid / 2 ^ 24 / 128, Config.caseSet (lid / 2 ^ 24) (lid % 2 ^ 24) % 98304)

/-- The Case lines of a partition in the set of a line. -/
def State.caseSet (s : State) (p lid : Nat) : List (Nat × CaseLine) :=
  s.cases.filterMap fun e => e.2.bind fun c =>
    if c.part.toNat = p ∧ caseSetOf e.1 = caseSetOf lid then some (e.1, c) else none

/-- The ways of a partition that a line finds empty in its set (R231). -/
def State.freeWay (s : State) (p lid : Nat) : Option Nat :=
  (List.range 16).find? fun w => (s.part p).ways.toNat.testBit w && (s.caseSet p lid).all fun e => e.2.way.toNat != w

/-- The way that a line of a partition is put in, none when the partition bypasses the Case: an empty way of its set, or that of
the partition's least recently used line there, which is evicted, and written back if it is dirty (R230, R231). -/
def caseRoom (env : Env) (p lid : Nat) : M (Option Nat) := do
  match ← look (·.freeWay p lid) with
  | some w => pure (some w)
  | none =>
    if (← look fun s => (s.part p).ways) = 0 then pure none
    else
      match ← look fun s => oldest (fun e => e.2.used) (s.caseSet p lid) with
      | none => pure none
      | some (v, c) =>
        writeBack env v
        upd (·.setCaseLine v none)
        pure (some c.way.toNat)

/-- Put a line in the Case, or use the one there: it becomes the most recently used (R231). -/
def State.keepCase (s : State) (lid : Nat) (c : CaseLine) : State :=
  s.setCaseLine lid (some { c with used := s.cases.foldl (fun m e => max m ((e.2.map (·.used)).getD 0)) 0 + 1 })

/-- A Case line of an access, in a way. -/
def Acc.caseLine (a : Acc) (d : LineData) (dirty : Bool) (w : Nat) (st : Option Word64) : CaseLine where
  data := d
  dirty := dirty
  kid := BitVec.ofNat 16 a.kid
  part := BitVec.ofNat 6 a.part
  way := BitVec.ofNat 4 w
  stamp := st
  used := 0

/-- A read of an object line by an agent: a Case hit, or a delivery by the Seal engine that is allocated in the
partition's ways (R230, R231, R257). -/
def readLine (env : Env) (a : Acc) : M LineData := do
  keyCheck a.kid a.part a.agent (a.ch / 16)
  let lid := lidOf a.ch a.line
  match ← look (·.caseLine lid) with
  | some c =>
    upd (·.keepCase lid c)
    pure c.data
  | none =>
    let (d, st) ← sealDeliver env a
    match ← caseRoom env a.part lid with
    | some w => upd (·.keepCase lid (a.caseLine d false w st))
    | none => pure ()
    pure d

/-- A write of some of the 64 bytes of an object line (R230, R255, R256). A Case line keeps the stamp that its unwritten bytes
carry. -/
def putLine (env : Env) (a : Acc) (mask : Word64) (d : LineData) : M Unit := do
  let lid := lidOf a.ch a.line
  let whole := mask == BitVec.allOnes 64
  match ← look (·.caseLine lid) with
  | some c => upd (·.keepCase lid { c with data := mergeBytes c.data d mask, dirty := true,
                                           stamp := if whole then none else c.stamp })
  | none =>
    let old ← if whole then pure 0 else sealVerified env a
    let new := mergeBytes old d mask
    match ← caseRoom env a.part lid with
    | some w => upd (·.keepCase lid (a.caseLine new true w none))
    | none => sealStore env a new

/-- A write of some of the 64 bytes of an object line by an agent. -/
def writeLine (env : Env) (a : Acc) (mask : Word64) (d : LineData) : M Unit := do
  keyCheck a.kid a.part a.agent (a.ch / 16)
  putLine env a mask d

/-- Keep only the Case lines that a test admits. -/
def State.caseKeep (s : State) (f : Nat → CaseLine → Bool) : State :=
  { s with cases := s.cases.filter fun e =>
      match e.2 with
      | some c => f e.1 c
      | none => true }

end Sys2Proof.Machine
end

