-- ==== Sys2Proof/Machine/Halt.lean ====
section
/-!
DEFINITION. Stopping the device: flash-clear (R68), the clearing of points 1 to 4 of R266 that a Seal halt, a thermal trip and
a warm device reset share, and the Seal halt itself.
-/

namespace Sys2Proof.Machine

/-- A cluster's contents after a flash-clear (R68). -/
def Cluster.flash (c : Cluster) : Cluster :=
  { c with forme := [], galley := [], v := [], topk := [], k := 0, slots := [], running := none, passRun := none,
           passWait := none, unsettled := [], drains := [], rowsOut := [] }

/-- Event classes of journal records (log entry 15): the KEY of an EVENT record. -/
def evHalt : Nat := 0
/-- BRACED episodes. -/
def evBrace : Nat := 1
/-- UV_WARN outside SERVICE. -/
def evUv : Nat := 2
/-- Link failures. -/
def evLink : Nat := 3
/-- BOOT failures. -/
def evBoot : Nat := 4
/-- Findings. -/
def evFinding : Nat := 5
/-- Rollbacks of an activation. -/
def evRollback : Nat := 6

/-- CTN_CTRL of a port. -/
def State.ctnCtrl (s : State) (p : Nat) : Nat := s.reg 0 .ctn p 0x10 0x6408

/-- ENABLE of a port. -/
def State.ctnEnabled (s : State) (p : Nat) : Bool := (s.ctnCtrl p).testBit 0

/-- Change a port's state: STATE is raised, and NOT_UP where the level rises (R393, R421). -/
def State.portTo (s : State) (p : Nat) (ns : PortState) (reason : Nat) : State :=
  let x := s.port p
  let why := if ns = .down ∨ ns = .fenced then BitVec.ofNat 5 reason else x.reason
  if x.state = ns then s.setPort p { x with reason := why }
  else
    let t := s.setPort p { x with state := ns, reason := why
                                  retryOk := x.retryOk && !(decide (x.state = .training) && decide (ns = .down)) }
    let t := t.raise .ctn p 0 63
    if s.ctnEnabled p && decide (x.state = .up) then t.raise .ctn p 1 63 else t

/-- A port's record after its entry into DOWN: no session, no partner (R393, R417). -/
def Port.dropped (x : Port) : Port :=
  { x with idOk := false, attested := false, session := none, retrain := false, replay := [], txq := [], credits := [],
           version := 0, lanes := 0, x4 := false, switch := false, meas := 0 }

/-- Take every port DOWN with a REASON (R418). -/
def State.portsDown (s : State) (reason : Nat) : State :=
  (List.range 8).foldl (fun t p =>
    let t := t.portTo p .down reason
    t.setPort p (t.port p).dropped) s

/-- Points 1 to 4 of R266: nothing stamped leaves, nothing is dispatched or issued, keys, roots and the reset nonce are
zeroised, the clusters are flash-cleared, and the Case and the counter caches are invalidated without write-back. -/
def State.stopAndClear (s : State) : State :=
  { s with
    egress := (s.egress.map fun e => (e.1, e.2.filter (·.free))).filter fun e => !e.2.isEmpty
    hif := { s.hif with txQueue := [] }
    inflight := []
    colls := []
    kids := s.kids.map fun e => (e.1, { e.2 with cached := false, seed := 0, mask := 0, jobDig := 0 })
    ctrs := []
    chans := s.chans.map fun e => (e.1, { e.2 with gen := 0 })
    sec := { s.sec with nonce := 0, treeKeys := none, busy := false, status := if s.sec.busy then 8 else s.sec.status }
    clusters := s.clusters.map fun e => (e.1, { e.2.flash with clear := false })
    cases := []
    reads := []
    shown := { s.shown with late := [] } }

/-- The code of a Seal-halt cause (R265). -/
def haltCode : HaltCause → Nat
  | .tag => 0x2180
  | .tree => 0x2181
  | .treeUE => 0x2182
  | .ctrWrap => 0x2183
  | .verifyTimeout => 0x2184
  | .root => 0x2185

/-- A Seal halt (R266). A device that is HALTED already stays as it is. -/
def State.sealHaltNow (s : State) (h : HaltAt) : State :=
  if s.pwr.state = .halted then s
  else
    let s := { s with pwr := { s.pwr with state := .halted, sealHalt := true, haltN := true } }
    let s := (List.range 8).foldl (fun (t : State) p =>
      if (t.port p).state = .up then t.say (.haltFrame (BitVec.ofNat 3 p)) else t) s
    let s := s.portsDown 10
    let s := s.stopAndClear
    let s := { s with halt := some { cause := BitVec.ofNat 16 (haltCode h.cause), stack := h.stack, level := h.level,
                                     loc := h.loc, line := h.line } }
    let s := s.raise .seal h.stack.toNat 1 63
    s.event evHalt (haltCode h.cause) (h.stack.toNat * 2 ^ 32 + h.level.toNat * 2 ^ 28 + h.loc.toNat * 2 ^ 24 + h.line.toNat)

end Sys2Proof.Machine
end

