-- ==== Sys2Proof/Machine/Va.lean ====
section
/-!
DEFINITION. How a command reaches memory: handles and holds (R328 to R332), object bytes, host memory (R302, R314, R315) and
context virtual addresses (R333, R334).
-/

namespace Sys2Proof.Machine

/-! ## Who a queue's command runs for -/

/-- The command whose access it is, and its surroundings. -/
structure Via where
  src : QSrc
  env : Env

/-! ## Handles and holds -/

/-- What a handle names for a partition (R326, R332): an index that no OBJ_ALLOC has issued is 0x1A01; a freed, RETIRING or
reissued one is 0x1A04; an object of another partition is 0x1A01. A management queue reaches every partition's. -/
def State.handle (s : State) (part : Nat) (h : Nat) : Nat ⊕ (Nat × Obj) :=
  let i := h % 2 ^ 20
  if tget 0 s.objGen i = 0 then .inl 0x1A01
  else
    match s.obj i with
    | none => .inl 0x1A04
    | some o =>
      if o.gen ≠ h / 2 ^ 20 ∨ o.retiring then .inl 0x1A04
      else if o.part.toNat ≠ part ∧ part ≠ 63 then .inl 0x1A01
      else .inr (i, o)

/-- The object of a handle, or the fault. -/
def getObj (part h : Nat) : M (Nat × Obj) := do
  match ← look (·.handle part h) with
  | .inl c => flt c
  | .inr x => pure x

/-- Add to an object's hold count. -/
def State.addHold (s : State) (i n : Nat) : State :=
  match s.obj i with
  | some o => s.setObj i (some { o with holds := o.holds + n })
  | none => s

/-- Release one hold. -/
def State.dropHold (s : State) (i : Nat) : State :=
  match s.obj i with
  | some o => s.setObj i (some { o with holds := o.holds - 1 })
  | none => s

/-- Unmap the staging slots of the objects that a test admits (R310). -/
def State.unmapStaging (s : State) (f : Nat → Obj → Bool) : State :=
  s.hif.staging.foldl (fun (t : State) e =>
    let i := e.2.handle.toNat % 2 ^ 20
    match t.obj i with
    | some o => if e.2.mapped && f i o then (t.dropHold i).setStg e.1 { e.2 with mapped := false, handle := 0, off4k := 0 } else t
    | none => t) s

/-- Take a command's hold on an object, once per command (R330). -/
def takeHold (q : QSrc) (h : Nat) : M Unit :=
  upd fun s =>
    if s.inflight.any fun c => decide (c.src = q) && c.holds.contains (BitVec.ofNat 32 h) then s
    else
      let s := s.addHold (h % 2 ^ 20) 1
      { s with inflight := s.inflight.map fun c =>
          if c.src = q then { c with holds := c.holds ++ [BitVec.ofNat 32 h] } else c }

/-! ## Host memory -/

/-- The key space of host memory: 0 without a PASID, p + 1 under PASID p. -/
def hostSpace : Option (BitVec 20) → Nat
  | none => 0
  | some p => p.toNat + 1

/-- A byte of host memory in the surroundings. -/
def hostByte (e : Env) (space addr : Nat) : Byte :=
  ((e.host.find? fun x => x.1 == space * 2 ^ 64 + addr % 2 ^ 64).map (·.2)).getD 0

/-- The code of a failed host read (R315). -/
def hostErrCode : HostErr → Nat
  | .poison => 0x1802
  | .timeout => 0x1803
  | .ur => 0x1804

/-- The AER status bit of a failed host read (log entry 189). -/
def hostErrBit : HostErr → Nat
  | .poison => 12
  | .timeout => 14
  | .ur => 20

/-- Whether requests for a partition can leave: the link is up and, for a tenant in confidential mode, IDE is secure
(R300, R312). -/
def State.hostReady (s : State) (part : Nat) : Bool :=
  s.hif.up && (part == 63 || !s.confidential || s.ideSecure)

/-- A command's access to host memory: it faults while its TDI is in ERROR (R314) and waits while the link cannot carry it
(R300). -/
def hostAccess (v : Via) : M Unit := do
  let p ← look (·.partOf v.src)
  let t ← look (·.tdi p)
  need (p == 63 || t != .error) 0x1805
  if !(← look (·.hostReady p)) then waitHere

/-- Read host memory (R315). -/
def hostRead (v : Via) (pasid : Option (BitVec 20)) (addr len : Nat) : M (List Byte) := do
  hostAccess v
  match v.env.hostFail with
  | some e => do
    upd fun s => s.aerReport (fnOf (s.partOf v.src)) (hostErrBit e)
    flt (hostErrCode e)
  | none => pure ((List.range len).map fun i => hostByte v.env (hostSpace pasid) (addr + i))

/-- Write host memory for a command: an egress entry of the CXL path (R261). -/
def hostPut (v : Via) (pasid : Option (BitVec 20)) (addr : Nat) (d : List Byte) : M Unit := do
  let p ← look (·.partOf v.src)
  let t ← look (·.tdi p)
  need (p == 63 || t != .error) 0x1805
  upd (·.hostWrite .data v.src pasid addr d)

/-! ## Places in memory

Where bytes lie, whatever names them: host memory of a PASID, or an extent of a partition. -/

/-- Host memory or not, the PASID or the extent, the first byte and the count. -/
abbrev Place := Bool × Nat × Nat × Nat

/-- Two places share a byte. -/
def placesMeet (a b : Place) : Bool :=
  a.1 == b.1 && a.2.1 == b.2.1 && decide (a.2.2.1 < b.2.2.1 + b.2.2.2) && decide (b.2.2.1 < a.2.2.1 + a.2.2.2)

/-- The place of bytes of an object. -/
def Obj.place (o : Obj) (pasid off len : Nat) : Place :=
  (o.host, if o.host then pasid else o.part.toNat * 8 + o.ext.toNat, o.base + off, len)

/-- The places of the mapped bytes of a range of context virtual addresses. -/
def State.placesOf (s : State) (c va len : Nat) : List Place :=
  let x := s.ctx c
  x.ranges.filterMap fun r =>
    let lo := max va r.va
    let hi := min (va + len) (r.va + r.len)
    if lo < hi then (s.obj (r.handle.toNat % 2 ^ 20)).map fun o => o.place x.pasid.toNat (r.off + (lo - r.va)) (hi - lo)
    else none

/-- The bytes of one block of a collective in its source or destination format. -/
def collBytes (fmt count : Nat) : Nat :=
  ((match fmt with
    | 9 => 32
    | 7 | 8 => 16
    | 4 | 5 => 6
    | 6 => 4
    | _ => 8) * count + 7) / 8

/-- The bytes of a collective's destination (R157). -/
def Coll.destBytes (c : Coll) : Nat :=
  let d := c.desc.toNat
  collBytes (field d 0 2 / 256 % 16) (field d 32 4) * (if field d 0 2 % 16 = 0 then 1 else field d 36 2)

/-- A collective adds (RS and AR). -/
def Coll.reduces (c : Coll) : Bool := let op := field c.desc.toNat 0 2 % 16; op == 0 || op == 2

/-- What a collective names: SRC, DST, the rank table and, of a reduction, SCRATCH (R157). -/
def Coll.areas (c : Coll) : List (Nat × Nat) :=
  let d := c.desc.toNat
  [(field d 8 8, collBytes (field d 0 2 / 16 % 16) (field d 32 4) * (if field d 0 2 % 16 = 1 then 1 else field d 36 2)),
   (field d 16 8, c.destBytes), (field d 40 8, 2 * field d 36 2)]
    ++ (if c.reduces then [(field d 24 8, 16 * field d 32 4)] else [])

/-- Bytes at a place are written: a running collective that names one of them yields undefined results (R163). -/
def State.touch (s : State) (p : Place) : State :=
  { s with colls := s.colls.map fun c =>
      if c.opt.isNone && c.areas.any fun a => (s.placesOf (ctxOf c.src) a.1 a.2).any (placesMeet p) then
        { c with touched := true }
      else c }

/-! ## Object bytes -/

/-- The pieces of a byte range that lie in one 64-byte line each: their start and length. -/
def linePieces : Nat → Nat → Nat → List (Nat × Nat)
  | 0, _, _ => []
  | fuel + 1, off, len =>
    if len = 0 then []
    else
      let n := min len (64 - off % 64)
      (off, n) :: linePieces fuel (off + n) (len - n)

/-- The pieces of a byte range. -/
def pieces (off len : Nat) : List (Nat × Nat) := linePieces (len / 64 + 2) off len

/-- Bytes `off` on of a line. -/
def lineSlice (d : LineData) (off len : Nat) : List Byte :=
  ((leBytes 64 d.toNat).drop off).take len

/-- The mask of bytes `off` to `off + len - 1` of a line. -/
def lineMask (off len : Nat) : Word64 := BitVec.ofNat 64 ((2 ^ len - 1) * 2 ^ off)

/-- A line that holds bytes at an offset. -/
def lineAt (off : Nat) (d : List Byte) : LineData := BitVec.ofNat 512 (ofLe d * 2 ^ (8 * off))

/-- Where a byte of a device object lies: channel, line, byte (R227, R228). -/
def State.objLoc (s : State) (o : Obj) (off : Nat) : Option (Nat × Nat × Nat) :=
  (s.part o.part.toNat).locate (o.ext.toNat * 2 ^ 39 + o.base + off)

/-- Read one piece of an object for an agent. A host object is read under the PASID of the context (R334). -/
def objReadPiece (v : Via) (a : Agent) (o : Obj) (off len : Nat) : M (List Byte) := do
  if o.host then
    let c ← look (·.ctx (ctxOf v.src))
    hostRead v (some c.pasid) (o.base + off) len
  else
    match ← look (·.objLoc o off) with
    | none => flt 0x1A02
    | some (ch, line, b) =>
      let d ← readLine v.env { ch := ch, line := line, kid := o.kid.toNat, part := o.part.toNat, agent := a }
      pure (lineSlice d b len)

/-- Write one piece of an object for an agent. A write into a staging object waits at the egress gate and reaches memory at
its release (R261). A write of another agent than the collective engine counts under R163. -/
def objWritePiece (v : Via) (a : Agent) (o : Obj) (off : Nat) (d : List Byte) : M Unit := do
  let c ← look (·.ctx (ctxOf v.src))
  if a ≠ .fabric then upd (·.touch (o.place c.pasid.toNat off d.length))
  if o.host then
    hostPut v (some c.pasid) (o.base + off) d
  else
    match ← look (·.objLoc o off) with
    | none => flt 0x1A02
    | some (ch, line, b) =>
      let acc : Acc := { ch := ch, line := line, kid := o.kid.toNat, part := o.part.toNat, agent := a }
      if o.staging then
        keyCheck acc.kid acc.part a (ch / 16)
        upd (·.emit 2 false (some v.src) (.memWrite true (lidOf ch line) o.kid o.part (lineMask b d.length) (lineAt b d)))
      else writeLine v.env acc (lineMask b d.length) (lineAt b d)

/-- Read bytes of an object. -/
def objRead (v : Via) (a : Agent) (o : Obj) (off len : Nat) : M (List Byte) := do
  let l ← (pieces off len).mapM fun p => objReadPiece v a o p.1 p.2
  pure l.flatten

/-- Write bytes of an object. -/
def objWrite (v : Via) (a : Agent) (o : Obj) (off : Nat) (d : List Byte) : M Unit :=
  (pieces off d.length).forM fun p => objWritePiece v a o p.1 ((d.drop (p.1 - off)).take p.2)

/-! ## Context virtual addresses -/

/-- The range of a context that covers an address. -/
def Context.rangeAt (c : Context) (va : Nat) : Option MapRange :=
  c.ranges.find? fun r => decide (r.va ≤ va ∧ va < r.va + r.len)

/-- Every page of a span (address and length) is mapped. -/
def Context.maps (c : Context) (p : Nat × Nat) : Bool :=
  (pagesAt p.1 p.2).all fun a => (c.rangeAt a).isSome
where
  /-- One address on every page of a span. -/
  pagesAt (start len : Nat) : List Nat :=
    if len = 0 then [] else (List.range ((start % 4096 + len + 4095) / 4096)).map fun i => (start / 4096 + i) * 4096

/-- Record an IOMMU fault of a partition (IOMMU_FAULT, IOMMU_FAULT_VA). -/
def State.iommuFault (s : State) (ctx part va code : Nat) (write exec : Bool) : State :=
  let s := s.setReg (fnOf part) .iommu 0 0x48 0
    (2 ^ 31 + b2n write * 2 ^ 30 + b2n exec * 2 ^ 29 + ctx * 2 ^ 16 + code)
  (s.setReg (fnOf part) .iommu 0 0x4C 0 (va % 2 ^ 32)).setReg (fnOf part) .iommu 0 0x50 0 (va / 2 ^ 32 % 2 ^ 16)

/-- Fault a translation: an agent's own code leaves the IOMMU record alone (R334). -/
def xlateFault {α : Type} (v : Via) (va code : Nat) (write exec : Bool) : M α := do
  let p ← look (·.partOf v.src)
  if code = 0x1901 ∨ code = 0x1902 then upd (·.iommuFault (ctxOf v.src) p va code write exec)
  flt code

/-- Translate an address for a read or a write: the object and the offset in it (R334). `miss` is the code when no range
covers it. -/
def xlate (v : Via) (miss va : Nat) (write : Bool) : M (Obj × Nat) := do
  let c ← look (·.ctx (ctxOf v.src))
  match c.rangeAt va with
  | none => xlateFault v va miss write false
  | some r =>
    if !(if write then r.write else r.read) then xlateFault v va 0x1902 write false
    else
      match ← look (·.obj (r.handle.toNat % 2 ^ 20)) with
      | none => xlateFault v va miss write false
      | some o => pure (o, r.off + (va - r.va))

/-- Read bytes at a context virtual address. -/
def vread (v : Via) (a : Agent) (miss va len : Nat) : M (List Byte) := do
  let l ← (pieces va len).mapM fun p => do
    let (o, off) ← xlate v miss p.1 false
    objReadPiece v a o off p.2
  pure l.flatten

/-- Write bytes at a context virtual address. -/
def vwrite (v : Via) (a : Agent) (miss va : Nat) (d : List Byte) : M Unit :=
  (pieces va d.length).forM fun p => do
    let (o, off) ← xlate v miss p.1 true
    objWritePiece v a o off ((d.drop (p.1 - va)).take p.2)

/-- Write pieces at context virtual addresses, all or none: where one of them fails, it alone has its effects (R57). -/
def vwriteWhole (v : Via) (a : Agent) (miss : Nat) (parts : List (Nat × List Byte)) : M Unit := fun s =>
  match (parts.forM fun p => vwrite v a miss p.1 p.2 : M Unit) s with
  | .ok _ t => .ok () t
  | .error e _ =>
    let one := parts.flatMap fun p => (pieces p.1 p.2.length).map fun w => (w.1, (p.2.drop (w.1 - p.1)).take w.2)
    match one.findSome? fun w =>
        match vwrite v a miss w.1 w.2 s with
        | .error x t => some (x, t)
        | .ok _ _ => none with
    | some (x, t) => .error x t
    | none => .error e s

end Sys2Proof.Machine
end

