-- ==== Sys2Proof/Machine/FrtOps.lean ====
section
/-!
DEFINITION. Shared operations of the fabric router (chapter 17): the plan, coordinates, routes, injection, transmission under
credits, discards and LOSS.
-/

namespace Sys2Proof.Machine

/-! ## The plan (R398) -/

/-- A field of the loaded plan; zero while none is loaded. -/
def State.planAt (s : State) (off len : Nat) : Nat :=
  match s.frt.plan with
  | some p => leAt p off len
  | none => 0

/-- The router is in open mode (R404). -/
def State.openMode (s : State) : Bool := s.frt.plan.isNone || (s.reg 0 .frt 0 0x10 0).testBit 0

/-- The domain length of axis i. -/
def State.domLen (s : State) (i : Nat) : Nat := s.planAt (16 + i) 1

/-- The torus group length of axis i. -/
def State.grpLen (s : State) (i : Nat) : Nat := s.planAt (19 + i) 1

/-- This device's number. -/
def State.devNum (s : State) : Nat := s.planAt 22 2 % 1024

/-- The slice entries of a plan: the index and the offset of each. -/
def State.sliceOff (s : State) (slice : Nat) : Option Nat :=
  match s.frt.plan with
  | none => none
  | some p => ((List.range (leAt p 7 1)).map (192 + 144 * ·)).find? fun o => leAt p o 1 % 64 == slice

/-- Whether a device is a member of a slice of the plan. -/
def State.sliceHas (s : State) (slice d : Nat) : Bool :=
  match s.sliceOff slice with
  | some o => (s.planAt (o + 16) 128).testBit d
  | none => false

/-- A flag of a slice entry: 0 DEGRADED_OK, 1 UPLINKS. -/
def State.sliceFlag (s : State) (slice i : Nat) : Bool :=
  match s.sliceOff slice with
  | some o => (s.planAt (o + 1) 1).testBit i
  | none => false

/-! ## Coordinates (R405) -/

/-- The coordinate of a device on axis i. -/
def axis (d i : Nat) : Nat :=
  match i with
  | 0 => d / 64
  | 1 => d / 8 % 8
  | _ => d % 8

/-- The device with another coordinate on axis i. -/
def setAxis (d i v : Nat) : Nat :=
  match i with
  | 0 => v * 64 + d % 64
  | 1 => d / 64 * 64 + v * 8 + d % 8
  | _ => d / 8 * 8 + v

/-- A device exists in the domain. -/
def State.devExists (s : State) (d : Nat) : Bool := (List.range 3).all fun i => axis d i < s.domLen i

/-- Two devices lie in one torus group. -/
def State.sameGroup (s : State) (a b : Nat) : Bool :=
  (List.range 3).all fun i => axis a i / s.grpLen i == axis b i / s.grpLen i

/-- The neighbour in the ring of axis i, plus or minus. -/
def State.neighbour (s : State) (d i : Nat) (plus : Bool) : Nat :=
  let g := s.grpLen i
  let x0 := axis d i / g * g
  setAxis d i (x0 + (axis d i - x0 + (if plus then 1 else g - 1)) % g)

/-- The link in that direction is the ring's wrap link. -/
def State.isWrap (s : State) (d i : Nat) (plus : Bool) : Bool :=
  let g := s.grpLen i
  axis d i % g == (if plus then g - 1 else 0)

/-- The role of the link on an axis and direction: 0 X- to 5 Z+. -/
def roleNum (i : Nat) (plus : Bool) : Nat := 2 * i + b2n plus

/-! ## Ports and the group's map (R401 to R403) -/

/-- The logical role of a port. -/
def State.roleOf (s : State) (p : Nat) : Nat :=
  match (s.port p).role with
  | some r => r.toNat
  | none => p

/-- The UP port with a role. -/
def State.portWith (s : State) (r : Nat) : Option Nat :=
  (List.range 8).find? fun p => decide ((s.port p).state = .up) && s.roleOf p == r

/-- The link report of another device. -/
def State.reportOf (s : State) (d : Nat) : Option LinkRep := s.frt.map.find? fun r => r.dev.toNat == d

/-- A report shows a link of a role UP. -/
def repShows (r : LinkRep) (role : Nat) : Bool :=
  (List.range 8).any fun p => r.up.toNat.testBit p && (r.roles.toNat >>> (3 * p)) % 8 == role

/-- The group map shows the link of a device in a direction UP: by its own report, or by its neighbour's. -/
def State.linkUp (s : State) (d i : Nat) (plus : Bool) : Bool :=
  if d = s.devNum then (s.portWith (roleNum i plus)).isSome
  else
    match s.reportOf d with
    | some r => repShows r (roleNum i plus)
    | none =>
      let n := s.neighbour d i plus
      if n = s.devNum then (s.portWith (roleNum i !plus)).isSome
      else
        match s.reportOf n with
        | some r => repShows r (roleNum i !plus)
        | none => false

/-- A device is avoided for a slice (R403). -/
def State.avoided (s : State) (slice : Option Nat) (d : Nat) : Bool :=
  match slice with
  | none => false
  | some k =>
    s.frt.twoMeas.any (·.toNat == d) ||
      (match tget [] s.frt.allow k with
       | [] => false
       | l => match s.reportOf d with
              | some r => !l.contains r.meas
              | none => true)

/-- A slice is REFUSED on this device: DEGRADED_OK is 0 and a link that the plan expects in a group with a member is not UP
(R402). -/
def State.sliceRefused (s : State) (slice : Nat) : Bool :=
  !s.sliceFlag slice 0 &&
    (List.range 1024).any fun d => s.devExists d &&
      ((List.range 1024).any fun m => s.sliceHas slice m && s.sameGroup d m) &&
      (List.range 3).any fun i => s.grpLen i != 1 && !(s.linkUp d i true && s.linkUp d i false)

/-- The segment from a device to a destination's coordinate on an axis is clear: every link is UP and no device on the way
other than the destination is avoided (R403, R407). -/
def State.segClear (s : State) (slice : Option Nat) (dst i : Nat) (plus : Bool) : Nat → Nat → Bool
  | 0, _ => false
  | k + 1, d =>
    axis d i == axis dst i ||
      (s.linkUp d i plus &&
        (let n := s.neighbour d i plus
         (n == dst || !s.avoided slice n) && s.segClear slice dst i plus k n))

/-- A route's next hop. -/
inductive Hop where
  | deliver
  | send (port hop : Nat) (long : Bool)
  | none
  deriving DecidableEq, Repr

/-- HOP of R406. -/
def hopByte (dim : Nat) (plus : Bool) (cls : Nat) : Nat := dim + b2n (!plus) * 4 + cls * 8

/-- Send on the port of a role, with CLASS set on the wrap link. -/
def State.hopOn (s : State) (dim : Nat) (plus : Bool) (cls : Nat) (long : Bool) : Hop :=
  match s.portWith (roleNum dim plus) with
  | some p => .send p (hopByte dim plus (if s.isWrap s.devNum dim plus then 1 else cls)) long
  | none => .none

/-- The procedure of R407 at this device, for a destination in the group. -/
def State.torusHop (s : State) (slice : Option Nat) (dst hop : Nat) : Hop :=
  let d := s.devNum
  let dim := hop % 4
  if d = dst then .deliver
  else if dim = 3 ∨ axis d dim = axis dst dim then
    match (List.range 3).find? fun i => axis d i != axis dst i with
    | none => .deliver
    | some i =>
      let g := s.grpLen i
      let plus := (axis dst i + g - axis d i) % g
      let dir := decide (plus ≤ g - plus)
      if s.segClear slice dst i dir 17 d then s.hopOn i dir 0 false
      else if s.segClear slice dst i (!dir) 17 d then s.hopOn i (!dir) 0 true
      else .none
  else s.hopOn dim (decide (hop / 4 % 2 = 0)) (hop / 8 % 2) false

/-- The uplink for a destination in another group (R409). -/
def State.upHop (s : State) (slice : Option Nat) (dst : Nat) : Hop :=
  let ok := match slice with
    | some k => s.sliceFlag k 1
    | none => true
  let u := 6 + (s.devNum ^^^ dst) % 2
  if !ok then .none
  else if (s.port u).state = .up then .send u 3 false
  else if (s.port (13 - u)).state = .up then .send (13 - u) 3 false
  else .none

/-- The first hop of a packet injected here. -/
def State.route (s : State) (slice : Option Nat) (dst : Nat) : Hop :=
  if s.sameGroup s.devNum dst then s.torusHop slice dst 3 else s.upHop slice dst

/-! ## Transmission (R413, R414) -/

/-- The VC of a packet, its hop class, and its credits. -/
def pktVc (d : List Byte) : Nat := leAt d 0 2 / 2 ^ 14
def pktClass (d : List Byte) : Nat := leAt d 5 1 / 8 % 2
def pktLen (d : List Byte) : Nat := leAt d 6 2 / 16 % 2048
def pktUnits (d : List Byte) : Nat := (pktLen d + 44 + 63) / 64
/-- The packet carries no slice. -/
def pktMgmt (d : List Byte) : Bool := (leAt d 4 1).testBit 6

/-- Credits of a VC and class on a port: the buffers of R413, halved by class on a torus port. -/
def creditCap (p vc : Nat) : Nat :=
  let n := match vc with
    | 0 => 256
    | 1 => 512
    | _ => 1664
  if p < 6 then n / 2 else n

/-- The keys of the hop session that a packet leaves under: the port's, or on an uplink the pair's. -/
def State.hopKeys (s : State) (p : Nat) (d : List Byte) : Option (BitVec 1024) :=
  if p < 6 then (s.port p).session
  else (s.frt.pairs.find? fun e => e.1.toNat == leAt d 0 2 % 1024).map (·.2.keys)

/-- The 8 bytes of a hop tag (R414). -/
def hopTag (keys : Option (BitVec 1024)) (sel : Nat) (seq : Nat) (d : List Byte) : List Byte :=
  match keys with
  | some k => leBytes 8 (gmac ((k >>> sel).setWidth 256) (beBytes 12 seq) (leBytes 4 seq ++ d)).toNat
  | none => List.replicate 8 0

/-- Put a packet on the link. -/
def State.sendNow (s : State) (p : Nat) (k : Pkt) : State :=
  let x := s.port p
  let key := pktVc k.data * 2 + pktClass k.data
  let bytes := leBytes 4 x.txSeq.toNat ++ k.data ++ hopTag (s.hopKeys p k.data) 256 x.txSeq.toNat k.data
  (s.setPort p { x with txSeq := x.txSeq + 1, replay := x.replay ++ [k],
                        credits := tput 0 x.credits key (tget 0 x.credits key + pktUnits k.data) }).say
    (.packet (BitVec.ofNat 3 p) bytes)

/-- The port has credits for a packet, and none of its VC and class waits before it. -/
def State.canSend (s : State) (p : Nat) (k : Pkt) : Bool :=
  let x := s.port p
  let key := pktVc k.data * 2 + pktClass k.data
  decide (tget 0 x.credits key + pktUnits k.data ≤ creditCap p (pktVc k.data)) &&
    !(x.txq.any fun y => pktVc y.data * 2 + pktClass y.data == key)

/-- Send a packet on a port, or let it wait for credits. -/
def State.transmit (s : State) (p : Nat) (k : Pkt) : State :=
  if s.canSend p k then s.sendNow p k
  else
    let x := s.port p
    s.setPort p { x with txq := x.txq ++ [k] }

/-! ## Forming packets (R406, R412, R415) -/

/-- A header. -/
def header (dst dstEp vc src srcEp slice : Nat) (mgmt : Bool) (hop kind len seq : Nat) : List Byte :=
  leBytes 2 (dst + dstEp * 2 ^ 10 + vc * 2 ^ 14) ++ leBytes 2 (src + srcEp * 2 ^ 10)
    ++ [BitVec.ofNat 8 (slice + b2n mgmt * 64), BitVec.ofNat 8 hop] ++ leBytes 2 (kind + len * 16) ++ leBytes 8 seq

/-- The IV of the job layer. -/
def jobIv (src slice vc seq : Nat) : List Byte :=
  beBytes 2 src ++ [BitVec.ofNat 8 slice, BitVec.ofNat 8 vc] ++ beBytes 8 seq

/-- A header with byte 5 as zero: the additional data. -/
def jobAad (h : List Byte) : List Byte := h.set 5 0

/-- A management packet of this device to another, on VC0; dropped when no route exists (R404, R411). -/
def State.mgmtPacket (s : State) (dst kind : Nat) (payload : List Byte) : State :=
  match s.route none dst with
  | .send p hop _ =>
    s.transmit p { src := none, data := header dst 0 0 s.devNum 0 0 true hop kind payload.length 0 ++ payload }
  | _ => s

/-- The payload of a LOSS packet: slice, source endpoint, VC, cause, SEQ (R411; log entry 20). -/
def lossPayload (slice ep vc cause seq : Nat) : List Byte :=
  [BitVec.ofNat 8 slice, BitVec.ofNat 8 ep, BitVec.ofNat 8 vc, BitVec.ofNat 8 cause] ++ leBytes 8 seq

/-- Discard a packet (R411): count it, and tell its source, which for a command of this device is the command itself. A
management packet has no source to tell. -/
def State.discard (s : State) (port : Option Nat) (k : Pkt) (cause : Nat) : State :=
  let s := match port with
    | some p => s.bump 0 .ctn p 0x70 1
    | none => s.bump 0 .frt 0 0x6C 1
  if pktMgmt k.data then s
  else
    let src := leAt k.data 2 2
    if src % 1024 = s.devNum then
      match k.src with
      | some q => { s with frt := { s.frt with lost := s.frt.lost ++ [q] } }
      | none => s
    else
      s.mgmtPacket (src % 1024) 1 (lossPayload (leAt k.data 4 1 % 64) (src / 1024 % 16) (pktVc k.data) cause
        (leAt k.data 8 8))

/-- The key of a sequence counter. -/
def seqKey (slice dev ep vc : Nat) : Nat := ((slice * 1024 + dev) * 16 + ep) * 4 + vc

/-- Encrypt a payload for a hop that is known and queue it at the port's gate (R415, R416). -/
def State.formPacket (s : State) (src : QSrc) (slice vc dst dstEp srcEp port hop : Nat) (key : BitVec 256)
    (payload : List Byte) : State :=
  let sk := seqKey slice s.devNum srcEp vc
  let seq := tget 0 s.frt.seqOut sk
  let h := header dst dstEp vc s.devNum srcEp slice false hop 0 payload.length seq
  let (ct, tag) := gcmSeal key (jobIv (s.devNum + srcEp * 1024) slice vc seq) (jobAad h) payload
  let s := { s with frt := { s.frt with seqOut := tput 0 s.frt.seqOut sk (seq + 1) } }
  s.emit (3 + port) false (some src) (.packet (BitVec.ofNat 3 port) (h ++ ct ++ leBytes 16 tag.toNat))

/-- The pair session with a device. -/
def State.pair (s : State) (d : Nat) : Option Pair := (s.frt.pairs.find? fun e => e.1.toNat == d).map (·.2)

/-- Store a pair session. -/
def State.setPair (s : State) (d : Nat) (x : Pair) : State :=
  { s with frt := { s.frt with pairs := (BitVec.ofNat 10 d, x) :: s.frt.pairs.filter fun e => e.1.toNat != d } }

/-- Mark a pair session as the most recently used. -/
def State.pairUse (s : State) : Nat := s.frt.pairs.foldl (fun m e => max m e.2.used) 0 + 1

/-- A packet queued, unacknowledged or waiting for the pair session of a device. -/
def State.pairBusy (s : State) (d : Nat) : Bool :=
  let holds := fun (k : Pkt) => leAt k.data 0 2 % 1024 == d
  ((s.pair d).map fun x => !x.waiting.isEmpty).getD false ||
    [6, 7].any (fun p => (s.port p).replay.any holds || (s.port p).txq.any holds ||
      (tget [] s.egress (3 + p)).any fun e =>
        match e.ev with
        | .packet _ d' => leAt d' 0 2 % 1024 == d
        | _ => false)

/-- Begin a pair session, for which a packet waits (R409, R410): none when every held session is busy. -/
def State.pairStart (s : State) (d : Nat) (w : InjectIn) : Option State :=
  let fresh : Pair := { up := false, keys := 0, waiting := [w], closing := false, used := s.pairUse, rxSeq := none }
  if s.frt.pairs.length < 1024 then some ((s.setPair d fresh).mgmtPacket d 3 [])
  else
    let idle := s.frt.pairs.filter fun e => !s.pairBusy e.1.toNat && !e.2.closing
    match idle.foldl (fun (b : Option (BitVec 10 × Pair)) e =>
        match b with
        | none => some e
        | some c => if e.2.used < c.2.used then some e else some c) none with
    | some (v, x) =>
      -- the close request goes out; the new session takes the place
      let s := (s.mgmtPacket v.toNat 3 [1]).setPair v.toNat { x with closing := true }
      some ((s.setPair d fresh).mgmtPacket d 3 [])
    | none => none

/-- Inject a packet of a command (R412, R415), or the fault that the command takes. A packet to this device itself needs no
link. -/
def State.inject (s : State) (w : InjectIn) : Nat ⊕ State :=
  let part := s.partOf w.src
  let slice := w.slice.toNat
  let dst := w.dst.toNat
  if s.openMode then .inl 0x2902
  else if (s.part part).slice ≠ some w.slice ∨ !s.sliceHas slice dst then .inl 0x2902
  else if s.sliceRefused slice then .inl 0x2905
  else
    match tget none s.frt.keys slice with
    | none => .inl 0x2904
    | some key =>
      if s.sameGroup s.devNum dst then
        match s.torusHop (some slice) dst 3 with
        | .deliver => .inr s
        | .none => .inl 0x2903
        | .send p hop _ => .inr (s.formPacket w.src slice w.vc.toNat dst w.dstEp.toNat w.srcEp.toNat p hop key w.payload)
      else
        match s.upHop (some slice) dst with
        | .send p hop _ =>
          match s.pair dst with
          | some x =>
            if x.up ∧ !x.closing then
              let s := s.setPair dst { x with used := s.pairUse }
              .inr (s.formPacket w.src slice w.vc.toNat dst w.dstEp.toNat w.srcEp.toNat p hop key w.payload)
            else .inr (s.setPair dst { x with waiting := x.waiting ++ [w] })
          | none =>
            match s.pairStart dst w with
            | some t => .inr t
            | none => .inl 0x2903
        | _ => .inl 0x2903

/-- Inject the pieces of a message, at most 1,024 bytes each. -/
def State.injectAll (s : State) (w : InjectIn) : Nat → List Byte → Nat ⊕ State
  | 0, _ => .inr s
  | k + 1, l =>
    match s.inject { w with payload := l.take 1024 } with
    | .inl c => .inl c
    | .inr t => if l.length ≤ 1024 then .inr t else t.injectAll w k (l.drop 1024)

/-! ## Reports and port changes (R402, R411, R417) -/

/-- FRT_PORTMAP.MISSING (R402). -/
def State.missing (s : State) : Nat :=
  (List.range 8).foldl (fun m p =>
    if (s.planAt (64 + 16 * p + 11) 1).testBit 0 && decide ((s.port p).state ≠ .up) then m + 2 ^ p else m) 0

/-- The link report that this device floods (R402; log entry 20): per port its state, role and partner's measurement. -/
def State.ownReport (s : State) : List Byte :=
  leBytes 2 s.devNum ++ (List.range 8).flatMap fun p =>
    [BitVec.ofNat 8 (b2n (decide ((s.port p).state = .up))), BitVec.ofNat 8 (s.roleOf p)]
      ++ leBytes 64 (s.port p).meas.toNat

/-- Flood the link report over the group. -/
def State.flood (s : State) : State :=
  if s.frt.plan.isNone then s
  else
    (List.range 1024).foldl (fun t d =>
      if t.devExists d && t.sameGroup t.devNum d && d != t.devNum then t.mgmtPacket d 2 s.ownReport else t) s

/-- Change a port's state, with what a change brings: the report, the level condition MISSING and, where it leaves or enters
UP, recomputed routes. -/
def State.portMove (s : State) (p : Nat) (ns : PortState) (reason : Nat) : State :=
  let old := (s.port p).state
  let t := s.portTo p ns reason
  if old = ns then t
  else
    let t := if s.missing = 0 ∧ t.missing ≠ 0 then t.raise .frt 0 1 63 else t
    let t := if old = .up ∨ ns = .up then t.raise .frt 0 2 63 else t
    t.flood

/-- A port goes DOWN (R417): its queued and unacknowledged packets are discarded under R411, and its session ends. -/
def State.portDown (s : State) (p reason : Nat) : State :=
  let x := s.port p
  let held := (tget [] s.egress (3 + p)).filterMap fun e =>
    match e.ev with
    | .packet _ d => some ({ src := e.src, data := d } : Pkt)
    | _ => none
  let s := { s with egress := tput [] s.egress (3 + p) [] }
  let s := s.portMove p .down reason
  let s := s.setPort p (s.port p).dropped
  (x.replay ++ x.txq ++ held).foldl (fun t k => t.discard (some p) k 0) s

end Sys2Proof.Machine
end

