-- ==== Sys2Proof/Machine/Flags.lean ====
section
/-!
DEFINITION. What a fault or a status marks beside its completion record: the block's ERRSTAT bit and interrupt condition
(R512), and the block pages of each code (R516).
-/

namespace Sys2Proof.Machine

/-- Where a code is marked: the block, its instance, the ERRSTAT bit and the interrupt condition, if the block has them. The
cluster of a cluster code and the stack of a memory or Seal code come with the fault; the Scale manager, IOMMU and command
processor pages are those of instance 0. -/
def codeSite (code inst : Nat) : Option (Blk × Nat × Option Nat × Option Nat) :=
  let low := code % 256
  match code with
  | 0x1001 => some (.cl, inst, some 1, some 2)
  | 0x1002 => some (.cl, inst, some 2, some 2)
  | 0x1003 => some (.cl, inst, some 3, some 2)
  | 0x1101 => some (.sow, inst, some 0, some 0)
  | 0x1102 => some (.sow, inst, some 1, some 1)
  | 0x1201 => some (.gal, inst, some 0, some 0)
  | 0x1301 => some (.gln, inst, some 0, some 1)
  | 0x1401 => some (.vec, inst, some 0, some 0)
  | 0x1601 => some (.prf, inst, some 0, some 0)
  | 0x1901 => some (.iommu, 0, some 0, some 0)
  | 0x1902 => some (.iommu, 0, some 1, some 1)
  | 0x1B01 => some (.part, 0, some 0, some 4)
  | 0x1B02 => some (.part, 0, some 1, some 4)
  | 0x2001 => some (.mc, inst, some 1, some 1)
  | _ =>
    match code / 256 with
    | 0x10 => some (.cl, inst, none, some 2)
    | 0x15 => if 1 ≤ low ∧ low ≤ 7 then some (.scl, inst, some (low - 1), some (if low = 6 then 2 else 5)) else none
    | 0x18 => some (.hif, 0, some low, some 5)
    | 0x1A => if 0x60 ≤ low ∧ low ≤ 0x63 then some (.cmdp, 0, some (low - 0x60), some 0) else none
    | 0x21 => if low ≤ 4 then some (.seal, inst, some (low - 1), some 0) else none
    | 0x22 =>
      if low = 4 then some (.rdu, inst, some 3, none)   -- NONFINITE was raised when the contribution was counted (R171)
      else if low ≤ 7 then some (.rdu, inst, if low = 7 then none else some (low - 1), some 2) else none
    | 0x29 => some (.frt, 0, some (low - 1), some 3)
    | 0x2A => some (.coll, 0, some (low - 1), some (if low = 5 then 1 else 2))
    | _ => none

/-- The block types whose codes a cluster reports in CL_FAULT. -/
def clusterCode (code : Nat) : Bool :=
  [0x10, 0x11, 0x12, 0x13, 0x14].contains (code / 256) && code != 0x1410 && code != 0x1411

/-- Mark a code in its block for a partition (R512), from verified data alone (R39). A cluster's block also raises the cluster's
FAULT condition for the nine codes of chapter 3. -/
def State.markCode (s : State) (code inst part : Nat) : State :=
  let site : List RegUpd := match codeSite code inst with
    | none => []
    | some (b, i, e, n) =>
      (match e with
        | some k => [.err b i k part]
        | none => []) ++ (match n with
        | some k => [.cond b i k part]
        | none => [])
  s.fromData (site ++ (if code = 0x1601 then count2 part .prf inst 0x58 1 else [])
    ++ (if [0x1101, 0x1102, 0x1201, 0x1301, 0x1401].contains code then [.cond .cl inst 2 part] else []))

end Sys2Proof.Machine
end

