-- ==== Sys2Proof/Machine/Fence.lean ====
section
/-!
DEFINITION. Fence slots (R336 to R341): rights, signals, breaking, waits and mirror records.
-/

namespace Sys2Proof.Machine

/-- Whether a context holds a right on a fence: WAIT when `wait`, else SIGNAL. The owner holds both (R339). -/
def Fence.may (f : Fence) (ctx : Nat) (wait : Bool) : Bool :=
  f.owner.toNat == ctx || f.grants.any fun g => g.active && g.ctx.toNat == ctx && (if wait then g.wait else g.signal)

/-- The mirror record's STATE. -/
def FenceState.code : FenceState → Nat
  | .live => 0
  | .broken => 1
  | .abandoned => 2

/-- The 16 bytes of the mirror record (R336). -/
def Fence.record (f : Fence) (slot : Nat) : List Byte :=
  leBytes 8 f.value.toNat ++ [BitVec.ofNat 8 f.state.code, 0] ++ leBytes 2 f.code.toNat ++ leBytes 2 slot
    ++ leBytes 2 f.owner.toNat

/-- Write a slot's mirror record into its owner's PASID space (R336). -/
def State.mirror (s : State) (src : Option QSrc) (slot : Nat) : State :=
  match s.fence slot with
  | some f =>
    let x := s.ctx f.owner.toNat
    s.hostPost (fnOf x.part.toNat) .fence src (some x.pasid) f.mirror.toNat (f.record slot)
  | none => s

/-- Store a fence and, when it has changed, write its mirror record. -/
def State.fenceTo (s : State) (src : Option QSrc) (slot : Nat) (f : Fence) : State :=
  if s.fence slot = some f then s else (s.setFence slot (some f)).mirror src slot

/-- The larger of two 64-bit values. -/
def maxW (a b : Word64) : Word64 := if a.toNat < b.toNat then b else a

/-- The smaller of two 64-bit values. -/
def minW (a b : Word64) : Word64 := if b.toNat < a.toNat then b else a

/-- Apply a signal whose range has been checked (R337). A signal that no longer finds the right or the range is dropped. -/
def State.signal (s : State) (src : QSrc) (slot : Nat) (v : Word64) : State :=
  match s.fence slot with
  | some f =>
    if f.state = .live ∧ f.may (ctxOf src) false ∧ v.toNat ≤ f.release.toNat then
      s.fenceTo (some src) slot { f with value := maxW f.value v }
    else s
  | none => s

/-- Break a fence that a command was to signal (R340): it counts when the command's context holds SIGNAL. -/
def State.breakFence (s : State) (src : QSrc) (slot : Nat) (v : Word64) (code : Nat) : State :=
  match s.fence slot with
  | some f =>
    if f.state = .live ∧ f.may (ctxOf src) false then
      s.fenceTo (some src) slot { f with state := .broken, code := BitVec.ofNat 16 code,
                                         value := minW f.release (maxW f.value v) }
    else s
  | none => s

/-- Begin the sequence of R341: a LIVE fence becomes ABANDONED and stays until its waiters are woken; another is freed. -/
def State.freeFence (s : State) (src : Option QSrc) (slot : Nat) : State :=
  match s.fence slot with
  | some f =>
    if f.state = .live then s.setFence slot (some { f with state := .abandoned, value := f.release })
    else (s.mirror src slot).setFence slot none
  | none => s

/-- The end of the sequence of R341, after the waiters: the final mirror record, and the slot is free. -/
def State.sweepFences (s : State) (src : Option QSrc) : State :=
  s.fences.foldl (fun t e =>
    match e.2 with
    | some f => if f.state = .abandoned then (t.mirror src e.1).setFence e.1 none else t
    | none => t) s

/-- How a wait stands: none while it waits, 0 when it completes, else its fault (R338). A slot that is gone reads as
abandoned. -/
def State.waitEnd (s : State) (slot : Nat) (v : Word64) : Option Nat :=
  match s.fence slot with
  | none => some 0x1A0B
  | some f =>
    match f.state with
    | .live => if v.toNat ≤ f.value.toNat then some 0 else none
    | .broken => some 0x1A0C
    | .abandoned => some 0x1A0B

/-- The fault of a signal or a wait that is named at dispatch, 0 for none: the right (R339), then the range (R337, R338). -/
def State.fenceUse (s : State) (ctx slot : Nat) (v : Word64) (wait : Bool) : Nat :=
  match s.fence slot with
  | none => 0x1A09
  | some f => if !f.may ctx wait then 0x1A09 else if f.release.toNat < v.toNat then 0x1A0A else 0

end Sys2Proof.Machine
end

