-- ==== Sys2Proof/Machine/Sched.lean ====
section
/-!
DEFINITION. Scheduling and shares (chapter 16): readiness and the slice, context shares on the clusters, the states of
contexts and partitions.
-/

namespace Sys2Proof.Machine

/-- The opcodes that need the slice: EXEC_TILE, EXEC_LAYERS, EXEC_OPTIM, KEY_LOAD, COLL_RUN, OPT_DIGEST. -/
def sliceBound (op : Nat) : Bool := [0x11, 0x12, 0x13, 0x71, 0x81, 0x91].contains op

/-- The opcodes that use clusters. -/
def usesClusters (op : Nat) : Bool := [0x11, 0x12, 0x13].contains op

/-- The opcodes that R351 marks as serialising. -/
def serialOp (op : Nat) : Bool := [0x33, 0x34, 0x51, 0x61, 0xA1, 0xA2, 0xC2].contains op

/-- Change the command of a queue. -/
def State.setCmd (s : State) (q : QSrc) (f : Cmd → Cmd) : State :=
  { s with inflight := s.inflight.map fun c => if c.src = q then f c else c }

/-- A command has been dispatched: it waits no longer at check 5 or for dispatch. -/
def Cmd.started (c : Cmd) : Bool :=
  match c.stage with
  | .syncWait => false
  | .ready => false
  | _ => true

/-- The partition is at a command boundary: none of its cluster-using commands is dispatched (R379). -/
def State.atCommand (s : State) (p : Nat) : Bool :=
  p == 63 || !s.inflight.any fun c => !isMgmt c.src && usesClusters c.op.toNat && c.started && s.partOf c.src == p

/-- The clusters of a partition, in order of their physical numbers. -/
def State.clustersOf (s : State) (p : Nat) : List Nat :=
  (s.clusters.filter fun e => e.2.owner.toNat == p).map (·.1)

/-- Change every cluster of a partition. -/
def State.onClusters (s : State) (p : Nat) (f : Cluster → Cluster) : State :=
  (s.clustersOf p).foldl (fun t c => t.setCluster c (f (t.cluster c))) s

/-! ## Shares (R380, R381) -/

/-- PART_CTX_SHARE of a context, kept across teardown. -/
def State.ctxShare (s : State) (c : Nat) : Nat := s.reg (64 + c) .part 0 0x68 0x10040010

/-- The lowest base, in units, at which `size` units lie free below `top` beside the given intervals. -/
def lowestFree (used : List (Nat × Nat)) (size top : Nat) : Option Nat :=
  (List.range (top + 1)).find? fun b =>
    decide (b + size ≤ top) && used.all fun u => decide (b + size ≤ u.1) || decide (u.1 + u.2 ≤ b)

/-- The placements of a partition's contexts that a test admits. -/
def State.placements (s : State) (p : Nat) (f : Context → Bool) : List Placed :=
  s.ctxs.filterMap fun e => if e.2.part.toNat == p && f e.2 then e.2.placed else none

/-- Where a context's shares fit beside those of the contexts that a test admits. -/
def State.fit (s : State) (c p : Nat) (f : Context → Bool) : Option Placed :=
  let w := s.ctxShare c
  let fsz := bits w 7 0
  let gsz := if bits w 20 16 = 0 then 32 else bits w 20 16
  let l := s.placements p f
  match lowestFree (l.map fun x => (x.formeBase / 65536, x.formeSize / 65536)) fsz 128,
        lowestFree (l.map fun x => (x.galBase / 128, x.galRows / 128)) gsz 32,
        (List.range 32).find? fun n => l.all fun x => x.slot != n with
  | some a, some g, some n =>
    some { slot := n, formeBase := a * 65536, formeSize := fsz * 65536, galBase := g * 128, galRows := gsz * 128 }
  | _, _, _ => none

/-- An empty slot of a context with its shares. -/
def newSlot (c : Nat) (x : Placed) : Slot where
  ctx := BitVec.ofNat 12 c
  prog := none
  ended := false
  s := []
  d := []
  g := []
  pc := 0
  streams := []
  ptid := 0
  formeBase := x.formeBase
  formeSize := x.formeSize
  galBase := x.galBase
  galRows := x.galRows
  boundary := true
  closing := false

/-- A slot of a cluster. -/
def Cluster.slot (c : Cluster) (n : Nat) : Option Slot := tget none c.slots n

/-- Store a slot. -/
def Cluster.setSlot (c : Cluster) (n : Nat) (x : Option Slot) : Cluster := { c with slots := tput none c.slots n x }

/-- Place a context's shares on the clusters of its partition. -/
def State.place (s : State) (c p : Nat) (x : Placed) : State :=
  (s.setCtx c { s.ctx c with placed := some x }).onClusters p fun k => k.setSlot x.slot (some (newSlot c x))

/-- Zero a Forme range of a cluster, in bytes. -/
def Cluster.zeroForme (k : Cluster) (base size : Nat) : Cluster :=
  { k with forme := k.forme.filter fun e => decide (e.1 < base / 64) || decide ((base + size) / 64 ≤ e.1) }

/-- Zero Galley rows of a cluster. -/
def Cluster.zeroGalley (k : Cluster) (base rows : Nat) : Cluster :=
  { k with galley := k.galley.filter fun e => decide (e.1 < base) || decide (base + rows ≤ e.1) }

/-- Every issued pass of a slot has settled its rows. -/
def Cluster.arrayDone (k : Cluster) (n : Nat) (x : Slot) : Bool :=
  decide ((k.passRun.map (·.slot)) ≠ some n) && decide ((k.passWait.map (·.slot)) ≠ some n)
    && k.unsettled.all fun r => decide (r < x.galBase) || decide (x.galBase + x.galRows ≤ r)

/-- Every issued drain of a slot has written its last row. -/
def Cluster.drainsDone (k : Cluster) (n : Nat) : Bool :=
  k.drains.all (fun d => d.slot != n) && k.rowsOut.all fun r => r.slot != n

/-- A stopped slot whose passes and drains have finished is zeroed in the Galley and may run again (R66). -/
def Cluster.closeSlot (k : Cluster) (n : Nat) : Cluster :=
  match k.slot n with
  | some x =>
    if x.closing && k.arrayDone n x && k.drainsDone n then
      (k.zeroGalley x.galBase x.galRows).setSlot n (some { x with closing := false })
    else k
  | none => k

/-- Stop a slot (R66): nothing of its context issues, what it issued finishes without effect, and then its Galley share is
zeroed. -/
def Cluster.stopSlot (k : Cluster) (n : Nat) : Cluster :=
  match k.slot n with
  | none => k
  | some x =>
    let k := k.setSlot n (some { x with prog := none, ended := false, streams := [], boundary := true, closing := true })
    { k with running := if k.running = some n then none else k.running }.closeSlot n

/-- What a slot's number names on a cluster finishes without effect: the slot is stopped or gone (R66). -/
def Cluster.voidSlot (k : Cluster) (n : Nat) : Bool :=
  match k.slot n with
  | some x => x.closing
  | none => true

/-- A slot of a context on the clusters of its partition is still closing. -/
def State.closing (s : State) (c : Nat) : Bool :=
  match (s.ctx c).placed with
  | none => false
  | some x => (s.clustersOf (s.ctx c).part.toNat).any fun k =>
      match (s.cluster k).slot x.slot with
      | some y => y.closing
      | none => false

/-- Stop the tile programs of a context on every cluster. -/
def State.stopTiles (s : State) (c : Nat) : State :=
  match (s.ctx c).placed with
  | some x => s.onClusters (s.ctx c).part.toNat fun k => k.stopSlot x.slot
  | none => s

/-- Release a context's shares, zeroed (R380). -/
def State.unplace (s : State) (c : Nat) : State :=
  match (s.ctx c).placed with
  | some x =>
    let s := s.onClusters (s.ctx c).part.toNat fun k =>
      (((k.stopSlot x.slot).zeroForme x.formeBase x.formeSize).zeroGalley x.galBase x.galRows).setSlot x.slot none
    s.setCtx c { s.ctx c with placed := none }
  | none => s

/-- Release a transient context's shares once no cluster-using command of it runs and what it issued has finished. -/
def State.unplaceTransient (s : State) (c : Nat) : State :=
  if (s.ctx c).pinned || s.closing c || s.inflight.any fun k => ctxOf k.src == c && usesClusters k.op.toNat && k.started then s
  else s.unplace c

/-- The shares of transient contexts that nothing uses any more are released. -/
def State.unplaceIdle (s : State) : State :=
  s.ctxs.foldl (fun (t : State) e => if e.2.placed.isSome then t.unplaceTransient e.1 else t) s

/-! ## Readiness and the slice (R382) -/

/-- A queue of a context holds a descriptor that could be fetched. -/
def State.queueWaits (s : State) (c : Nat) (q : Nat) (x : Queue) : Bool :=
  x.head != x.tail && !(s.inflight.any fun k => decide (k.src = .ctx (BitVec.ofNat 12 c) (BitVec.ofNat 4 q)))

/-- A context of the partition may be dispatched. -/
def Context.alive (c : Context) : Bool :=
  c.bound && decide (c.state ≠ .faulted) && decide (c.state ≠ .teardown)

/-- The priority of a ready context, the highest of its queues that hold a slice-bound command dispatched or dispatchable; none when
it is not ready (R382; log entry 21). -/
def State.readyPrio (s : State) (c : Nat) : Option Nat :=
  let x := s.ctx c
  if !x.alive then none
  else
    let l := x.queues.filterMap fun e =>
      match e.2 with
      | none => none
      | some q =>
        if (s.queueWaits c e.1 q && Config.ringSlice c q.num.toNat q.head.toNat) || s.inflight.any (fun k =>
            decide (k.src = .ctx (BitVec.ofNat 12 c) (BitVec.ofNat 4 e.1)) && sliceBound k.op.toNat
              && decide (k.stage ≠ .syncWait)) then some q.prio.toNat else none
    match l with
    | [] => none
    | a :: t => some (if x.starved then 4 else t.foldl max a)

/-- Let the clusters of a partition run the slot of its holder, where that slot has a program that has not ended. -/
def State.runHolder (s : State) (p : Nat) : State :=
  let slot := ((s.part p).holder.bind fun c => (s.ctx c.toNat).placed).map (·.slot)
  s.onClusters p fun k =>
    { k with running := slot.bind fun n =>
        match k.slot n with
        | some x => if x.prog.isSome && !x.ended then some n else none
        | none => none }

/-- The ready context that takes the slice next: highest priority, then longest waiting (R382). -/
def State.nextHolder (s : State) (l : List (BitVec 12)) : Option (BitVec 12) :=
  (l.foldl (fun (b : Option (BitVec 12 × Nat)) c =>
    match s.readyPrio c.toNat, b with
    | none, _ => b
    | some n, none => some (c, n)
    | some n, some (_, m) => if m < n then some (c, n) else b) none).map (·.1)

/-- The length of a context's slice in µs (R382): SLICE_US × WEIGHT / 16. -/
def State.sliceUs (s : State) (p c : Nat) : Nat :=
  bits (s.reg (fnOf p) .part 0 0x60 0x07D06400) 31 16 * max 1 (bits (s.ctxShare c) 29 24) / 16

/-- Give a partition's slice to a context. Its overrun shortens the slice (R384). -/
def State.giveSlice (s : State) (p : Nat) (c : BitVec 12) : State :=
  let x := s.part p
  let s := s.setPart p { x with holder := some c, queueing := x.queueing.filter (· != c), preemptDue := false }
  let k := s.ctx c.toNat
  (s.setCtx c.toNat { k with starved := false, owed := k.owed - s.sliceUs p c.toNat }).runHolder p

/-- The programs of a context have all reached a tile boundary or ended (R342, R383). -/
def State.atBoundary (s : State) (c : Nat) : Bool :=
  match (s.ctx c).placed with
  | none => true
  | some x => (s.clustersOf (s.ctx c).part.toNat).all fun k =>
      match (s.cluster k).slot x.slot with
      | none => true
      | some y => !y.closing && (y.prog.isNone || y.ended || y.boundary)

/-- The partition's contexts are being accounted (R386): not in BINDING, RESETTING or HALTED. -/
def State.accounted (s : State) (p : Nat) : Bool :=
  match (s.part p).state with
  | .binding | .resetting | .halted => false
  | _ => true

/-- Charge a span of always-on time in which a holder had the slice: RUN to it, WAIT to the other ready contexts (R386). -/
def State.charge (s : State) (p : Nat) (h : BitVec 12) (us : Nat) : State :=
  if !s.accounted p then s
  else
    let t := s.setCtx h.toNat { s.ctx h.toNat with runUs := (s.ctx h.toNat).runUs + us }
    ((s.part p).queueing.filter fun c => (s.readyPrio c.toNat).isSome).foldl (fun (u : State) c =>
      u.setCtx c.toNat { u.ctx c.toNat with waitUs := (u.ctx c.toNat).waitUs + us }) t

/-- A holder gives up the slice (R382, rule 6): no row says how long it had it since the last charge, so the time charged is a
free value (log entry 185). -/
def State.giveUp (s : State) (p : Nat) (h : BitVec 12) : State :=
  let x := s.fresh
  x.2.charge p h (x.1.setWidth 32).toNat

/-- Contexts of a partition that have become ready and do not yet wait for the slice: they wait behind the others. -/
def State.newReady (s : State) (p : Nat) : List (BitVec 12) :=
  let x := s.part p
  s.ctxs.filterMap fun e =>
    let c := BitVec.ofNat 12 e.1
    if e.2.part.toNat == p && x.holder != some c && !x.queueing.contains c && (s.readyPrio e.1).isSome then some c else none

/-- Bring a partition's slice up to date: a holder that is no longer ready gives it up, a free slice is taken, and a ready
context of higher priority makes a pre-emption due (R382). A context in TEARDOWN keeps it to its next tile boundary. -/
def State.reslice (s : State) (p : Nat) : State :=
  let x := s.part p
  let q := x.queueing.filter (fun c => (s.readyPrio c.toNat).isSome) ++ s.newReady p
  let hold := x.holder.filter fun c =>
    (s.readyPrio c.toNat).isSome || (decide ((s.ctx c.toNat).state = .teardown) && !s.atBoundary c.toNat)
  match hold with
  | some h =>
    let due := x.preemptDue || q.any fun c => decide ((s.readyPrio h.toNat).getD 0 < (s.readyPrio c.toNat).getD 0)
    s.setPart p { x with queueing := q, preemptDue := due }
  | none =>
    let s := match x.holder with
      | some h => s.giveUp p h
      | none => s
    let s := s.setPart p { s.part p with queueing := q, holder := none, preemptDue := false }
    match s.nextHolder q with
    | some c => s.giveSlice p c
    | none => s

/-! ## Debug holds (R385) -/

/-- A cluster runs nothing, or stands at a tile boundary. -/
def Cluster.stands (k : Cluster) : Bool :=
  match k.running.bind k.slot with
  | some x => x.boundary || x.ended || x.prog.isNone
  | none => true

/-- A hold that waits for its cluster takes effect once the cluster stands. -/
def State.settleHold (s : State) : State :=
  if s.dbg.hold ∧ !s.dbg.held ∧ (s.cluster s.dbg.cl.toNat).stands then { s with dbg := { s.dbg with held := true } } else s

/-- A debug hold keeps a cluster of a partition (R384: a pre-emption and a teardown wait for it). -/
def State.dbgKeeps (s : State) (p : Nat) : Bool :=
  s.dbg.held && (s.cluster s.dbg.cl.toNat).owner.toNat == p

/-! ## States of contexts and partitions -/

/-- The state of a context by R320, from its commands and queues. -/
def State.ctxNow (s : State) (c : Nat) (x : Context) : CtxState :=
  match x.state with
  | .faulted => .faulted
  | .teardown => .teardown
  | st =>
    let mine := s.inflight.filter fun k => ctxOf k.src == c
    if mine.any (·.started) then
      if st = .preempted ∧ (mine.any fun k => k.started && sliceBound k.op.toNat)
          ∧ (s.part x.part.toNat).holder ≠ some (BitVec.ofNat 12 c) then .preempted else .running
    else if !mine.isEmpty || x.queues.any fun e => (e.2.map fun q => q.head != q.tail).getD false then .runnable
    else .idle

/-- Bring every bound context's state up to date. -/
def State.settleCtxs (s : State) : State :=
  s.ctxs.foldl (fun t e =>
    let st := t.ctxNow e.1 (t.ctx e.1)
    if e.2.bound ∧ (t.ctx e.1).state ≠ st then t.setCtx e.1 { t.ctx e.1 with state := st } else t) s

/-- PART_STATE.STATE. -/
def PartState.code : PartState → Nat
  | .free => 0
  | .binding => 1
  | .active => 2
  | .draining => 3
  | .resetting => 4
  | .halted => 5

/-- Remove a partition's installed job, its slice's key and its allow-list (R445). -/
def State.removeJob (s : State) (p : Nat) : State :=
  let x := s.part p
  if x.job.isNone ∧ x.shared.isEmpty then s
  else
    let k := (x.slice.map (·.toNat)).getD 64
    (({ s with
      sec := { s.sec with jobs := tput none s.sec.jobs p none }
      frt := { s.frt with keys := tput none s.frt.keys k none, allow := tput [] s.frt.allow k [] } }).setPart p
        { x with job := none, shared := [] })

/-- Change a partition's state (R370, R390). A partition that leaves ACTIVE loses its staging mappings (R310).
Its installed job goes when it enters HALTED, RESETTING or DRAINING (R445). -/
def State.partTo (s : State) (p : Nat) (st : PartState) : State :=
  if (s.part p).state = st then s
  else
    let s := if (s.part p).state = .active then s.unmapStaging fun _ o => o.part.toNat == p else s
    let s := (s.setPart p { s.part p with state := st }).raise .part 0 1 p
    let s := if st = .halted ∨ st = .resetting ∨ st = .draining then s.removeJob p else s
    if st = .halted then s.raise .part 0 2 p else s

end Sys2Proof.Machine
end

