-- ==== Sys2Proof/Machine/Sizes.lean ====
section
/-!
DEFINITION. DEV_SIZES (R22 to R24): the sizes of a partition, of a context and of the device.
-/

namespace Sys2Proof.Machine

/-- The number of set bits of the low n. -/
def popCount (v n : Nat) : Nat := (List.range n).foldl (fun m i => m + b2n (v.testBit i)) 0

/-- The set of quadrants of a list of clusters. -/
def quadMask (l : List Nat) : Nat :=
  (List.range 4).foldl (fun m q => if l.any (fun c => c / 32 == q) then m + 2 ^ q else m) 0

/-- Forme and Galley shares of PART_CTX_SHARE, in units and rows. -/
def shareForme (w : Nat) : Nat := bits w 7 0
def shareRows (w : Nat) : Nat := 128 * (if bits w 20 16 = 0 then 32 else bits w 20 16)

/-- The channels of a partition's extents. -/
def Partition.channels (p : Partition) : Nat := p.extents.foldl (fun n e => n + e.2.length) 0

/-- The Forme share in units and the Galley share in rows of a context, as placed or as its setting gives them. -/
def State.shareOf (s : State) (c : Nat) : Nat × Nat :=
  match (s.ctx c).placed with
  | some x => (x.formeSize / 65536, x.galRows)
  | none => (shareForme (s.ctxShare c), shareRows (s.ctxShare c))

/-- Words 0 to 3 of a partition's DEV_SIZES with the given shares. -/
def State.sizesWith (s : State) (p forme rows : Nat) : List Nat :=
  let x := s.part p
  let cl := s.clustersOf p
  [x.channels * 2 ^ 16 + cl.length * 2 ^ 8 + quadMask cl * 2 ^ 4 + (x.ports.filter fun w => w != 0).length,
   rows * 2 ^ 19 + forme * 2 ^ 8 + popCount x.ways.toNat 16,
   x.channels * 756,
   match x.slice with
   | some k => popCount (s.planAt (((s.sliceOff k.toNat).getD 0) + 16) 128) 1024 * 2 ^ 21 + k.toNat * 2 ^ 15 + s.devNum
   | none => s.devNum]

/-- The largest shares that the settings of a partition's bound contexts give (R22). -/
def State.shareMax (s : State) (p : Nat) : Nat × Nat :=
  let l := (s.ctxs.filter fun e => e.2.bound && e.2.part.toNat == p).map fun e => s.ctxShare e.1
  match l with
  | [] => (16, 512)
  | _ => (l.foldl (fun m w => max m (shareForme w)) 0, l.foldl (fun m w => max m (shareRows w)) 0)

/-- Words 0 to 3 of a partition through a register window, from the partition's present resources. -/
def State.sizesNow (s : State) (p : Nat) : List Nat :=
  let m := s.shareMax p
  s.sizesWith p m.1 m.2

/-- A word of a partition's DEV_SIZES through its function (R22 to R24): as of its last command boundary. -/
def State.partSizes (s : State) (p i : Nat) : Nat :=
  let x := s.part p
  if s.pwr.state = .boot ∨ x.state = .free then 0 else (x.sizes[i]?.getD 0).toNat

/-- A word of DEV_SIZES as tile code of a context reads it (R22, R85): the shares are those that the context holds. -/
def State.ctxSizes (s : State) (c i : Nat) : Nat :=
  let p := (s.ctx c).part.toNat
  if i = 1 then
    let sh := s.shareOf c
    (s.sizesWith p sh.1 sh.2)[1]?.getD 0
  else s.partSizes p i

/-- The clusters of the device in service. -/
def State.inService (s : State) : List Nat := (List.range 128).filter fun c => (s.cluster c).inService

/-- Words 0 to 3 of the device scope (R22). -/
def State.devSizesNow (s : State) : List Nat :=
  let cl := s.inService
  [512 * 2 ^ 16 + cl.length * 2 ^ 8 + quadMask cl * 2 ^ 4 + 8, 4096 * 2 ^ 19 + 128 * 2 ^ 8 + 16, 387072, s.devNum]

/-- A word of DEV_SIZES through PF0. -/
def State.devSizes (s : State) (i : Nat) : Nat :=
  if s.pwr.state = .boot then 0 else if i = 4 then s.sizesGen.toNat else s.devSizesNow[i]?.getD 0

/-- Increment the device's SIZES_GEN where a change has changed a device-scope size (R22). -/
def State.trackSizes (old s : State) : State :=
  if old.devSizesNow = s.devSizesNow then s else { s with sizesGen := s.sizesGen + 1 }

/-- A partition reads its present sizes under a new SIZES_GEN (R22, R23). -/
def State.stampSizes (s : State) (p : Nat) : State :=
  let x := s.part p
  s.setPart p { x with sizesGen := x.sizesGen + 1
                       sizes := (s.sizesNow p).map (BitVec.ofNat 32) ++ [x.sizesGen + 1] }

/-- Where a partition's sizes have changed, it reads the new ones from its next command boundary on; one in BINDING, from the
sequence's end (R23, R24). -/
def State.refreshSizes (s : State) : State :=
  s.parts.foldl (fun (t : State) e =>
    let x := t.part e.1
    if x.state = .free ∨ x.state = .binding ∨ !t.atCommand e.1 ∨ x.sizes.take 4 = (t.sizesNow e.1).map (BitVec.ofNat 32) then t
    else t.stampSizes e.1) s

end Sys2Proof.Machine
end

