-- ==== Sys2Proof/Machine/Cmd.lean ====
section
/-!
DEFINITION. The command processor (chapters 14 and 15): completion records, completion, faults, abandonment, waits and the
checks of R350 that every descriptor passes.
-/

namespace Sys2Proof.Machine

/-! ## Completion records (R353, R355) -/

/-- The 32 bytes of a completion record. -/
def cplRecord (idx size op code : Nat) (fault : Bool) (r0 r1 detail : Nat) : List Byte :=
  leBytes 4 idx ++ leBytes 2 code ++ [BitVec.ofNat 8 (b2n (decide (idx / size % 2 = 0)) + 2 * b2n fault), BitVec.ofNat 8 op]
    ++ leBytes 8 r0 ++ leBytes 8 r1 ++ leBytes 8 detail

/-- A context's queue. -/
def State.queue (s : State) (c q : Nat) : Option Queue := tget none (s.ctx c).queues q

/-- Store a context's queue. -/
def State.setQueue (s : State) (c q : Nat) (x : Option Queue) : State :=
  s.setCtx c { s.ctx c with queues := tput none (s.ctx c).queues q x }

/-- Write a completion record and send the queue's interrupt (R353, R355, R366). -/
def State.putRecord (s : State) (src : QSrc) (idx op code : Nat) (fault : Bool) (r0 r1 detail : Nat) (noIrq : Bool) :
    State :=
  match src with
  | .mgmt m =>
    let x := s.mq m.toNat
    let size := 2 ^ x.log2
    let s := s.hostWrite .record src none (x.cpl.toNat + idx % size * 32) (cplRecord idx size op code fault r0 r1 detail)
    let s := s.setMq m.toNat { x with done := BitVec.ofNat 32 (idx + 1) }
    if x.irq then s.raise .cmdp 0 1 63 else s
  | .ctx c q =>
    match s.queue c.toNat q.toNat with
    | none => s
    | some x =>
      let k := s.ctx c.toNat
      let s := s.hostWrite .record src (some k.pasid) (x.cpl.toNat + idx % x.size * 32)
        (cplRecord idx x.size op code fault r0 r1 detail)
      let s := s.setQueue c.toNat q.toNat (some { x with done := BitVec.ofNat 32 (idx + 1) })
      if x.irq && (!noIrq || fault) then s.msix (fnOf k.part.toNat) x.vector.toNat (some src) else s

/-! ## Fields of a descriptor (R348) -/

/-- The descriptor of a command as a number: byte i is its bits 8i + 7 to 8i. -/
def Cmd.desc (c : Cmd) : Nat := c.d.toNat * 256 + c.op.toNat

/-- SYNC, FSLOT, FVALUE and NO_IRQ. -/
def descSync (d : Nat) : Nat := field d 1 1 % 4
def descSlot (d : Nat) : Nat := field d 2 2
def descValue (d : Nat) : Word64 := BitVec.ofNat 64 (field d 4 4)
def descNoIrq (d : Nat) : Bool := (field d 1 1).testBit 2

/-- A field of a layer entry. -/
def entryAt (e : BitVec 1024) (off len : Nat) : Nat := field e.toNat off len

/-- The WG fences that a layer run has still to signal (R204): those of entries whose WGRAD has not completed. -/
def LayerRun.fencesLeft (r : LayerRun) : List (Nat × Word64) :=
  let one := fun (i : Nat) =>
    match r.entries[i]? with
    | some e =>
      if (entryAt e 10 1).testBit 1 ∧ entryAt e 6 1 ≠ 0xFF then
        some (entryAt e 18 2, BitVec.ofNat 64 (entryAt e 32 8))
      else none
    | none => none
  if !r.bwd then []
  else
    let ahead := (List.range r.entries.length).drop r.next
    let running := match r.run with
      | some (i, .wgrad) => [i]
      | _ => []
    let pend := match r.signal with
      | some i => [i]
      | none => []
    ((ahead ++ r.deferred).map (fun i => i) ++ running ++ pend).filterMap fun i => one (r.entries.length - 1 - i)

/-- The fences that a command was to signal and has not signalled (R340). -/
def Cmd.signals (c : Cmd) : List (Nat × Word64) :=
  let d := c.desc
  (if descSync d = 1 then [(descSlot d, descValue d)] else [])
    ++ (if c.op = 0x43 then [(field d 8 2, BitVec.ofNat 64 (field d 16 8))] else [])
    ++ (match c.stage with
        | .layers r => r.fencesLeft
        | _ => [])

/-- A management queue stops (R524): cause 1 TAIL, 2 ring fetch, 3 completion write. -/
def State.mqStop (s : State) (m cause : Nat) : State :=
  let s := s.setMq m { s.mq m with enable := false, stop := BitVec.ofNat 2 cause }
  (s.errBit .cmdp 0 4 63).raise .cmdp 0 3 63

/-! ## The end of a command -/

/-- Tell every peer of a collective something on VC1 (R162; log entry 22): the code of the first peer that cannot be reached,
and the state with every other peer told. -/
def State.collTell (s : State) (c : Coll) (vc : Nat) (kind : Nat) (payload : List Byte) : Option Nat × State :=
  let me := field c.desc.toNat 38 2
  let ep := ((c.ranks[me]?).map (·.2)).getD 0
  match (s.part (s.partOf c.src)).slice with
  | none => (none, s)
  | some sl =>
    ((List.range c.ranks.length).zip c.ranks).foldl (fun (acc : Option Nat × State) r =>
      if r.1 = me then acc
      else
        let w : InjectIn := { src := c.src, vc := BitVec.ofNat 2 vc, dst := r.2.1, dstEp := r.2.2, srcEp := ep, slice := sl,
                              payload := [] }
        match acc.2.injectAll w 4100 ([BitVec.ofNat 8 kind] ++ leBytes 4 (field c.desc.toNat 48 4) ++ payload) with
        | .inl e => (acc.1.or (some e), acc.2)
        | .inr t => (acc.1, t)) (none, s)

/-- Free bytes: values that the spec leaves undefined. -/
def freeBytes : Nat → Nat → M (List Byte)
  | 0, _ => pure []
  | k + 1, n => do
    let x ← act State.fresh
    let rest ← freeBytes k (n - 1024)
    pure ((leBytes (min n 1024) x.toNat) ++ rest)


/-- Let bytes at a context virtual address hold undefined values, as far as they are mapped. -/
def State.spoil (s : State) (q : QSrc) (va len : Nat) : State :=
  match (do let d ← freeBytes (len / 1024 + 1) len
            vwrite { src := q, env := Env.quiet } .fabric 0x1901 va d : M Unit) s with
  | .ok _ t => t
  | .error _ t => t

/-- The destination and the landing area of a collective hold undefined values. -/
def State.spoilColl (s : State) (c : Coll) : State :=
  let d := c.desc.toNat
  let s := s.spoil c.src (field d 16 8) c.destBytes
  if c.reduces then s.spoil c.src (field d 24 8) (16 * field d 32 4) else s

/-- Release a region (R148, R330). -/
def State.releaseRegion (s : State) (id : Nat) : State :=
  match s.region id with
  | some r => (s.dropHold (r.obj.toNat % 2 ^ 20)).setRegion id none
  | none => s

/-- End a command's collective; a rank that stops aborts every peer that it reaches, and its destination and landing area hold
undefined values (R162), unless the landing region was never opened. -/
def State.dropColl (s : State) (q : QSrc) (tell : Bool) : State :=
  match s.colls.find? fun c => decide (c.src = q) with
  | none => s
  | some c =>
    let s := { s with colls := s.colls.filter fun c => !decide (c.src = q) }
    let s := match c.region with
      | some r => s.releaseRegion r
      | none => s
    if tell then
      let s := if c.opt.isSome || (c.reduces && c.region.isNone) then s else s.spoilColl c
      (s.collTell c 1 3 []).2
    else s

/-- A command that has left waits for no teardown. -/
def State.dropWaiter (s : State) (q : QSrc) : State :=
  s.ctxs.foldl (fun (t : State) e =>
    if e.2.tdWait.contains q then t.setCtx e.1 { t.ctx e.1 with tdWait := (t.ctx e.1).tdWait.filter (· != q) } else t) s

/-- Take a command out of flight: its holds are released and a transient context's shares with them (R330, R380). -/
def State.retire (s : State) (q : QSrc) : State :=
  match s.cmdOf q with
  | none => s
  | some c =>
    let s := if c.stage = .teardown then s.dropWaiter q else s
    let s := c.holds.foldl (fun (t : State) h => t.dropHold (h.toNat % 2 ^ 20)) s
    let s := { s with inflight := s.inflight.filter fun k => !decide (k.src = q) }
    if usesClusters c.op.toNat then s.unplaceTransient (ctxOf q) else s

/-- Put a context into FAULTED (R320, R321): its code and position; CTX_FAULTED is raised. -/
def State.faultCtx (s : State) (c code : Nat) (pos : Option (BitVec 4 × Word32)) : State :=
  let x := s.ctx c
  if x.state = .teardown ∨ !x.bound then s
  else
    (s.setCtx c { x with state := .faulted, code := BitVec.ofNat 16 code,
                         faultQ := (pos.map (·.1)).getD x.faultQ, faultIx := (pos.map (·.2)).getD x.faultIx }).raise
      .cmdp 0 2 x.part.toNat

/-- Change the captured passes of every Proof unit. -/
def State.onCaptures (s : State) (f : List Capture → List Capture) : State :=
  (List.range 4).foldl (fun (t : State) q => t.setUnit q { t.unit q with queue := f (t.unit q).queue }) s

/-- The checks of a command that has ended in a fault fault no command (R282). -/
def State.voidChecks (s : State) (c : Cmd) : State :=
  s.onCaptures fun l => l.map fun k =>
    if k.ctx.toNat = ctxOf c.src ∧ k.cmd = c.seq ∧ !isMgmt c.src then { k with void := true } else k

/-! ## Maxima of a command (R133, R137) -/

/-- The larger of two FP32 magnitudes. -/
def maxF (a b : Word32) : Word32 := if (f32 a).lt (f32 b) then b else a

/-- The tensors of a context: number and entry. -/
def State.tensorsOf (s : State) (c : Nat) : List (Nat × Tensor) :=
  s.tensors.filterMap fun e => if e.1 / 16384 = c then e.2.map fun t => (e.1 % 16384, t) else none

/-- Change every tensor of a context. -/
def State.mapTensors (s : State) (c : Nat) (f : Tensor → Tensor) : State :=
  (s.tensorsOf c).foldl (fun u e => u.setTensor c e.1 (some (f e.2))) s

/-- The maxima of a command that has ended count toward the step; its overflow marks are gone. -/
def State.settleMax (s : State) (c : Nat) : State :=
  s.mapTensors c fun t => { t with stepMax := maxF t.stepMax t.runMax, runMax := 0, marked := false, cmdRuns := 0 }

/-- Stop the tile programs of a command that runs on clusters (R66). What it has reported counts toward the step, and its
overflow marks are gone (R133, R137). -/
def State.stopCmd (s : State) (q : QSrc) (c : Cmd) : State :=
  if usesClusters c.op.toNat && c.started then ((s.stopTiles (ctxOf q)).voidChecks c).settleMax (ctxOf q) else s

/-- Abandon a command (R66, R321, R342): its tile programs stop, its collective aborts, its holds are released; with `record` it
completes with 0x1A0E. -/
def State.abandon (s : State) (q : QSrc) (record : Bool) : State :=
  match s.cmdOf q with
  | none => s
  | some c =>
    let s := if record then s.putRecord q c.index.toNat c.op.toNat 0x1A0E true 0 0 0 (descNoIrq c.desc) else s
    ((s.stopCmd q c).dropColl q true).retire q

/-- Break the fences that a command was to signal and has not signalled (R340). -/
def State.breakAll (s : State) (c : Cmd) (code : Nat) : State :=
  c.signals.foldl (fun (t : State) f => t.breakFence c.src f.1 f.2 code) s

/-- Abandon commands, then break their fences with a code (R321, steps 2 and 3). -/
def State.abandonAll (s : State) (l : List QSrc) (code : Nat) (record : Bool) : State :=
  let cs := l.filterMap s.cmdOf
  cs.foldl (fun (t : State) c => t.breakAll c code) (l.foldl (fun (t : State) x => t.abandon x record) s)

/-- Every command in flight of a context, in order. -/
def State.ctxCmds (s : State) (c : Nat) : List QSrc := (s.inflight.filter fun k => ctxOf k.src == c).map (·.src)

/-- Fail a command (R321): its record and the context's state, the abandonment of the context's other commands, then the fences
of all. A command that faults at checks 1 to 3 breaks none (`breaks`). A management queue goes on (R515). In TEARDOWN the
command is abandoned without a record (R342, step 2). A STEP_MARK that ends with 0x1507 has raised the count, which its
record gives (R354, R359). -/
def State.fail (s : State) (q : QSrc) (code detail inst : Nat) (breaks : Bool := true) : State :=
  match s.cmdOf q with
  | none => s
  | some c =>
    let s := s.markCode code inst (s.partOf q)
    let r0 := if c.op = 0x51 ∧ code = 0x1507 then (s.ctx (ctxOf q)).steps.toNat else 0
    let put := fun (t : State) => t.putRecord q c.index.toNat c.op.toNat code true r0 0 detail (descNoIrq c.desc)
    let own := fun (t : State) => if breaks then t.breakAll c code else t
    match q with
    | .mgmt _ => (put s).retire q
    | .ctx k n =>
      if (s.ctx k.toNat).state = .teardown then own (s.abandon q false)
      else
        let s := (put s).faultCtx k.toNat code (some (n, c.index))
        let others := (s.ctxCmds k.toNat).filter fun x => !decide (x = q)
        let lost := others.filterMap s.cmdOf
        let s := others.foldl (fun (t : State) x => t.abandon x true) (((s.stopCmd q c).dropColl q true).retire q)
        lost.foldl (fun (t : State) x => t.breakAll x 0x1A0E) (own s)

/-- A write of a command to device memory waits at the egress gate (R261, R356). -/
def State.memBusy (s : State) (q : QSrc) : Bool :=
  s.egress.any fun e => e.2.any fun x => decide (x.src = some q) && match x.ev with
    | .memWrite _ _ _ _ _ _ => true
    | _ => false

/-- The completion of a command writes host memory that its TDI in ERROR denies: the mirror of its fence (R314, R523). -/
def State.mirrorDenied (s : State) (q : QSrc) : Bool :=
  !isMgmt q && decide (s.tdi (s.partOf q) = .error)

/-- Complete a command with code 0 or a status (R349, R353, R358): its fence, its record, its interrupt. -/
def State.complete (s : State) (q : QSrc) (code r0 r1 detail : Nat) : State :=
  match s.cmdOf q with
  | none => s
  | some c =>
    let d := c.desc
    let sig := decide (descSync d = 1) && code != 0x1A10
    if sig && s.mirrorDenied q then s.fail q 0x1805 0 0
    else
      let s := if sig then s.signal q (descSlot d) (descValue d) else s
      let s := s.putRecord q c.index.toNat c.op.toNat code false r0 r1 detail (descNoIrq d)
      let s := s.retire q
      -- a QUEUE_DELETE may delete the queue that held it (R326)
      if c.op = 0xC2 then s.setQueue (field d 8 2) (field d 10 1) none else s

/-- Complete a command once every write that it made to device memory has reached its controller (R356, R357; log entry 186). -/
def State.finish (s : State) (q : QSrc) (code r0 r1 detail : Nat) : State :=
  if s.memBusy q then s.setCmd q fun c => { c with stage := .storing code r0 r1 detail } else s.complete q code r0 r1 detail

/-- Complete the commands whose last write to device memory has left the egress gate. -/
def State.finishStored (s : State) : State :=
  s.inflight.foldl (fun (t : State) c =>
    match c.stage with
    | .storing code r0 r1 detail => if t.memBusy c.src then t else t.complete c.src code r0 r1 detail
    | _ => t) s

/-- A context faults without a command of its own (R323, R325): every fetched command is abandoned. A context that is FAULTED
keeps its code. -/
def State.failCtx (s : State) (c code : Nat) : State :=
  if (s.ctx c).bound ∧ (s.ctx c).state ≠ .faulted then
    let s := s.faultCtx c code none
    s.abandonAll (s.ctxCmds c) 0x1A0E true
  else s

/-- A partition enters HALTED (R370, R378). In BINDING it does so when the sequence completes. -/
def State.partHalt (s : State) (p : Nat) : State :=
  match (s.part p).state with
  | .binding => s.setPart p { s.part p with haltDue := true }
  | .active =>
    let s := s.partTo p .halted
    let mine := (s.ctxs.filter fun e => e.2.bound && e.2.part.toNat == p).map (·.1)
    let s := mine.foldl (fun (t : State) c =>
      (t.abandonAll (t.ctxCmds c) 0x1B02 false).faultCtx c 0x1B02 none) s
    s.markCode 0x1B02 0 p
  | _ => s

/-! ## Waits (R338) -/

/-- The fence that a command in flight waits for, if it waits (R338, R203). -/
def Cmd.waitsOn (c : Cmd) : Option (Nat × Word64) :=
  let d := c.desc
  match c.stage with
  | .syncWait => some (descSlot d, descValue d)
  | .fenceWait => some (field d 8 2, BitVec.ofNat 64 (field d 16 8))
  | .layers r =>
    if r.bwd ∧ r.run.isNone ∧ r.recompOf.isNone ∧ r.deferred.isEmpty ∧ r.signal.isNone ∧ r.next < r.entries.length then
      match r.entries[r.entries.length - 1 - r.next]? with
      | some e =>
        if (entryAt e 10 1).testBit 0 ∧ entryAt e 5 1 ≠ 0xFF then
          some (entryAt e 16 2, BitVec.ofNat 64 (entryAt e 24 8))
        else none
      | none => none
    else none
  | _ => none

/-- Wake the waiters whose wait has ended, one at a time in the order of their fetch. -/
def State.wake : Nat → State → State
  | 0, s => s
  | k + 1, s =>
    let due := s.inflight.findSome? fun c =>
      match c.waitsOn with
      | none => none
      | some (slot, v) =>
        match s.waitEnd slot v, c.stage with
        | none, _ => none
        | some 0, .layers _ => none
        | some n, _ => some (c, n)
    match due with
    | none => s
    | some (c, n) =>
      if n ≠ 0 then (s.fail c.src n 0 0).wake k
      else
        match c.stage with
        | .fenceWait => (s.finish c.src 0 0 0 0).wake k
        | _ => (s.setCmd c.src fun x => { x with stage := .ready }).wake k

/-- Commands of this device whose packet the step discarded fault with 0x2901 (R411). -/
def State.failLost (s : State) : State :=
  let l := s.frt.lost
  let s := { s with frt := { s.frt with lost := [] } }
  l.foldl (fun (t : State) q => t.fail q 0x2901 0 0) s

end Sys2Proof.Machine
end

