-- ==== Sys2Proof/Machine/CtxOps.lean ====
section
/-!
DEFINITION. Shared operations on contexts and objects: freeing an object and retiring its KeyID (R270, R331), discarding a
stash (R207), and the teardown and reset sequences (R342, R343).
-/

namespace Sys2Proof.Machine

/-- Begin the retirement of a KeyID (R270, points 1 and 2). -/
def State.retireKid (s : State) (kid : BitVec 16) (idx : Option Nat) : State :=
  let s := s.setKid kid.toNat { s.kid kid.toNat with state := .retiring }
  { s.caseKeep (fun _ c => c.kid != kid) with retiring := s.retiring ++ [(kid, idx)] }

/-- Free an object whose hold count is zero (R331): a host object at once, a device object with its KeyID's retirement. -/
def State.freeNow (s : State) (i : Nat) (o : Obj) : State :=
  if o.host then s.setObj i none
  else (s.setObj i (some { o with retiring := true, freeing := true })).retireKid o.kid (some i)

/-- Free an object as by OBJ_FREE: a held one becomes RETIRING. -/
def State.freeObj (s : State) (i : Nat) : State :=
  match s.obj i with
  | none => s
  | some o =>
    if o.retiring then s
    else if o.holds = 0 then s.freeNow i o
    else s.setObj i (some { o with retiring := true })

/-- Discard a context's stash (R207). -/
def State.dropStash (s : State) (c : Nat) : State :=
  match (s.ctx c).stash with
  | none => s
  | some h => (s.dropHold (h.obj.toNat % 2 ^ 20)).setCtx c { s.ctx c with stash := none }

/-- Release the XW128 regions of a context (R148). -/
def State.dropRegions (s : State) (c : Nat) : State :=
  s.regions.foldl (fun (t : State) e =>
    match e.2 with
    | some r => if r.ctx.toNat = c then t.releaseRegion e.1 else t
    | none => t) s

/-- Free the scale entries of a context (R132). -/
def State.dropScales (s : State) (c : Nat) : State :=
  { s with tensors := s.tensors.filter fun e => e.1 / 16384 != c
           layers := s.layers.filter fun e => e.1 / 4096 != c }

/-- Remove a context's rights on the fences of other owners. -/
def State.dropGrants (s : State) (c : Nat) : State :=
  s.fences.foldl (fun (t : State) e =>
    match e.2 with
    | some f => t.setFence e.1 (some { f with grants := f.grants.filter fun g => g.ctx.toNat != c })
    | none => t) s

/-- A teardown that may have waited for a collective phase of the context that holds the slice: the phase's work is overrun and
run time of it, and no row gives its length, which is a free value (R384; log entry 185). -/
def State.unitOverrun (s : State) (c : Nat) : State :=
  let h := BitVec.ofNat 12 c
  let p := (s.ctx c).part.toNat
  if (s.part p).holder = some h ∧ (s.inflight.any fun k => ctxOf k.src == c && decide (k.stage = .coll)) then
    let x := s.fresh
    let us := x.1.toNat % 251
    let t := x.2.charge p h us
    let k := t.ctx c
    if t.accounted p then t.setCtx c { k with overrun := k.overrun + us, owed := k.owed + us } else t
  else s

/-- Steps 2 to 6 of R342, or of R343 for a reset, once every program has reached its tile boundary: the commands are abandoned
without a record. -/
def State.tearDo (s : State) (c : Nat) (reset : Bool) : State :=
  let x := s.ctx c
  let s := s.unitOverrun c
  let s := (s.ctxCmds c).foldl (fun (t : State) q => t.abandon q false) s
  -- step 3
  let s := if reset then s
    else
      let s := x.ranges.foldl (fun (t : State) r => t.dropHold (r.handle.toNat % 2 ^ 20)) s
      (s.setCtx c { s.ctx c with ranges := [] }).unmapStaging fun _ o => o.owner.toNat == c
  -- step 4
  let s := (s.dropStash c).dropRegions c
  let owned := (s.objs.filter fun e => (e.2.map fun o => o.owner.toNat == c).getD false).map (·.1)
  let s := if reset then s else owned.foldl (fun (t : State) i => t.freeObj i) s
  let s := { s.dropScales c with ckpts := s.ckpts.filter fun k => k.ctx.toNat != c }
  let s := s.dropGrants c
  -- step 5
  let mine := (s.fences.filter fun e => (e.2.map fun f => f.owner.toNat == c).getD false).map (·.1)
  let s := mine.foldl (fun (t : State) i => t.freeFence none i) s
  let s := (s.wake (2 * s.inflight.length + 1)).sweepFences none
  let s := if reset then s
    else s.onCaptures fun l => l.map fun k => if k.ctx.toNat = c then { k with void := true, gone := true } else k
  -- step 6
  let waiters := (s.ctx c).tdWait
  let s :=
    if reset then
      let y := s.ctx c
      s.setCtx c { y with
        state := .idle, code := 0, faultQ := 0, faultIx := 0, denseTo := none, tdWait := [], tdReset := false
        queues := y.queues.map fun e => (e.1, e.2.map fun q => { q with head := q.tail }) }
    else (s.unplace c).setCtx c Context.reset
  waiters.foldl (fun (t : State) q => t.finish q 0 0 0 0) s

/-- A debug hold keeps a cluster on which a context runs (R384). -/
def State.heldCtx (s : State) (c : Nat) : Bool :=
  let k := s.cluster s.dbg.cl.toNat
  s.dbg.held && match k.running.bind k.slot with
    | some x => x.ctx.toNat == c
    | none => false

/-- Complete the teardown of a context whose programs have all reached a tile boundary, and which no debug hold keeps. -/
def State.tearAdvance (s : State) (c : Nat) : State :=
  if (s.ctx c).state = .teardown ∧ s.atBoundary c ∧ !s.heldCtx c then s.tearDo c (s.ctx c).tdReset else s

/-- Begin a teardown or reset of a bound context (R342, step 1; R344). -/
def State.tearStart (s : State) (c : Nat) (reset : Bool) (q : Option QSrc) : State :=
  let x := s.ctx c
  if !x.bound then s
  else if x.state = .teardown then s.setCtx c { x with tdWait := x.tdWait ++ q.toList }
  else (s.setCtx c { x with state := .teardown, code := 0, tdReset := reset, tdWait := q.toList }).tearAdvance c

end Sys2Proof.Machine
end

