-- ==== Sys2Proof/Machine/Issue.lean ====
section
/-!
DEFINITION. What follows every step of a command, how the meaning of a command runs, and the checks of R350 that every
descriptor passes (chapters 15 and 16).
-/

namespace Sys2Proof.Machine

/-- What follows every step of a command: lost packets, stored writes, a debug hold, teardowns that may end, woken waits, freed
fences, slices, sizes, context states and register fields that waited for a verification. -/
def State.settle (s : State) : State :=
  let s := s.failLost
  let s := s.finishStored.settleHold.unplaceIdle
  let s := s.ctxs.foldl (fun (t : State) e => t.tearAdvance e.1) s
  let s := s.wake (2 * s.inflight.length + 1)
  let s := s.sweepFences none
  let s := s.parts.foldl (fun (t : State) e =>
    if e.2.holder.isSome || !e.2.queueing.isEmpty || !(t.newReady e.1).isEmpty then t.reslice e.1 else t) s
  s.refreshSizes.settleCtxs.lateDone

/-! ## Running the meaning of a command -/

/-- What a command's body answers: it has completed, with a status and its results, or it goes on in a stage. -/
inductive Fin where
  | done (code r0 r1 detail : Nat)
  | runs (stage : CmdStage)
  deriving DecidableEq, Repr

/-- Plain completion. -/
def ok : M Fin := pure (.done 0 0 0 0)

/-- Completion with results. -/
def okWith (r0 r1 : Nat) : M Fin := pure (.done 0 r0 r1 0)

/-- Run a computation for a command: `keep` stays when it has to wait. -/
def State.runFor (s keep : State) (q : QSrc) (body : M Fin) : State :=
  match body s with
  | .ok (.done code r0 r1 detail) t => t.finish q code r0 r1 detail
  | .ok (.runs st) t => t.setCmd q fun c => { c with stage := st }
  | .error .hold _ => keep
  | .error (.fault code detail inst) t => t.fail q code detail inst
  | .error (.halt h) t => t.sealHaltNow h
  | .error (.part p) t => t.partHalt p

/-- A row's description. -/
structure Row where
  op     : Nat
  issuer : Nat → Bool → Bool → Bool   -- descriptor, from a management queue, from an ADMIN context
  fields : Nat → Bool                 -- check 2 on the body: reserved bits are zero, ranges hold
  body   : CmdIn → Nat → M Fin        -- the command, its descriptor as a number

/-- Every byte from 8 on that the list of (offset, length) does not name is zero. -/
def bodyOnly (d : Nat) (l : List (Nat × Nat)) : Bool :=
  (List.range 56).all fun i => l.any (fun r => decide (r.1 ≤ i + 8) && decide (i + 8 < r.1 + r.2)) || field d (i + 8) 1 == 0

/-- Issuers of R351: any context; A; M; any context or M. -/
def fromC (_ : Nat) (mgmt _admin : Bool) : Bool := !mgmt
def fromA (_ : Nat) (mgmt admin : Bool) : Bool := mgmt || admin
def fromM (_ : Nat) (mgmt _admin : Bool) : Bool := mgmt
def fromCM (_ : Nat) (_mgmt _admin : Bool) : Bool := true

/-- The device dispatches commands: SERVICE or EVACUATE, no SLUMBER entry, and PWR_OK high (R455, R466, R469). -/
def State.dispatches (s : State) : Bool :=
  (decide (s.pwr.state = .service) || decide (s.pwr.state = .evacuate)) && !s.pwr.slumWait && !s.pwr.offHold

/-- The commands of a context may be dispatched (R312, R314, R320, R370). -/
def State.ctxDispatches (s : State) (c : Nat) : Bool :=
  let x := s.ctx c
  x.alive && decide ((s.part x.part.toNat).state = .active) && decide (s.tdi x.part.toNat = .run)
    && (!s.confidential || s.ideSecure)

/-- The commands of a queue may be dispatched. -/
def State.srcDispatches (s : State) (q : QSrc) : Bool :=
  s.dispatches && (isMgmt q || s.ctxDispatches (ctxOf q))

/-- A ring read through the HIF cache, where that is in use: the descriptor's line is read as it stands, and is not kept (R304,
R305; log entry 190). -/
def State.ringRead (s : State) (pasid : Option (BitVec 20)) (addr : Nat) : State :=
  if s.cacheUsed then s.say (.cacheReq .rdCurr (hostSpace pasid * 2 ^ 64 + addr % 2 ^ 64) none) else s

/-- Fetch from a queue (R325): the ring index, and the state with HEAD advanced; none when nothing can be fetched. -/
def State.fetch (s : State) (q : QSrc) : Option (Word32 × State) :=
  if !(s.srcDispatches q && s.hif.up) then none
  else
    match q with
    | .mgmt m =>
      let x := s.mq m.toNat
      if x.enable ∧ x.head ≠ x.tail then
        some (x.head, (s.setMq m.toNat { x with head := x.head + 1 }).ringRead none
          (x.ring.toNat + x.head.toNat % 2 ^ x.log2 * 64))
      else none
    | .ctx c n =>
      match s.queue c.toNat n.toNat with
      | none => none
      | some x =>
        if x.head ≠ x.tail then
          some (x.head, (s.setQueue c.toNat n.toNat (some { x with head := x.head + 1 })).ringRead (some (s.ctx c.toNat).pasid)
            (x.ring.toNat + x.head.toNat % x.size * 64))
        else none

/-- A removal from the partition is due at its next command boundary (R287, R379). -/
def State.removalDue (s : State) (p : Nat) : Bool :=
  s.clusters.any fun e => e.2.owner.toNat == p && e.2.inService &&
    (decide (e.2.health = .confirmed) ||
      (e.2.laggard && (s.reg 0 .part 0 0x10 0).testBit 0 && decide (1 < (s.clustersOf p).length)))

/-- Join the contexts that wait for a slice. -/
def State.joinSlice (s : State) (p c : Nat) : State :=
  let x := s.part p
  let b := BitVec.ofNat 12 c
  if x.holder = some b ∨ x.queueing.contains b then s else s.setPart p { x with queueing := x.queueing ++ [b] }

/-- The contexts for which a command is serialising (R133): its own and, of a SCALE_DECLARE and a QUEUE_DELETE, the context
that it names (R326; log entry 187). -/
def serialCtxs (src : QSrc) (op d : Nat) : List Nat :=
  if !serialOp op then []
  else
    (if isMgmt src then [] else [ctxOf src]) ++
      (match op with
       | 0x61 => [field d 18 2]
       | 0xC2 => [field d 8 2]
       | _ => [])

/-- A command is serialising for a context. -/
def Cmd.serialFor (k : Cmd) (c : Nat) : Bool := (serialCtxs k.src k.op.toNat k.desc).contains c

/-- Order within a context (R133): a serialising command waits for every dispatched command of its contexts, and no command of a
context is dispatched while a serialising one runs or, fetched before it, awaits dispatch. -/
def State.orderHolds (s : State) (q : QSrc) (op d : Nat) : Bool :=
  let others := s.inflight.filter fun k => !decide (k.src = q)
  let before := s.inflight.takeWhile fun k => !decide (k.src = q)
  let mine := serialCtxs q op d
  (others.any fun k => k.started && !isMgmt k.src && mine.contains (ctxOf k.src)) ||
    (!isMgmt q && (others.any (fun k => k.started && k.serialFor (ctxOf q)) ||
      before.any fun k => decide (k.stage = .ready) && k.serialFor (ctxOf q)))

/-- The slice that a command needs: its context joins those that wait for it, and takes it where nobody holds it (R382). -/
def State.sliceFor (s : State) (op p c : Nat) : State :=
  if sliceBound op then
    let t := s.joinSlice p c
    if (t.part p).holder.isNone then t.giveSlice p (BitVec.ofNat 12 c) else t
  else s

/-- The command's context holds the slice, where the command needs it. -/
def State.hasSlice (s : State) (op p c : Nat) : Bool :=
  !sliceBound op || decide ((s.part p).holder = some (BitVec.ofNat 12 c))

/-- The command is counted as dispatched (R363), and numbered. -/
def State.countSent (s : State) (q : QSrc) (p : Nat) : State :=
  let n := tget 0 s.sent 64
  State.setCmd { s with sent := tput 0 (tput 0 s.sent 64 (n + 1)) p (tget 0 s.sent p + 1) } q fun k => { k with seq := n }

/-- Nothing holds a command's dispatch back (R133, R287, R379). -/
def State.mayDispatch (s : State) (op d : Nat) (q : QSrc) : Bool :=
  s.srcDispatches q && s.gateRoom && !s.orderHolds q op d && !(usesClusters op && s.removalDue (s.partOf q))

/-- Check 6 and the command's own effect; a command that must wait stays ready. -/
def State.dispatch (s : State) (r : Row) (q : CmdIn) : State :=
  let c := ctxOf q.src
  let p := s.partOf q.src
  if !s.mayDispatch r.op (q.d.toNat * 256 + r.op) q.src then s
  else
    let t := s.sliceFor r.op p c
    if !t.hasSlice r.op p c then t
    else (t.countSent q.src p).runFor t q.src (r.body q (q.d.toNat * 256 + r.op))

/-- The form of a descriptor's flags, FSLOT and FVALUE (R348). -/
def syncForm (d : Nat) (mgmt : Bool) : Bool :=
  decide (descSync d < 3) && decide (field d 1 1 < 8) && (descSync d != 0 || (descSlot d == 0 && descValue d == 0))
    && !(mgmt && descSync d != 0)

/-- What check 4 of R350 answers for a command's own fence: 0, or its fault. -/
def State.syncUse (s : State) (q : QSrc) (d : Nat) : Nat :=
  if descSync d = 0 then 0 else s.fenceUse (ctxOf q) (descSlot d) (descValue d) (decide (descSync d = 2))

/-- Checks 2 to 5 of R350 on a command just fetched. -/
def State.check (s : State) (r : Row) (q : CmdIn) : State :=
  let d := q.d.toNat * 256 + r.op
  let mgmt := isMgmt q.src
  if !syncForm d mgmt || !r.fields d then s.fail q.src 0x1A61 0 0 false
  else if !r.issuer d mgmt (s.ctx (ctxOf q.src)).admin then s.fail q.src 0x1A62 0 0 false
  else if s.syncUse q.src d ≠ 0 then s.fail q.src (s.syncUse q.src d) 0 0
  else if descSync d = 2 then
    match s.waitEnd (descSlot d) (descValue d) with
    | none => s.setCmd q.src fun k => { k with stage := .syncWait }
    | some 0 => s.dispatch r q
    | some n => s.fail q.src n 0 0
  else s.dispatch r q

/-- A command as it is fetched. -/
def fetchedCmd (q : CmdIn) (op : Nat) (idx : Word32) : Cmd where
  src := q.src
  index := idx
  op := BitVec.ofNat 8 op
  d := q.d
  seq := 0
  stage := .ready
  holds := []
  left := []
  reruns := 0
  fellBack := false

/-- A descriptor row: the command at the head of its queue is fetched and checked; one that waits for dispatch is presented
again. Where nothing can be fetched the device waits. -/
def State.present (s : State) (r : Row) (q : CmdIn) : State :=
  match s.cmdOf q.src with
  | some c => if c.stage = .ready ∧ c.op.toNat = r.op ∧ c.d = q.d then s.dispatch r q else s
  | none =>
    if s.memBusy q.src then s else
    match s.fetch q.src with
    | none => s
    | some (idx, t) => State.check { t with inflight := t.inflight ++ [fetchedCmd q r.op idx] } r q

/-- The meaning of a descriptor row. -/
def descriptor (r : Row) (q : CmdIn) (s : State) : Host.Outcome State Fault Refusal :=
  .next (s.present r q).settle

/-- The meaning of a step that works for a command in flight: where it must wait, nothing changes. It waits while a gate buffer is
full (R263). -/
def forCommand (q : QSrc) (body : M Fin) (s : State) : Host.Outcome State Fault Refusal :=
  if s.gateRoom then .next (s.runFor s q body).settle else .next s

end Sys2Proof.Machine
end

