-- ==== Sys2Proof/Machine/Health.lean ====
section
/-!
DEFINITION. Findings, cluster health, the replacement flag, detection events and the checkpoints they revoke (chapters 8, 12,
20).
-/

namespace Sys2Proof.Machine

/-- A cluster's health state in PRF_CL_HEALTH. -/
def Health.code : Health → Nat
  | .normal => 0
  | .suspect => 1
  | .confirmed => 2

/-- PRF_CTRL of the device. -/
def State.prfCtrl (s : State) : Nat := s.reg 0 .prf 0 0x10 0x1080A8

/-- The payload of a HEALTH record of a quadrant (R480; log entry 23). -/
def State.healthPayload (s : State) (q : Nat) : List Byte :=
  ((List.range 32).flatMap fun i =>
    let c := s.cluster (q * 32 + i)
    [BitVec.ofNat 8 c.health.code, c.findings] ++ leBytes 4 (if c.hours = 0xFFFF then 0xFFFFFFFF else s.mgt.hours - c.hours.toNat))
    ++ [BitVec.ofNat 8 (b2n s.mgt.replace),
        BitVec.ofNat 8 ((List.range 4).foldl (fun m u => if (s.unit u).online then m else m + 2 ^ u) 0)]
    ++ leBytes 4 s.sec.epoch

/-- Journal the health of a quadrant. -/
def State.journalHealth (s : State) (q : Nat) : State := s.journal .health q (s.healthPayload q)

/-- Burn a bit of the health epoch, outside MANUFACTURE and RETURN (R487). -/
def State.burnEpoch (s : State) : State :=
  if s.lifecycle = 1 ∨ s.lifecycle = 4 then s
  else { s with sec := { s.sec with epoch := min 32 (s.sec.epoch + 1) } }

/-- Enter EVACUATE from SERVICE (R287, R455); another state keeps the flag for later. -/
def State.evacuate (s : State) : State :=
  if s.pwr.state = .service then { s with pwr := { s.pwr with state := .evacuate } } else s

/-- Set REPLACE (R285, R287, R487) and enter EVACUATE. -/
def State.setReplace (s : State) : State :=
  let t := if s.mgt.replace then s
    else
      let t := { s with mgt := { s.mgt with replace := true } }.burnEpoch
      let t := (List.range 4).foldl (fun (u : State) q => u.journalHealth q) t
      State.maintRise s t
  t.evacuate

/-- A finding against a cluster (R286). -/
def State.finding (s : State) (cl kind ctx part id : Nat) : State :=
  let k := s.cluster cl
  let span := max 1 (bits s.prfCtrl 7 0)
  let ns : Health := match k.health with
    | .normal => if k.hours.toNat < span then .confirmed else .suspect
    | _ => .confirmed
  let s := s.setCluster cl { k with health := ns, hours := 0, sampled := 0,
                                    findings := BitVec.ofNat 8 (min 255 (k.findings.toNat + 1)) }
  let s := { s with prfLast := { kind := BitVec.ofNat 2 kind, cl := BitVec.ofNat 7 cl, ctx := BitVec.ofNat 12 ctx,
                                 part := BitVec.ofNat 6 part, id := BitVec.ofNat 64 id } }
  let s := s.event evFinding kind (cl * 2 ^ 32 + ctx)
  let s := if ns = .suspect ∧ k.health ≠ .suspect then s.raise .prf (cl / 32) 3 63 else s
  let s := s.journalHealth (cl / 32)
  if ns = .confirmed ∧ k.health ≠ .confirmed then
    ((s.errBit .prf (cl / 32) 3 63).raise .prf (cl / 32) 4 63).setReplace
  else s

/-- Write bytes at a context virtual address through the egress gate (R190, R195, R261): to host memory on the CXL path, to
device memory on its quadrant's path. -/
def egressPut (v : Via) (a : Agent) (va : Nat) (d : List Byte) : M Unit :=
  (pieces va d.length).forM fun p => do
    let (o, off) ← xlate v 0x1901 p.1 true
    let b := (d.drop (p.1 - va)).take p.2
    if o.host then
      let c ← look (·.ctx (ctxOf v.src))
      hostPut v (some c.pasid) (o.base + off) b
    else
      match ← look (·.objLoc o off) with
      | none => flt 0x1A02
      | some (ch, line, at') =>
        keyCheck o.kid.toNat o.part.toNat a (ch / 16)
        upd (·.emit (if o.staging then 2 else 11 + ch / 128) false (some v.src)
          (.memWrite o.staging (lidOf ch line) o.kid o.part (lineMask at' b.length) (lineAt at' b)))

/-- The promotion key's seed (R433). -/
def State.promoSeed (s : State) : List Byte :=
  shakeBytes 57 (ascii [0x49, 0x4C, 0x39, 0x20, 0x70, 0x72, 0x6F, 0x6D, 0x6F, 0x74, 0x65] ++ s.dusBytes)

/-- A promotion record (R195): STATE 1 PROMOTED or 2 REVOKED. -/
def State.promoRecord (s : State) (k : Ckpt) (st : Nat) (decided : Nat) : List Byte :=
  let head := leBytes 4 0x50394C49 ++ leBytes 2 1 ++ [BitVec.ofNat 8 st, BitVec.ofNat 8 k.h] ++ leBytes 4 k.id.toNat
    ++ leBytes 4 0 ++ leBytes 8 k.step ++ leBytes 8 decided ++ leBytes 64 k.digest.toNat ++ leBytes 8 Config.serial.toNat
    ++ List.replicate 24 0
  head ++ slice (Config.ed448Sign s.promoSeed head) 0 114 ++ List.replicate 14 0

/-- Decide a checkpoint (R194, R195): its record is written where its address is still mapped. The context's queue 0 stands
for the command that formed it. -/
def State.decideCkpt (s : State) (k : Ckpt) (st : Nat) : State :=
  let v : Via := { src := .ctx k.ctx 0, env := Env.quiet }
  match egressPut v .ckpt k.recVa.toNat (s.promoRecord k st (s.ctx k.ctx.toNat).steps.toNat) s with
  | .ok _ t => t
  | .error _ _ => s

/-- Revoke every PROVISIONAL checkpoint of a job (R194). The job is that of the partition (log entry 24). -/
def State.revoke (s : State) (part : Nat) : State :=
  let mine := s.ckpts.filter fun k => (s.ctx k.ctx.toNat).part.toNat == part
  let s := { s with ckpts := s.ckpts.filter fun k => (s.ctx k.ctx.toNat).part.toNat != part }
  mine.foldl (fun (t : State) k => t.decideCkpt k 2) s

/-- A detection event in a job (R289): counted, and its checkpoints are revoked. -/
def State.detect (s : State) (part : Nat) : State :=
  let s := s.bump64 0 .prf 0 0x80 1
  let s := if part < 63 then
      (s.bump64 (part + 1) .prf 0 0x80 1).setPart part { s.part part with event := true }
    else s
  s.revoke part

/-- What a residue fault brings beside the fault itself (R278, R289): a finding against the cluster, a detection event. -/
def State.residue (s : State) (cl ctx : Nat) : State :=
  let p := (s.ctx ctx).part.toNat
  (s.finding cl 1 ctx p 0).detect p

end Sys2Proof.Machine
end

