-- ==== Sys2Proof/Machine/Operands.lean ====
section
/-!
DEFINITION. Operands of tile code (chapters 3 and 4): when a cluster issues, the registers of a slot, addresses in its Forme
share, unused fields, faults of an instruction and its retirement.
-/

namespace Sys2Proof.Machine

/-! ## Issue -/

/-- Where an instruction runs: cluster, slot, context and the queue of its command. -/
structure TileAt where
  cl  : Nat
  n   : Nat
  ctx : Nat
  src : QSrc
  deriving DecidableEq, Repr

/-- A slot stands at a tile boundary that something waits for: a pre-emption, a teardown or a debug hold (R96, R342, R383,
R385). -/
def State.boundaryStop (s : State) (cl : Nat) (x : Slot) : Bool :=
  x.boundary &&
    ((s.part (s.ctx x.ctx.toNat).part.toNat).preemptDue || decide ((s.ctx x.ctx.toNat).state = .teardown)
      || (s.dbg.hold && s.dbg.cl.toNat == cl))

/-- The slot that a cluster issues from, if it issues (R77). -/
def State.issues (s : State) (cl : Nat) : Option (TileAt × Slot × Prog) :=
  let k := s.cluster cl
  match k.running with
  | none => none
  | some n =>
    match k.slot n with
    | none => none
    | some x =>
      match x.prog with
      | none => none
      | some p =>
        if x.ended || x.closing || k.clear || s.boundaryStop cl x then none
        else some ({ cl := cl, n := n, ctx := x.ctx.toNat, src := p.src }, x, p)

/-! ## Registers of a slot (R72) -/

/-- A scalar register; s0 reads zero. -/
def Slot.sreg (x : Slot) (r : BitVec 5) : Word64 := if r = 0 then 0 else tget 0 x.s r.toNat

/-- Write a scalar register; a write to s0 is discarded. -/
def Slot.setS (x : Slot) (r : BitVec 5) (v : Word64) : Slot := if r = 0 then x else { x with s := tput 0 x.s r.toNat v }

/-- A stream descriptor d0 to d15. -/
def Slot.dreg (x : Slot) (r : Nat) : BitVec 512 := tget 0 x.d r

/-- Write a descriptor. -/
def Slot.setD (x : Slot) (r : Nat) (v : BitVec 512) : Slot := { x with d := tput 0 x.d r v }

/-- A row pointer g0 to g7. -/
def Slot.greg (x : Slot) (r : Nat) : BitVec 12 := tget 0 x.g r

/-- Write a row pointer. -/
def Slot.setG (x : Slot) (r : Nat) (v : BitVec 12) : Slot := { x with g := tput 0 x.g r v }

/-- A stream engine of the slot. -/
def Slot.stream (x : Slot) (n : Nat) : Option Stream := tget none x.streams n

/-- Write a stream engine. -/
def Slot.setStream (x : Slot) (n : Nat) (v : Option Stream) : Slot := { x with streams := tput none x.streams n v }

/-- The next instruction. -/
def Slot.step (x : Slot) : Slot := { x with pc := x.pc + 1 }

/-- IMM, sign-extended to 64 bits (R74). -/
def simm (t : TileOp) : Word64 := t.imm.signExtend 64

/-- The unused fields of an instruction are zero (R75): whether A, B and C are used, and the used bits of X and IMM. -/
def fits (t : TileOp) (a b c : Bool) (x imm : Nat) : Bool :=
  (a || t.a == 0) && (b || t.b == 0) && (c || t.c == 0) && t.x.toNat ||| x == x && t.imm.toNat ||| imm == imm

/-- All bits of IMM. -/
def immAll : Nat := 0xFFFFFFFF

/-! ## Cluster contents -/

/-- A vector register. -/
def Cluster.vreg (k : Cluster) (r : Nat) : BitVec 8192 := tget 0 k.v r

/-- Write a vector register. -/
def Cluster.setV (k : Cluster) (r : Nat) (v : BitVec 8192) : Cluster := { k with v := tput 0 k.v r v }

/-- Lane n of a vector. -/
def lane (v : BitVec 8192) (n : Nat) : Word32 := (v >>> (32 * n)).setWidth 32

/-- A vector from its lanes. -/
def ofLanes (f : Nat → Word32) : BitVec 8192 :=
  BitVec.ofNat 8192 ((List.range 256).foldr (fun n acc => acc * 2 ^ 32 + (f n).toNat) 0)

/-- A Forme line of a cluster. -/
def Cluster.formeLine (k : Cluster) (n : Nat) : LineData := tget 0 k.forme n

/-- Write a Forme line. -/
def Cluster.setForme (k : Cluster) (n : Nat) (d : LineData) : Cluster := { k with forme := tput 0 k.forme n d }

/-- Bytes of the Forme store from a physical byte address. -/
def Cluster.formeRead (k : Cluster) (addr len : Nat) : List Byte :=
  ((pieces addr len).map fun p => lineSlice (k.formeLine (p.1 / 64)) (p.1 % 64) p.2).flatten

/-- Write bytes of the Forme store. -/
def Cluster.formeWrite (k : Cluster) (addr : Nat) (d : List Byte) : Cluster :=
  (pieces addr d.length).foldl (fun (k : Cluster) p =>
    let b := (d.drop (p.1 - addr)).take p.2
    k.setForme (p.1 / 64) (mergeBytes (k.formeLine (p.1 / 64)) (lineAt (p.1 % 64) b) (lineMask (p.1 % 64) b.length))) k

/-- A Galley word: physical row and word. -/
def Cluster.galWord (k : Cluster) (row w : Nat) : Nat := ((tget 0 k.galley row).toNat >>> (40 * w)) % 2 ^ 40

/-- Write a Galley row from its 128 words. -/
def Cluster.setGalRow (k : Cluster) (row : Nat) (f : Nat → Nat) : Cluster :=
  let v := BitVec.ofNat 5120 ((List.range 128).foldr (fun n acc => acc * 2 ^ 40 + f n % 2 ^ 40) 0)
  { k with galley := tput 0 k.galley row v }

/-! ## Forme addresses and upsets (R50, R51, R84) -/

/-- An access lies in the context's share (R50); the physical byte address. -/
def formeAddr (x : Slot) (addr len : Nat) : M Nat := do
  need (decide (addr + len ≤ x.formeSize)) 0x1004
  pure (x.formeBase + addr)

/-- An aligned access (R84): alignment first, then the share. -/
def formeAligned (x : Slot) (addr len al : Nat) : M Nat := do
  need (addr % al == 0) 0x1029
  formeAddr x addr len

/-- What an upset of a Forme word brings to the step that meets it (R51). -/
def formeUpset (a : TileAt) (u : Upset) : M Unit :=
  match u with
  | .formeCE => upd fun s => ((s.bump 0 .cl a.cl 0x50 1).errBit .cl a.cl 0 63).raise .cl a.cl 0 63
  | .formeUE => do
    upd fun s => s.raise .cl a.cl 1 63
    flt 0x1001
  | .formeOut => upd fun s =>
    let k := s.cluster a.cl
    ((s.setCluster a.cl { k with ueOut := k.ueOut + 1 }).errBit .cl a.cl 1 63).raise .cl a.cl 1 63
  | _ => pure ()

/-- Read the running cluster. -/
def onCluster {α : Type} (a : TileAt) (f : Cluster → α) : M α := look fun s => f (s.cluster a.cl)

/-- Change the running cluster. -/
def updCluster (a : TileAt) (f : Cluster → Cluster) : M Unit := upd fun s => s.setCluster a.cl (f (s.cluster a.cl))

/-- Read bytes of the share. -/
def readForme (a : TileAt) (x : Slot) (u : Upset) (addr len al : Nat) : M (List Byte) := do
  let p ← formeAligned x addr len al
  formeUpset a u
  onCluster a fun k => k.formeRead p len

/-- Write bytes of the share; they are there as the instruction issues (log entry 195). -/
def writeForme (a : TileAt) (x : Slot) (addr : Nat) (d : List Byte) (al : Nat) : M Unit := do
  let p ← formeAligned x addr d.length al
  updCluster a fun k => k.formeWrite p d

/-! ## Faults and retirement -/

/-- The instance whose page reports a code of a step on a cluster: the cluster, its quadrant for the Scale manager, or what
the fault names. -/
def tileInst (cl code inst : Nat) : Nat :=
  if code / 256 = 0x15 then cl / 32 else if clusterCode code then cl else inst

/-- What a fault leaves in its cluster (R80): CL_FAULT, and the finding of a residue fault. -/
def State.clusterFault (s : State) (cl ctx code : Nat) : State :=
  let s := s.fromData [.fault cl ctx code]
  if code = 0x1002 ∨ code = 0x1402 then s.residue cl ctx else s

/-- A fault of a step of a slot (R80), and the fault of the command (R321). -/
def State.tileFault (s : State) (cl ctx : Nat) (src : QSrc) (code detail inst : Nat) : State :=
  (s.clusterFault cl ctx code).fail src code detail (tileInst cl code inst)

/-- What a step of a slot that ends early leaves: it waits, its command faults, or the device or the partition stops. -/
def State.tileExit (s t : State) (cl ctx : Nat) (src : QSrc) (e : Exit) : State :=
  match e with
  | .hold => s
  | .fault code detail inst => (t.tileFault cl ctx src code detail inst).settle
  | .halt h => (t.sealHaltNow h).settle
  | .part p => (t.partHalt p).settle

/-- Store the slot of an instruction that has retired. -/
def State.putSlot (s : State) (a : TileAt) (x : Slot) : State :=
  s.setCluster a.cl ((s.cluster a.cl).setSlot a.n (some x))

/-- An instruction of tile code: it issues from the running slot, in order: the range of the program counter (R82), its unused
fields (R75), its own effect, which answers the slot as it retires; `after` follows its retirement. Where no slot issues,
nothing happens. -/
def tileThen (t : TileOp) (used : Bool) (after : TileAt → State → State) (body : TileAt → Slot → M Slot) (s : State) :
    Host.Outcome State Fault Refusal :=
  match s.issues t.cl.toNat with
  | none => .next s
  | some (a, x, p) =>
    let run : M Slot := do
      need (decide (x.pc < p.words)) 0x1025
      need used 0x1024
      body a { x with boundary := false }
    match run s with
    | .ok y u => .next (after a (u.putSlot a y))
    | .error e u => .next (s.tileExit u a.cl a.ctx a.src e)

/-- An instruction of tile code that only changes its slot, its cluster and what its body reports. -/
def tileOp (t : TileOp) (used : Bool) (body : TileAt → Slot → M Slot) (s : State) : Host.Outcome State Fault Refusal :=
  tileThen t used (fun _ u => u) body s

/-- The number of instructions of the running program. -/
def progWords (x : Slot) : Nat := (x.prog.map (·.words)).getD 0

/-- A taken branch (R82). -/
def jumpTo (x : Slot) (off : Word64) : M Slot := do
  let tgt : Int := (x.pc : Int) + off.toInt
  need (decide (0 ≤ tgt) && decide (tgt < (progWords x : Int))) 0x1025
  pure { x with pc := tgt.toNat }

end Sys2Proof.Machine
end

