-- ==== Sys2Proof/Machine/ScaleOps.lean ====
section
/-!
DEFINITION. Shared operations of the Scale manager (chapter 6): scales in force, reports, and the decision at the end of a
command whose tensors overflowed (R137). The four managers hold identical copies (R128), so one copy stands for them.
-/

namespace Sys2Proof.Machine

/-- The exponent in force of a tensor (R127, R140). -/
def Tensor.xNow (t : Tensor) : Int := if t.fallback then 0 else t.x

/-- A slot runs a RECOMP, which reports nothing (R213). -/
def State.quiet (s : State) (a : TileAt) : Bool :=
  match (s.cluster a.cl).slot a.n with
  | some x => (x.prog.map (·.quiet)).getD false
  | none => false

/-- The exponent that a step of a slot takes: the one in force, and in a RECOMP the one at its command's dispatch (R213). -/
def State.scaleFor (s : State) (a : TileAt) (id : Nat) (t : Tensor) : Int :=
  if s.quiet a then
    match s.cmdOf a.src with
    | some k =>
      match k.stage with
      | .layers r => ((r.scales.find? fun e => e.1 == id).map (·.2)).getD t.xNow
      | _ => t.xNow
    | none => t.xNow
  else t.xNow

/-- The number of the run under way, for R139: each run of an EXEC_LAYERS counts as one command (R202). -/
def State.runId (s : State) (q : QSrc) : Nat :=
  match s.cmdOf q with
  | none => 0
  | some k =>
    match k.stage with
    | .layers r =>
      match r.run with
      | some (p, .wgrad) => k.seq * 65536 + 4 * p + 3
      | some (p, _) => k.seq * 65536 + 4 * p + 2
      | none => k.seq * 65536 + 1
    | _ => k.seq * 65536

/-- Report a magnitude as a maximum of a tensor (R60, R128, R135). `q` is the quadrant of the reporter. -/
def State.reportMax (s : State) (c id q : Nat) (m : Word32) : State :=
  match s.tensor c id with
  | none => s
  | some t =>
    let mag := m &&& 0x7FFFFFFF
    if (f32 mag).isFin then s.setTensor c id (some { t with runMax := maxF t.runMax mag })
    else (s.setTensor c id (some { t with nonfin := true })).fromData [.cond .scl q 4 (s.ctx c).part.toNat]

/-- Count converted and underflowing elements of a watched tensor (R141). -/
def State.watchCount (s : State) (c : Nat) (t : Tensor) (n zeros : Nat) : State :=
  if !t.ufWatch then s
  else
    match s.layer c t.layer with
    | none => s
    | some l => s.setLayer c t.layer (some { l with elems := l.elems + n, zeros := l.zeros + zeros })

/-- What the end of a run of a command brings (R137, points 3 to 6). -/
inductive OvfEnd where
  | completes
  | stops           -- 0x1503
  | falls           -- FALLBACK: completes with 0x1506
  | reruns
  deriving DecidableEq, Repr

/-- A marked RERUN tensor is exhausted. -/
def Tensor.exhausted (t : Tensor) : Bool :=
  decide (t.onOvf = .rerun) && (decide (t.x = t.xMax) || decide (t.retries ≤ t.cmdRuns))

/-- The decision of R137. -/
def State.ovfEnd (s : State) (c : Nat) : OvfEnd :=
  let l := ((s.tensorsOf c).map (·.2)).filter (·.marked)
  if l.all fun t => decide (t.onOvf = .saturate) then .completes
  else if l.any fun t => decide (t.onOvf = .stop) then .stops
  else if l.any fun t => t.exhausted && !t.fallbackOk then .stops
  else if l.any (·.exhausted) then .falls
  else .reruns

/-- A marked tensor has ON_OVF STOP (R137, point 4). -/
def State.ovfStops (s : State) (c : Nat) : Bool := (s.tensorsOf c).any fun e => e.2.marked && decide (e.2.onOvf = .stop)

/-- Exhausted tensors with FALLBACK 1 enter FALLBACK (R137, point 5). -/
def State.enterFallback (s : State) (c : Nat) : State :=
  let p := (s.ctx c).part.toNat
  let n := ((s.tensorsOf c).filter fun e => e.2.marked && e.2.exhausted && e.2.fallbackOk).length
  let s := s.mapTensors c fun t => if t.marked && t.exhausted && t.fallbackOk then { t with fallback := true } else t
  if n = 0 then s else (List.range 4).foldl (fun (u : State) q => u.fromData [.err .scl q 5 p, .cond .scl q 2 p]) s

/-- Raise the scales of the marked tensors for a re-run (R137, point 6), which counts for those with ON_OVF RERUN. The maxima of
the run are discarded (R138). -/
def State.raiseScales (s : State) (c : Nat) : State :=
  let p := (s.ctx c).part.toNat
  let s := s.mapTensors c fun t =>
    let n := b2n (t.marked && decide (t.onOvf = .rerun))
    { t with x := if t.marked then min (t.x + t.ovfShift) t.xMax else t.x, cmdRuns := t.cmdRuns + n, reruns := t.reruns + n
             marked := false, runMax := 0 }
  (List.range 4).foldl (fun (u : State) q => u.fromData (count2 p .scl q 0x6C 1 ++ [.cond .scl q 1 p])) s

end Sys2Proof.Machine
end

