-- ==== Sys2Proof/Machine/Reduce.lean ====
section
/-!
DEFINITION. MEM_COPY and exact reduction (chapter 7): the XW128 window, regions and the region commands.
-/

namespace Sys2Proof.Machine

/-! ## MEM_COPY (R351) -/

/-- The source is read whole before the destination is written (log entry 30). -/
def copyBody (q : CmdIn) (d : Nat) : M Fin := do
  let v : Via := { src := q.src, env := q.env }
  let l ← vread v .copy 0x1901 (field d 8 8) (field d 24 8)
  vwrite v .copy 0x1901 (field d 16 8) l
  ok

/-- MEM_COPY. -/
def execMemCopy (q : CmdIn) (s : State) : Host.Outcome State Fault Refusal :=
  descriptor { op := 0x21, issuer := fromC, fields := fun d => bodyOnly d [(8, 24)] && countOk (field d 24 8) (2 ^ 40),
               body := copyBody } q s

/-! ## The window (R121, R122, R124) -/

/-- What a contribution does in a window: the integer that is added, and its marks. -/
structure Win where
  q      : Int
  shed   : Bool
  nonfin : Bool
  ovf    : Bool
  exp    : Int
  deriving DecidableEq, Repr

/-- A contribution enters a window of base `b` (R122). -/
def windowOf (b : Int) (x : Num) : Win :=
  match x with
  | .fin neg m e =>
    let k := if b ≤ e then m <<< (e - b).toNat else m >>> (b - e).toNat
    let ovf := decide (2 ^ 116 ≤ k)
    { q := if ovf then 0 else if neg then -(k : Int) else k
      shed := decide (e < b) && k <<< (b - e).toNat != m
      nonfin := false, ovf := ovf, exp := x.ilog2 }
  | _ => { q := 0, shed := false, nonfin := true, ovf := false, exp := 0 }

/-- The format of a contribution or a conversion: BF16 or FP32. -/
def xwFmt (code : Nat) : Option (Fmt × Nat) :=
  match code with
  | 7 => some (.BF16, 2)
  | 9 => some (.FP32, 4)
  | _ => none

/-- An XW128 element as a value. -/
def xwNum (b : Int) (w : BitVec 128) : Num := Num.ofInt w.toInt b false

/-- The conversion of an element, with its saturation (R124). -/
def xwConvert (f : Fmt) (b : Int) (w : BitVec 128) : Rounded := f.convert (xwNum b w)

/-- A region's counters after a contribution (R151). -/
def Region.count (r : Region) (w : Win) : Region :=
  { r with shed := r.shed + b2n w.shed
           nonfin := min 0xFFFFFFFF (r.nonfin + b2n w.nonfin)
           ovf := r.ovf || w.ovf
           ovfExp := if w.ovf then (if r.ovf then max r.ovfExp w.exp else w.exp) else r.ovfExp }

/-- B′ of a region (R152). -/
def Region.rerunBase (r : Region) : Int := r.ovfExp - 115

/-- The stack of an element of a region: where the line that holds it lies (R146). -/
def State.elemStack (s : State) (r : Region) (i : Nat) : Nat :=
  match s.obj (r.obj.toNat % 2 ^ 20) with
  | none => 0
  | some o =>
    match s.objLoc o (r.off + 16 * i) with
    | some (ch, _, _) => ch / 16
    | none => 0

/-- Count a contribution to element i of a region, with the events of R171. -/
def State.countAdd (s : State) (id i : Nat) (w : Win) : State :=
  match s.region id with
  | none => s
  | some r =>
    let p := (s.ctx r.ctx.toNat).part.toNat
    let k := s.elemStack r i
    let s := s.setRegion id (some (r.count w))
    let s := if w.ovf && !r.ovf then s.fromData [.cond .rdu k 0 p] else s
    let s := if w.nonfin then s.fromData [.cond .rdu k 1 p] else s
    if p < 63 then s.bump64 (p + 1) .rdu k 0x60 1 else s

/-- What a residue mismatch in a reduction unit brings beside its fault (R278, R289): a finding against the stack, the
replacement flag, a detection event. -/
def State.rduResidue (s : State) (stack part ctx : Nat) : State :=
  ((s.event evFinding 1 (2 ^ 40 + stack * 2 ^ 32 + ctx)).setReplace).detect part

/-! ## Region commands (R148 to R156) -/

/-- The region that a command names, or 0x2205. A region that a collective opened is none of its context's (R148). -/
def regionOf (q : QSrc) (id : Nat) : M Region := do
  match ← look (·.region id) with
  | none => flt 0x2205
  | some r =>
    let engine ← look fun s => s.colls.any fun c => decide (c.region = some id)
    let k ← look (·.elemStack r 0)
    need (r.ctx.toNat == ctxOf q && !engine) 0x2205 0 k
    pure r

/-- Regions of a partition. -/
def State.regionsOf (s : State) (p : Nat) : Nat :=
  (s.regions.filter fun e => (e.2.map fun r => (s.ctx r.ctx.toNat).part.toNat == p).getD false).length

/-- A free region identifier, one of those free, or 0x2205 (R148). -/
def freeRegion (p : Nat) : M Nat := do
  let used ← look (·.regionsOf p)
  let quota ← look fun s => s.reg (fnOf p) .rdu 0 0x44 0
  need (decide (used < quota)) 0x2205
  match ← act fun s => s.choose ((List.range 1024).filter fun i => (s.region i).isNone) with
  | none => flt 0x2205
  | some i => pure i

/-- The window base of WMODE 0 or 1 (R149). -/
def windowBase (c : Nat) (mode1 : Bool) (wbase tensor wtop : Nat) : M Int := do
  if mode1 then
    match ← look (·.tensor c tensor) with
    | none => flt 0x2201
    | some t => if 16384 ≤ tensor then flt 0x2201 else pure (t.xNow + signed wtop 8 - 116)
  else
    let b := signed wbase 16
    need (decide (-400 ≤ b ∧ b ≤ 100)) 0x2201
    pure b

/-- MEM_XW_OPEN. The object must be a device object of the issuing context (R146). -/
def xwOpenBody (q : CmdIn) (d : Nat) : M Fin := do
  let c := ctxOf q.src
  let v : Via := { src := q.src, env := q.env }
  let p ← look (·.partOf q.src)
  let h := field d 8 4
  let (i, o) ← getObj p h
  let off := field d 16 8
  let elems := field d 24 4
  let limit := field d 28 2
  need (!o.host && o.owner.toNat == c && off % 64 == 0 && countOk elems (2 ^ 28) && decide (off + 16 * elems ≤ o.len)
    && countOk limit 2048) 0x2205
  let id ← freeRegion p
  let b ← windowBase c ((field d 30 1).testBit 0) (field d 32 2) (field d 32 2) (field d 34 1)
  takeHold q.src h
  objWrite v .reduce o off (List.replicate (16 * elems) 0)
  upd fun s => (s.addHold i 1).setRegion id (some {
    b := b, limit := limit, contrib := 0, shed := 0, nonfin := 0, ovf := false, ovfExp := 0, ctx := BitVec.ofNat 12 c,
    obj := BitVec.ofNat 32 h, off := off, elems := elems, residue := false })
  okWith id (BitVec.ofInt 64 b).toNat

/-- MEM_XW_OPEN. -/
def execMemXwOpen (q : CmdIn) (s : State) : Host.Outcome State Fault Refusal :=
  descriptor { op := 0x22, issuer := fromC
               fields := fun d => bodyOnly d [(8, 4), (16, 15), (32, 3)] && decide (field d 30 1 < 2), body := xwOpenBody } q s

/-- The object of a region. -/
def regionObj (r : Region) : M Obj := do
  match ← look (·.obj (r.obj.toNat % 2 ^ 20)) with
  | some o => pure o
  | none => flt 0x2205

/-- An addition that a reduction unit makes: the element of the region, whether it starts the element's sum anew, and what it
adds. -/
structure Add where
  elem  : Nat
  first : Bool
  win   : Win

/-- One addition to an element of a region, for an agent: a read-modify-write of the element (R122, R146, R151). -/
def addElem (v : Via) (a : Agent) (id : Nat) (o : Obj) (r : Region) (x : Add) : M Unit := do
  if x.first || (!x.win.nonfin && !x.win.ovf) then
    let old ← if x.first then pure 0 else (do let l ← objRead v a o (r.off + 16 * x.elem) 16; pure (ofLe l))
    objWrite v a o (r.off + 16 * x.elem) (leBytes 16 (BitVec.ofNat 128 old + BitVec.ofInt 128 x.win.q).toNat)
  upd (·.countAdd id x.elem x.win)

/-- Fault with a residue mismatch in the reduction unit of a stack (R276, R278). -/
def rduFault {α : Type} (q : QSrc) (stack : Nat) : M α := do
  upd fun s => s.rduResidue stack (s.partOf q) (ctxOf q)
  flt 0x2207 0 stack

/-- Additions in order. An upset strikes number `hit`: its element keeps its value, and the region is marked (R276, R277). -/
def addElems (v : Via) (a : Agent) (id : Nat) (o : Obj) (r : Region) (up : Upset) (hit : Nat) (l : List Add) : M Unit :=
  ((List.range l.length).zip l).forM fun e => do
    if up = .residue ∧ e.1 = hit then
      upd fun s => match s.region id with
        | some y => s.setRegion id (some { y with residue := true })
        | none => s
      let k ← look (·.elemStack r e.2.elem)
      rduFault v.src k
    addElem v a id o r e.2

/-- MEM_XW_ADD; an upset strikes its addition number `hit`. Where several faults apply, the order is log entry 138's. -/
def xwAddBody (up : Upset) (hit : Nat) (q : CmdIn) (d : Nat) : M Fin := do
  let v : Via := { src := q.src, env := q.env }
  let id := field d 8 2
  let r ← regionOf q.src id
  let k ← look (·.elemStack r 0)
  match xwFmt (field d 32 1) with
  | none => flt 0x2206 0 k
  | some (f, n) =>
    let first := field d 12 4
    let count := field d 16 4
    need (decide (first + count ≤ r.elems)) 0x2205 0 k
    need (decide (r.contrib + 1 ≤ r.limit)) 0x2202 0 k
    let l ← vread v .reduce 0x1901 (field d 24 8) (n * count)
    let o ← regionObj r
    upd (·.setRegion id (some { r with contrib := r.contrib + 1 }))
    addElems v .reduce id o r up hit ((List.range count).map fun i =>
      { elem := first + i, first := false, win := windowOf r.b (f.decode (leAt l (n * i) n)) })
    ok

/-- MEM_XW_ADD. -/
def execMemXwAdd (q : CmdIn) (up : UpsetAt) (s : State) : Host.Outcome State Fault Refusal :=
  descriptor { op := 0x23, issuer := fromC, fields := fun d => bodyOnly d [(8, 2), (12, 8), (24, 9)]
               body := xwAddBody up.kind up.nth } q s

/-- MEM_XW_CLOSE. Where several faults apply, the order is log entry 138's. -/
def xwCloseBody (up : Upset) (q : CmdIn) (d : Nat) : M Fin := do
  let v : Via := { src := q.src, env := q.env }
  let id := field d 8 2
  let r ← regionOf q.src id
  let k ← look (·.elemStack r 0)
  match xwFmt (field d 10 1) with
  | none => flt 0x2206 0 k
  | some (f, _) =>
    if r.residue then
      upd (·.setRegion id (some { r with residue := false }))
      flt 0x2207 0 k
    if r.ovf then
      upd (·.releaseRegion id)
      flt 0x2203 (BitVec.ofInt 64 r.rerunBase).toNat k
    if up = .residue then rduFault q.src k
    let o ← regionObj r
    let raw ← objRead v .reduce o r.off (16 * r.elems)
    let out := (List.range r.elems).map fun i => xwConvert f r.b (BitVec.ofNat 128 (leAt raw (16 * i) 16))
    vwrite v .reduce 0x1901 (field d 16 8) (out.flatMap fun x => leBytes (f.width / 8) x.bits)
    if !(field d 11 1).testBit 0 then upd (·.releaseRegion id)
    let sat := (out.filter (·.sat)).length
    if r.nonfin ≠ 0 then upd fun s => s.markCode 0x2204 k (s.partOf q.src)
    pure (.done (if r.nonfin = 0 then 0 else 0x2204) r.shed (r.nonfin + min sat 0xFFFFFFFF * 2 ^ 32) 0)

/-- MEM_XW_CLOSE. -/
def execMemXwClose (q : CmdIn) (up : Upset) (s : State) : Host.Outcome State Fault Refusal :=
  descriptor { op := 0x24, issuer := fromC
               fields := fun d => bodyOnly d [(8, 4), (16, 8)] && decide (field d 11 1 < 2), body := xwCloseBody up } q s

end Sys2Proof.Machine
end

