-- ==== Sys2Proof/Machine/Collect.lean ====
section
/-!
DEFINITION. Collectives (chapter 7): COLL_RUN, the header exchange, phases, the closing and final exchanges, and aborts. In a
reduction any piece of the contributions, or of partial sums, may move in a phase: the engine chooses the algorithm, and no
result depends on it (R160, R164; log entry 32). Blocks of AG and A2A, and the finished sums of AR, go straight from rank to
rank.
-/

namespace Sys2Proof.Machine

/-! ## Fields of a collective descriptor (R157) -/

def cdOp (d : Nat) : Nat := field d 0 2 % 16
def cdSrcFmt (d : Nat) : Nat := field d 0 2 / 16 % 16
def cdDstFmt (d : Nat) : Nat := field d 0 2 / 256 % 16
def cdCount (d : Nat) : Nat := field d 32 4
def cdRanks (d : Nat) : Nat := field d 36 2
def cdRank (d : Nat) : Nat := field d 38 2
def cdSrc (d : Nat) : Nat := field d 8 8
def cdDst (d : Nat) : Nat := field d 16 8
def cdScratch (d : Nat) : Nat := field d 24 8
def cdAdds (d : Nat) : Bool := cdOp d == 0 || cdOp d == 2

/-- The checks of R157 that need no memory. Reductions take BF16 and FP32 (R122, R124; log entry 33). -/
def collDescOk (d : Nat) : Bool :=
  cdOp d < 4 && field d 0 2 < 2 ^ 13 && cdSrcFmt d ≤ 9 && cdDstFmt d ≤ 9 && decide (field d 2 2 < 2 ^ 14) && field d 5 1 == 0
    && field d 52 12 == 0
    && (if cdAdds d then (xwFmt (cdSrcFmt d)).isSome && (xwFmt (cdDstFmt d)).isSome
        else cdDstFmt d == cdSrcFmt d && field d 2 6 == 0)
    && cdScratch d % 64 == 0 && countOk (cdCount d) (2 ^ 28) && countOk (cdRanks d) 1024 && decide (cdRank d < cdRanks d)

/-- SCRATCH is mapped for COUNT × 16 bytes (R157). -/
def State.scratchMapped (s : State) (c d : Nat) : Bool := (s.ctx c).maps (cdScratch d, 16 * cdCount d)

/-- The region that SCRATCH makes: its handle and offset. It lies inside one device object of the context (R146). -/
def State.scratchAt (s : State) (c d : Nat) : Option (Word32 × Nat) :=
  match (s.ctx c).rangeAt (cdScratch d) with
  | none => none
  | some r =>
    let off := r.off + (cdScratch d - r.va)
    let whole := (Context.maps.pagesAt (cdScratch d) (16 * cdCount d)).all fun a =>
      match (s.ctx c).rangeAt a with
      | some y => y.handle == r.handle && y.off + (a - y.va) + cdScratch d == off + a
      | none => false
    match s.obj (r.handle.toNat % 2 ^ 20) with
    | some o => if whole && !o.host && o.owner.toNat == c then some (r.handle, off) else none
    | none => none

/-- A rank table from its bytes: device and endpoint of each rank. -/
def rankTable (l : List Byte) (n : Nat) : List (BitVec 10 × BitVec 4) :=
  (List.range n).map fun i => (BitVec.ofNat 10 (leAt l (2 * i) 2), BitVec.ofNat 4 (leAt l (2 * i) 2 / 2 ^ 10))

/-- The rank table keeps R158. -/
def State.rankTableOk (s : State) (p : Nat) (l : List Byte) (n rank : Nat) : Bool :=
  let t := rankTable l n
  (List.range n).all (fun i => leAt l (2 * i) 2 < 2 ^ 14)
    && (match (s.part p).slice with
        | some k => t.all fun e => s.sliceHas k.toNat e.1.toNat
        | none => n == 1)
    && decide t.Nodup && ((t[rank]?).map fun e => e.1.toNat == s.devNum).getD false

/-- The collective of a queue. -/
def State.coll (s : State) (q : QSrc) : Option Coll := s.colls.find? fun c => decide (c.src = q)

/-- Change the collective of a queue. -/
def State.setColl (s : State) (q : QSrc) (f : Coll → Coll) : State :=
  { s with colls := s.colls.map fun c => if c.src = q then f c else c }

/-- This rank's header (R159). For an OPT_DIGEST, CTL is PLANES, and the STEP_MARK count comes with it (R187). -/
def Coll.header (c : Coll) (slice : Nat) : CollHeader :=
  let d := c.desc.toNat
  { slice := BitVec.ofNat 6 slice, seq := BitVec.ofNat 32 (field d 48 4), ctl := BitVec.ofNat 16 (field d 0 2),
    count := BitVec.ofNat 32 (cdCount d), ranks := BitVec.ofNat 16 (cdRanks d), base := BitVec.ofInt 10 c.base,
    digest := c.digest, steps := (c.opt.map (·.2)).getD 0 }

/-- A header's bytes in its packet (log entry 22). -/
def headerBytes (h : CollHeader) : List Byte :=
  [BitVec.ofNat 8 h.slice.toNat] ++ leBytes 2 h.ctl.toNat ++ leBytes 4 h.count.toNat ++ leBytes 2 h.ranks.toNat
    ++ leBytes 2 h.base.toNat ++ leBytes 8 h.digest.toNat ++ leBytes 8 h.steps.toNat

/-- Tell every peer; a message that cannot be injected faults the command, and the other peers have theirs. -/
def tellAll (q : QSrc) (kind : Nat) (payload : List Byte) : M Unit := do
  match ← look (·.coll q) with
  | none => pure ()
  | some c =>
    match ← act (·.collTell c 1 kind payload) with
    | some e => flt e
    | none => pure ()

/-- Send data to one rank (R165). -/
def sendTo (q : QSrc) (c : Coll) (vc peer : Nat) (l : List Byte) : M Unit := do
  let sl ← look fun s => (s.part (s.partOf q)).slice
  match sl, c.ranks[peer]?, c.ranks[cdRank c.desc.toNat]? with
  | some k, some dev, some me =>
    let w : InjectIn := { src := q, vc := BitVec.ofNat 2 vc, dst := dev.1, dstEp := dev.2, srcEp := me.2, slice := k,
                          payload := [] }
    match ← look (·.injectAll w 4100 l) with
    | .inl e => flt e
    | .inr t => upd fun _ => t
  | _, _, _ => flt 0x2902

/-- The stage that follows when all data has arrived. -/
def Coll.after (c : Coll) : CollStage := if c.reduces then .closing else .final

/-- What a peer sends in all in this stage: the elements of its finished sums, or its bytes of an AG or A2A. -/
def Coll.total (c : Coll) : Nat :=
  let d := c.desc.toNat
  if c.reduces then cdCount d else collBytes (cdSrcFmt d) (cdCount d)

/-- The other ranks. -/
def Coll.peers (c : Coll) : List Nat :=
  (List.range c.ranks.length).filter fun r => r != cdRank c.desc.toNat

/-! ## COLL_RUN -/

/-- Open the landing region in SCRATCH: a zero sum in every element (R146, R148, R157). -/
def openLanding (q : CmdIn) (d : Nat) (b : Int) : M Nat := do
  let c := ctxOf q.src
  let p ← look (·.partOf q.src)
  match ← look (·.scratchAt c d) with
  | none => flt 0x2205
  | some (h, off) =>
    let id ← freeRegion p
    vwriteWhole { src := q.src, env := q.env } .fabric 0x1901 [(cdScratch d, List.replicate (16 * cdCount d) 0)]
    upd fun s => (s.addHold (h.toNat % 2 ^ 20) 1).setRegion id (some {
      b := b, limit := 2048, contrib := 0, shed := 0, nonfin := 0, ovf := false, ovfExp := 0,
      ctx := BitVec.ofNat 12 c, obj := h, off := off, elems := cdCount d, residue := false })
    pure id

/-- A collective as COLL_RUN or OPT_DIGEST starts it. -/
def Coll.start (src : QSrc) (d : Nat) (tab : List Byte) (n : Nat) (stage : CollStage) (opt : Option (BitVec 256 × Word64)) :
    Coll where
  src := src
  desc := BitVec.ofNat 512 d
  ranks := rankTable tab n
  digest := (Config.shake256 tab).setWidth 64
  base := 0
  stage := stage
  seen := []
  region := none
  slots := []
  landed := []
  sent := []
  got := []
  own := false
  shed := 0
  nonfin := 0
  reran := false
  arrivals := []
  opt := opt
  touched := false

/-- COLL_RUN (R157 to R159, R166): its checks, its landing region, and its header to every peer. -/
def collRunBody (q : CmdIn) (d0 : Nat) : M Fin := do
  let c := ctxOf q.src
  let v : Via := { src := q.src, env := q.env }
  let p ← look (·.partOf q.src)
  let n ← look fun s => (s.colls.filter fun x => x.opt.isNone).length
  if 16 ≤ n then waitHere
  need (field d0 8 8 % 64 == 0) 0x2A01
  let raw ← vread v .copy 0x1901 (field d0 8 8) 64
  let d := ofLe raw
  need (collDescOk d) 0x2A01
  let sc ← look (·.scratchMapped c d)
  need (!cdAdds d || sc) 0x2A01
  let tab ← vread v .copy 0x1901 (field d 40 8) (2 * cdRanks d)
  let ok ← look (·.rankTableOk p tab (cdRanks d) (cdRank d))
  need ok 0x2A02
  let x := Coll.start q.src d tab (cdRanks d) .headers none
  let x := if cdRanks d = 1 then { x with stage := x.after } else x
  upd fun s => { s with colls := s.colls ++ [x] }
  if cdAdds d then
    let b ← windowBase c ((field d 0 2).testBit 12) (field d 6 2) (field d 2 2) (field d 4 1)
    let r ← openLanding q d b
    upd (·.setColl q.src fun y => { y with base := b, region := some r })
  let sl ← look fun s => (((s.part p).slice).map (·.toNat)).getD 0
  match ← look (·.coll q.src) with
  | none => pure ()
  | some y => tellAll q.src 0 (headerBytes (y.header sl))
  pure (.runs .coll)

/-- COLL_RUN. -/
def execCollRun (q : CmdIn) (s : State) : Host.Outcome State Fault Refusal :=
  descriptor { op := 0x81, issuer := fromC, fields := fun d => bodyOnly d [(8, 8)], body := collRunBody } q s

/-! ## Headers and aborts (R159, R162) -/

/-- A peer's header arrives. When every peer's has come, the data moves. -/
def headerBody (q : QSrc) (peer : Nat) (h : CollHeader) : M Fin := do
  match ← look (·.coll q) with
  | none => waitHere
  | some c =>
    if c.stage ≠ .headers ∨ !c.peers.contains peer then waitHere
    let sl ← look fun s => (((s.part (s.partOf q)).slice).map (·.toNat)).getD 0
    need (decide (h = c.header sl)) 0x2A03
    let seen := if c.seen.contains (BitVec.ofNat 10 peer) then c.seen else c.seen ++ [BitVec.ofNat 10 peer]
    upd (·.setColl q fun x => { x with seen := seen, stage := if seen.length = c.peers.length then .phases else .headers })
    pure (.runs .coll)

/-- COLL_HEADER_EXCHANGE. -/
def execCollHeaderExchange (q : QSrc) (peer : BitVec 10) (h : CollHeader) (s : State) : Host.Outcome State Fault Refusal :=
  forCommand q (headerBody q peer.toNat h) s

/-- COLL_ABORT: a rank that has not completed faults with 0x2A06. -/
def execCollAbort (q : QSrc) (peer : BitVec 10) (s : State) : Host.Outcome State Fault Refusal :=
  forCommand q (do
    match ← look (·.coll q) with
    | none => waitHere
    | some c => if c.peers.contains peer.toNat then flt 0x2A06 else waitHere) s

/-! ## Landing (R146, R150, R160, R164) -/

/-- The ranks that have contributed to a region so far (R150): peers that landed, and this rank. -/
def Coll.contributors (c : Coll) : Nat :=
  ((c.landed.flatMap (·.2.2) ++ (if c.own then [cdRank c.desc.toNat] else [])).dedup).length

/-- The block of an element, and its element of SCRATCH. -/
def Coll.blockOf (c : Coll) (g : Nat) : Nat := g / cdCount c.desc.toNat
def Coll.slotOf (c : Coll) (g : Nat) : Nat := g % cdCount c.desc.toNat

/-- Elements of SCRATCH hold the sum of a block, or none. -/
def Coll.setSlots (c : Coll) (first count : Nat) (b : Option Nat) : Coll :=
  { c with slots := (List.range count).foldl (fun t i => tput 0 t (c.slotOf first + i) ((b.map (· + 1)).getD 0)) c.slots }

/-- Two spans of elements meet. -/
def spansMeet (a n b m : Nat) : Bool := decide (a < b + m) && decide (b < a + n)

/-- What lands in SCRATCH for the elements from `first` on: each starts its sum anew where SCRATCH holds no sum of its block. -/
def Coll.adds (c : Coll) (first : Nat) (l : List Win) : List Add :=
  ((List.range l.length).zip l).map fun e =>
    { elem := c.slotOf first + e.1, first := tget 0 c.slots (c.slotOf first + e.1) == 0, win := e.2 }

/-- Contributions of n bytes each as they enter a window. -/
def winsOf (b : Int) (f : Fmt) (n : Nat) (l : List Byte) : List Win :=
  (List.range (l.length / n)).map fun i => windowOf b (f.decode (leAt l (n * i) n))

/-- A partial sum adds its integer, and nothing is counted again. -/
def sumWin (w : BitVec 128) : Win := { q := w.toInt, shed := false, nonfin := false, ovf := false, exp := 0 }

/-- Land additions in the collective's region, for the elements from `first` on of one block. -/
def landWins (v : Via) (up : Upset) (hit first : Nat) (l : List Win) : M Unit := do
  match ← look (·.coll v.src) with
  | none => waitHere
  | some c =>
    match ← look fun s => c.region.bind fun id => (s.region id).map fun r => (id, r) with
    | none => waitHere
    | some (id, r) =>
      let o ← regionObj r
      addElems v .fabric id o r up hit (c.adds first l)
      upd (·.setColl v.src fun x => x.setSlots first l.length (some (c.blockOf first)))

/-- CONTRIB of the collective's region takes the ranks that have landed (R150). -/
def State.countRanks (s : State) (q : QSrc) : State :=
  match s.coll q with
  | none => s
  | some c =>
    match c.region.bind fun id => (s.region id).map fun r => (id, r) with
    | none => s
    | some (id, r) => s.setRegion id (some { r with contrib := c.contributors })

/-- Bytes that a collective takes from its own memory; free ones once software has written there (R163). -/
def collTake (v : Via) (c : Coll) (va len : Nat) : M (List Byte) :=
  if c.touched then freeBytes (len / 1024 + 1) len else vread v .fabric 0x1901 va len

/-- This rank's own contribution: its block of SRC, or its part of DST (R157). -/
def ownLands (v : Via) (up : Upset) (hit : Nat) (c : Coll) : M Unit := do
  let d := c.desc.toNat
  let len := collBytes (cdSrcFmt d) (cdCount d)
  let from' := cdSrc d + (if cdOp d = 1 then 0 else cdRank d * len)
  if !c.own then
    let l ← collTake v c from' len
    match (if c.reduces then xwFmt (cdSrcFmt d) else none) with
    | some (f, n) => landWins v up hit (cdRank d * cdCount d) (winsOf c.base f n l)
    | none => vwrite v .fabric 0x1901 (cdDst d + cdRank d * len) l
    upd fun s => (s.setColl v.src fun x => { x with own := true }).countRanks v.src

/-- The sums that SCRATCH holds, from an element of SCRATCH on. -/
def readSums (v : Via) (c : Coll) (at' count : Nat) : M (List (BitVec 128)) := do
  match ← look fun s => c.region.bind s.region with
  | none => waitHere
  | some r =>
    let o ← regionObj r
    let raw ← if c.touched then freeBytes (count / 64 + 1) (16 * count) else objRead v .fabric o (r.off + 16 * at') (16 * count)
    pure ((List.range count).map fun i => BitVec.ofNat 128 (leAt raw (16 * i) 16))

/-- The bytes of wire form's width byte: the least w from 1 to 16 that holds every element. -/
def wireWidth (l : List (BitVec 128)) : Nat :=
  ((List.range 16).map (· + 1)).find? (fun w => l.all fun x => ((x.setWidth (8 * w)).signExtend 128 == x)) |>.getD 16

/-- Wire form of elements (R164): groups of 16, the last padded with zero elements (log entry 34). -/
def wireOf : Nat → List (BitVec 128) → List Byte
  | 0, _ => []
  | k + 1, l =>
    if l.isEmpty then []
    else
      let g := l.take 16 ++ List.replicate (16 - l.length) 0
      let w := wireWidth g
      [BitVec.ofNat 8 w] ++ g.flatMap (fun x => leBytes w x.toNat) ++ wireOf k (l.drop 16)

/-- Elements from wire form; none where it is no wire form. -/
def wireRead : Nat → List Byte → Option (List (BitVec 128))
  | _, [] => some []
  | 0, _ => none
  | k + 1, b :: t =>
    let w := b.toNat
    if w < 1 ∨ 16 < w ∨ t.length < 16 * w then none
    else
      let g := (List.range 16).map fun i => ((BitVec.ofNat (8 * w) (leAt t (w * i) w)).signExtend 128)
      (wireRead k (t.drop (16 * w))).map (g ++ ·)

/-! ## Phases -/

/-- Record the arrivals of a phase that ends (R167): each peer's skew, and whether it came last. -/
def State.recordSkew (s : State) (part : Nat) (l : List (BitVec 10 × Nat)) : State :=
  let first := l.foldl (fun m e => min m e.2) ((l.headD (0, 0)).2)
  let latest := l.foldl (fun m e => max m e.2) 0
  l.foldl (fun (t : State) e =>
    let key := part * 1024 + e.1.toNat
    let old := tget { phases := [] } t.skews key
    let new := old.phases ++ [(e.2 - first, decide (e.2 = latest))]
    { t with skews := tput { phases := [] } t.skews key { phases := new.drop (new.length - 256) } }) s

/-- What this rank sends in a phase of a reduction (R164): a span of one other block, which it has not sent. Where SCRATCH holds
partial sums of it, this rank's own contribution joins them and they go in wire form; where it holds none, the contribution
goes in SRCFMT. -/
def sendPiece (v : Via) (up : Upset) (hit : Nat) (f : Fmt) (w : Nat) (c : Coll) (o : PhaseOut) : M Unit := do
  let d := c.desc.toNat
  let n := cdCount d
  let b := c.blockOf o.first
  let held := fun (i : Nat) => tget 0 c.slots (c.slotOf o.first + i) == b + 1
  if o.count = 0 ∨ !decide (o.first + o.count ≤ (b + 1) * n) ∨ b = cdRank d ∨ cdRanks d ≤ b ∨ !c.peers.contains o.peer.toNat
      ∨ c.sent.any (fun e => spansMeet o.first o.count e.1 e.2) then waitHere
  if (List.range o.count).all held then
    let own ← collTake v c (cdSrc d + o.first * w) (o.count * w)
    landWins v up hit o.first (winsOf c.base f w own)
    let l ← readSums v c (c.slotOf o.first) o.count
    let wire := wireOf (o.count / 16 + 1) l
    if 2 ^ 22 < wire.length then waitHere
    sendTo v.src c 2 o.peer.toNat wire
    upd (·.setColl v.src fun x => x.setSlots o.first o.count none)
  else
    if (List.range o.count).any held ∨ 2 ^ 22 < o.count * w then waitHere
    let own ← collTake v c (cdSrc d + o.first * w) (o.count * w)
    sendTo v.src c 2 o.peer.toNat own
  upd (·.setColl v.src fun x => { x with sent := x.sent ++ [(o.first, o.count)] })

/-- What arrives in a phase of a reduction lands (R164): a peer's contributions in SRCFMT, or partial sums in wire form. A piece
that does not fit changes nothing: each rank's contribution to an element lands once, before the element leaves, and SCRATCH
holds the sums of one block in an element. -/
def landPiece (v : Via) (f : Fmt) (w : Nat) (c : Coll) (x : PhaseIn) : M Unit := do
  let d := c.desc.toNat
  let n := cdCount d
  let b := c.blockOf x.first
  let rs := if x.ranks.isEmpty then [x.peer.toNat] else x.ranks.map (·.toNat)
  let sums := (wireRead x.data.length x.data).map (·.take x.count)
  let wins := if x.ranks.isEmpty then (if x.data.length = w * x.count then some (winsOf c.base f w x.data) else none)
    else sums.bind fun l => if x.data.length ≠ (wireOf (x.count / 16 + 1) l).length ∨ l.length ≠ x.count then none
      else some (l.map sumWin)
  match wins with
  | none => waitHere
  | some l =>
    if x.count = 0 ∨ !decide (x.first + x.count ≤ (b + 1) * n) ∨ cdRanks d ≤ b ∨ !decide rs.Nodup ∨ !rs.all c.peers.contains
        ∨ c.landed.any (fun e => spansMeet x.first x.count e.1 e.2.1 && rs.any e.2.2.contains)
        ∨ c.sent.any (fun e => spansMeet x.first x.count e.1 e.2)
        ∨ (List.range x.count).any (fun i => let t := tget 0 c.slots (c.slotOf x.first + i); t != 0 && t != b + 1) then waitHere
    landWins v x.up x.hit x.first l
    upd fun s => (s.setColl v.src fun y => { y with landed := y.landed ++ [(x.first, x.count, rs)] }).countRanks v.src

/-- A reduction has gathered its contributions (R161): every peer's to this rank's block have landed, and every other block has
left. -/
def Coll.gathered (c : Coll) : Bool :=
  let d := c.desc.toNat
  let n := cdCount d
  (c.peers.all fun r => n ≤ ((c.landed.filter fun e => c.blockOf e.1 == cdRank d && e.2.2.contains r).map (·.2.1)).sum)
    && decide (c.peers.length * n ≤ (c.sent.map (·.2)).sum)

/-- A phase of a reduction: one piece leaves, one arrives, or both. -/
def gatherMove (v : Via) (c : Coll) (x : PhaseIn) : M Unit := do
  match xwFmt (cdSrcFmt c.desc.toNat) with
  | none => waitHere
  | some (f, w) =>
    if x.out.isNone ∧ x.data.isEmpty then waitHere
    match x.out with
    | some o => sendPiece v x.up x.hit f w c o
    | none => pure ()
    if !x.data.isEmpty then
      match ← look (·.coll v.src) with
      | none => waitHere
      | some c => landPiece v f w c x
    upd (·.setColl v.src fun y => if y.gathered then { y with stage := .closing } else y)

/-- The bytes of sums in DSTFMT (R124). -/
def sumBytes (c : Coll) (l : List (BitVec 128)) : List Byte :=
  match xwFmt (cdDstFmt c.desc.toNat) with
  | none => []
  | some (f, n) => l.flatMap fun x => leBytes n (xwConvert f c.base x).bits

/-- Finished sums of a peer's block arrive, and as many of this rank's leave for it (AR). The elements that arrive are converted
and written. -/
def spreadMove (v : Via) (c : Coll) (peer : Nat) (l : List Byte) : M Nat := do
  let d := c.desc.toNat
  let n := cdCount d
  let got := tget 0 c.got peer
  match wireRead l.length l with
  | none => waitHere
  | some es =>
    let es := es.take (n - got)
    if es.isEmpty then waitHere
    let mine ← readSums v c got es.length
    sendTo v.src c 2 peer (wireOf (es.length / 16 + 1) mine)
    vwrite v .fabric 0x1901 (cdDst d + (peer * n + got) * ((xwFmt (cdDstFmt d)).map (·.2)).getD 0) (sumBytes c es)
    pure es.length

/-- A piece of a peer's block of an AG or A2A arrives, and as much of this rank's leaves for it. -/
def copyMove (v : Via) (c : Coll) (peer : Nat) (l : List Byte) : M Nat := do
  let d := c.desc.toNat
  let len := collBytes (cdSrcFmt d) (cdCount d)
  let got := tget 0 c.got peer
  if l.isEmpty ∨ len < got + l.length then waitHere
  let mine ← collTake v c (cdSrc d + (if cdOp d = 1 then 0 else peer * len) + got) l.length
  sendTo v.src c 3 peer mine
  vwrite v .fabric 0x1901 (cdDst d + peer * len + got) l
  pure l.length

/-- What moves in a phase. -/
def phaseMove (v : Via) (c : Coll) (x : PhaseIn) : M Unit := do
  if c.reduces && c.stage = .phases then gatherMove v c x
  else
    let peer := x.peer.toNat
    if c.total ≤ tget 0 c.got peer then waitHere
    if c.reduces && x.up = .residue then
      let k ← look fun s => ((c.region.bind s.region).map fun r => s.elemStack r (tget 0 c.got peer)).getD 0
      rduFault v.src k
    if !c.reduces then ownLands v .clean 0 c
    let k ← if c.reduces then spreadMove v c peer x.data else copyMove v c peer x.data
    upd (·.setColl v.src fun y =>
      let y := { y with got := tput 0 y.got peer (tget 0 y.got peer + k) }
      if y.peers.all fun r => decide (y.total ≤ tget 0 y.got r) then { y with stage := .final } else y)

/-- A peer's first packet of the phase arrived (R167); the last piece of a phase records the skews. -/
def State.arrived (s : State) (c : Coll) (x : PhaseIn) : State :=
  let dev := ((c.ranks[x.peer.toNat]?).map (·.1)).getD 0
  let s := if x.data.isEmpty then s else s.setColl x.src fun y => { y with
    arrivals := if y.arrivals.any fun a => decide (a.1 = dev) then y.arrivals else y.arrivals ++ [(dev, x.arrive)] }
  match x.last, s.coll x.src with
  | true, some y => (s.recordSkew (s.partOf x.src) y.arrivals).setColl x.src fun z => { z with arrivals := [] }
  | _, _ => s

/-- COLL_PHASE: at most 4 MiB arrive from a peer, and at most 4 MiB leave. A context without its slice starts no phase. -/
def phaseBody (x : PhaseIn) : M Fin := do
  let v : Via := { src := x.src, env := x.env }
  let p ← look (·.partOf x.src)
  match ← look (·.coll x.src) with
  | none => waitHere
  | some c =>
    let hold ← look fun s => decide ((s.part p).holder = some (BitVec.ofNat 12 (ctxOf x.src)))
    if (c.stage ≠ .phases ∧ c.stage ≠ .spread) ∨ c.opt.isSome ∨ !c.peers.contains x.peer.toNat ∨ !hold
        ∨ 2 ^ 22 < x.data.length then
      waitHere
    phaseMove v c x
    upd (·.arrived c x)
    pure (.runs .coll)

/-- COLL_PHASE. -/
def execCollPhase (x : PhaseIn) (s : State) : Host.Outcome State Fault Refusal :=
  forCommand x.src (phaseBody x) s

/-! ## Closing and final exchanges (R161, R162) -/

/-- COLL_CLOSING_EXCHANGE: this rank's own contribution lands, and the totals of all ranks are merged; an overflow on any rank
re-runs the reduction once. -/
def closingBody (q : QSrc) (peers : List ClosingIn) (up : Upset) (hit : Nat) (env : Env) : M Fin := do
  let v : Via := { src := q, env := env }
  let p ← look (·.partOf q)
  match ← look (·.coll q) with
  | none => waitHere
  | some c =>
    if c.stage ≠ .closing ∨ !c.peers.all (fun r => peers.any fun x => x.peer.toNat == r)
        ∨ peers.length ≠ c.peers.length then waitHere
    ownLands v up hit c
    match ← look fun s => c.region.bind s.region with
    | none => waitHere
    | some r =>
      tellAll q 1 ([BitVec.ofNat 8 (b2n r.ovf)] ++ leBytes 2 (BitVec.ofInt 16 r.ovfExp).toNat ++ leBytes 8 r.shed
        ++ leBytes 4 r.nonfin)
      let exps := (if r.ovf then [r.ovfExp] else []) ++ peers.filterMap (·.ovfExp)
      let top := exps.foldl (fun (m : Option Int) e => some (match m with
        | none => e
        | some x => max x e)) none
      match top with
      | some e =>
        if c.reran then flt 0x2203 (BitVec.ofInt 64 (e - 115)).toNat
        let b := e - 115
        upd fun s =>
          let s := s.setColl q fun x => { x with
            base := b, slots := [], landed := [], sent := [], own := false, reran := true
            stage := if x.peers.isEmpty then .closing else .phases }
          let s := match c.region with
            | some id => s.setRegion id (some { r with b := b, contrib := 0, shed := 0, nonfin := 0, ovf := false, ovfExp := 0 })
            | none => s
          s.fromData (count2 p .coll 0 0x58 1 ++ [.cond .coll 0 0 p])
        pure (.runs .coll)
      | none =>
        upd (·.setColl q fun x => { x with
          shed := (r.shed + (peers.map (·.shed.toNat)).sum) % 2 ^ 64
          nonfin := min 0xFFFFFFFF (r.nonfin + (peers.map (·.nonfin.toNat)).sum)
          stage := if cdOp x.desc.toNat = 2 && !x.peers.isEmpty then .spread else .final })
        pure (.runs .coll)

/-- COLL_CLOSING_EXCHANGE. -/
def execCollClosingExchange (q : QSrc) (r : ClosingRound) (env : Env) (s : State) : Host.Outcome State Fault Refusal :=
  forCommand q (closingBody q r.peers r.up.kind r.up.nth env) s

/-- Convert the exact sums of this rank's block and write them to DST (R124, R160). -/
def writeSums (v : Via) (c : Coll) : M Unit := do
  let d := c.desc.toNat
  let l ← readSums v c 0 (cdCount d)
  let n := ((xwFmt (cdDstFmt d)).map (·.2)).getD 0
  vwrite v .fabric 0x1901 (cdDst d + (if cdOp d = 0 then 0 else cdRank d * cdCount d * n)) (sumBytes c l)

/-- COLL_FINAL_EXCHANGE: the sums are converted, every rank has finished, and the collective completes. Where software wrote
what it names, its destination holds undefined values (R163). -/
def finalBody (q : QSrc) (up : Upset) (env : Env) : M Fin := do
  let v : Via := { src := q, env := env }
  let p ← look (·.partOf q)
  match ← look (·.coll q) with
  | none => waitHere
  | some c =>
    if c.stage ≠ .final then waitHere
    if up = .residue ∧ c.reduces then
      let k ← look fun s => ((c.region.bind s.region).map fun r => s.elemStack r 0).getD 0
      rduFault q k
    if c.reduces then writeSums v c else ownLands v .clean 0 c
    if c.touched then upd (·.spoilColl c)
    tellAll q 2 []
    upd fun s =>
      let s := match c.region with
        | some r => s.releaseRegion r
        | none => s
      let s := { s with colls := s.colls.filter fun x => !decide (x.src = q) }
      let s := if p < 63 then s.bump64 (p + 1) .coll 0 0x60 1 else s
      if c.nonfin ≠ 0 then s.markCode 0x2A05 0 p else s
    pure (.done (if c.nonfin = 0 then 0 else 0x2A05) c.shed
      (c.nonfin + (BitVec.ofInt 16 c.base).toNat * 2 ^ 32) 0)

/-- COLL_FINAL_EXCHANGE. -/
def execCollFinalExchange (q : QSrc) (up : Upset) (env : Env) (s : State) : Host.Outcome State Fault Refusal :=
  forCommand q (finalBody q up env) s

end Sys2Proof.Machine
end

