-- ==== Sys2Proof/Machine/TileScalar.lean ====
section
/-!
DEFINITION. Tile code, classes 0x0 (but END), 0x1, 0x7 and 0x8: control, scalar, check, WAIT (R82 to R85, R94, R95).
-/

namespace Sys2Proof.Machine

/-! ## Control, class 0x0 -/

/-- NOP (R82). -/
def execNop (t : TileOp) (s : State) : Host.Outcome State Fault Refusal :=
  tileOp t (fits t false false false 0 0) (fun _ x => pure x.step) s

/-- JMP (R82): pc ← pc + IMM. -/
def execJmp (t : TileOp) (s : State) : Host.Outcome State Fault Refusal :=
  tileOp t (fits t false false false 0 immAll) (fun _ x => jumpTo x (simm t)) s

/-- A conditional branch on sA and sB. -/
def branchIf (t : TileOp) (c : Word64 → Word64 → Bool) (s : State) : Host.Outcome State Fault Refusal :=
  tileOp t (fits t true true false 0 immAll) (fun _ x =>
    if c (x.sreg t.a) (x.sreg t.b) then jumpTo x (simm t) else pure x.step) s

/-- BEQ (R82). -/
def execBeq (t : TileOp) (s : State) : Host.Outcome State Fault Refusal :=
  branchIf t (fun a b => a == b) s

/-- BNE (R82). -/
def execBne (t : TileOp) (s : State) : Host.Outcome State Fault Refusal :=
  branchIf t (fun a b => a != b) s

/-- BLTU (R82). -/
def execBltu (t : TileOp) (s : State) : Host.Outcome State Fault Refusal :=
  branchIf t (fun a b => decide (a.toNat < b.toNat)) s

/-- LOOP (R82): sA ← sA - 1; branch if the new sA is not zero. s0 stays zero, so LOOP s0 does not branch (log entry 25). -/
def execLoop (t : TileOp) (s : State) : Host.Outcome State Fault Refusal :=
  tileOp t (fits t true false false 0 immAll) (fun _ x =>
    let y := x.setS t.a (x.sreg t.a - 1)
    if y.sreg t.a ≠ 0 then jumpTo y (simm t) else pure y.step) s

/-! ## Scalar, class 0x1 -/

/-- sA ← sB op sC (R83). -/
def aluOp (t : TileOp) (f : Word64 → Word64 → Word64) (s : State) : Host.Outcome State Fault Refusal :=
  tileOp t (fits t true true true 0 0) (fun _ x => pure (x.setS t.a (f (x.sreg t.b) (x.sreg t.c))).step) s

/-- sA ← sB op IMM (R83). -/
def aluImm (t : TileOp) (f : Word64 → Word64 → Word64) (s : State) : Host.Outcome State Fault Refusal :=
  tileOp t (fits t true true false 0 immAll) (fun _ x => pure (x.setS t.a (f (x.sreg t.b) (simm t))).step) s

/-- Shifts by bits [5:0] of the amount (R83). -/
def shlW (a b : Word64) : Word64 := a <<< (b.toNat % 64)
def shrW (a b : Word64) : Word64 := a >>> (b.toNat % 64)
def sraW (a b : Word64) : Word64 := a.sshiftRight (b.toNat % 64)
/-- The smaller and the larger, unsigned. -/
def minuW (a b : Word64) : Word64 := if b.toNat < a.toNat then b else a
def maxuW (a b : Word64) : Word64 := if a.toNat < b.toNat then b else a
/-- Division (R83): by zero, all ones, and the dividend for the remainder. -/
def divuW (a b : Word64) : Word64 := if b = 0 then BitVec.allOnes 64 else a / b
def remuW (a b : Word64) : Word64 := if b = 0 then a else a % b

/-- ADD (R83). -/
def execAdd (t : TileOp) (s : State) : Host.Outcome State Fault Refusal := aluOp t (· + ·) s

/-- SUB (R83). -/
def execSub (t : TileOp) (s : State) : Host.Outcome State Fault Refusal := aluOp t (· - ·) s

/-- AND (R83). -/
def execAnd (t : TileOp) (s : State) : Host.Outcome State Fault Refusal := aluOp t (· &&& ·) s

/-- OR (R83). -/
def execOr (t : TileOp) (s : State) : Host.Outcome State Fault Refusal := aluOp t (· ||| ·) s

/-- XOR (R83). -/
def execXor (t : TileOp) (s : State) : Host.Outcome State Fault Refusal := aluOp t (· ^^^ ·) s

/-- SHL (R83). -/
def execShl (t : TileOp) (s : State) : Host.Outcome State Fault Refusal := aluOp t shlW s

/-- SHR (R83). -/
def execShr (t : TileOp) (s : State) : Host.Outcome State Fault Refusal := aluOp t shrW s

/-- SRA (R83). -/
def execSra (t : TileOp) (s : State) : Host.Outcome State Fault Refusal := aluOp t sraW s

/-- MINU (R83). -/
def execMinu (t : TileOp) (s : State) : Host.Outcome State Fault Refusal := aluOp t minuW s

/-- MAXU (R83). -/
def execMaxu (t : TileOp) (s : State) : Host.Outcome State Fault Refusal := aluOp t maxuW s

/-- MUL (R83). -/
def execMul (t : TileOp) (s : State) : Host.Outcome State Fault Refusal := aluOp t (· * ·) s

/-- DIVU (R83). -/
def execDivu (t : TileOp) (s : State) : Host.Outcome State Fault Refusal := aluOp t divuW s

/-- REMU (R83). -/
def execRemu (t : TileOp) (s : State) : Host.Outcome State Fault Refusal := aluOp t remuW s

/-- ADDI (R83). -/
def execAddi (t : TileOp) (s : State) : Host.Outcome State Fault Refusal := aluImm t (· + ·) s

/-- SUBI (R83). -/
def execSubi (t : TileOp) (s : State) : Host.Outcome State Fault Refusal := aluImm t (· - ·) s

/-- ANDI (R83). -/
def execAndi (t : TileOp) (s : State) : Host.Outcome State Fault Refusal := aluImm t (· &&& ·) s

/-- ORI (R83). -/
def execOri (t : TileOp) (s : State) : Host.Outcome State Fault Refusal := aluImm t (· ||| ·) s

/-- XORI (R83). -/
def execXori (t : TileOp) (s : State) : Host.Outcome State Fault Refusal := aluImm t (· ^^^ ·) s

/-- SHLI (R83). -/
def execShli (t : TileOp) (s : State) : Host.Outcome State Fault Refusal := aluImm t shlW s

/-- SHRI (R83). -/
def execShri (t : TileOp) (s : State) : Host.Outcome State Fault Refusal := aluImm t shrW s

/-- SRAI (R83). -/
def execSrai (t : TileOp) (s : State) : Host.Outcome State Fault Refusal := aluImm t sraW s

/-- MINUI (R83). -/
def execMinui (t : TileOp) (s : State) : Host.Outcome State Fault Refusal := aluImm t minuW s

/-- MAXUI (R83). -/
def execMaxui (t : TileOp) (s : State) : Host.Outcome State Fault Refusal := aluImm t maxuW s

/-- MULI (R83). -/
def execMuli (t : TileOp) (s : State) : Host.Outcome State Fault Refusal := aluImm t (· * ·) s

/-- DIVUI (R83). -/
def execDivui (t : TileOp) (s : State) : Host.Outcome State Fault Refusal := aluImm t divuW s

/-- REMUI (R83). -/
def execRemui (t : TileOp) (s : State) : Host.Outcome State Fault Refusal := aluImm t remuW s

/-- LI (R83): sA ← IMM. -/
def execLi (t : TileOp) (s : State) : Host.Outcome State Fault Refusal :=
  tileOp t (fits t true false false 0 immAll) (fun _ x => pure (x.setS t.a (simm t)).step) s

/-- LUI (R83): the upper half of sA ← IMM. -/
def execLui (t : TileOp) (s : State) : Host.Outcome State Fault Refusal :=
  tileOp t (fits t true false false 0 immAll) (fun _ x =>
    pure (x.setS t.a (t.imm ++ (x.sreg t.a).setWidth 32)).step) s

/-- LDS (R84): sA ← 8 bytes at Forme sB + IMM. -/
def execLds (t : TileOp) (s : State) : Host.Outcome State Fault Refusal :=
  tileOp t (fits t true true false 0 immAll) (fun a x => do
    let d ← readForme a x t.up (x.sreg t.b + (simm t)).toNat 8 8
    pure (x.setS t.a (BitVec.ofNat 64 (ofLe d))).step) s

/-- STS (R84): 8 bytes at Forme sB + IMM ← sC. -/
def execSts (t : TileOp) (s : State) : Host.Outcome State Fault Refusal :=
  tileOp t (fits t false true true 0 immAll) (fun a x => do
    writeForme a x (x.sreg t.b + (simm t)).toNat (leBytes 8 (x.sreg t.c).toNat) 8
    pure x.step) s

/-- RDSIZE (R85): sA ← a DEV_SIZES word as the context sees it. -/
def execRdsize (t : TileOp) (s : State) : Host.Outcome State Fault Refusal :=
  tileOp t (fits t true false false 0 immAll) (fun a x => do
    need (decide (t.imm.toNat ≤ 4)) 0x1024
    let v ← look (·.ctxSizes a.ctx t.imm.toNat)
    pure (x.setS t.a (BitVec.ofNat 64 v)).step) s

/-- The rank of a cluster among those of its partition (R85). -/
def State.clusterIndex (s : State) (c cl : Nat) : Nat :=
  ((s.clustersOf (s.ctx c).part.toNat).filter fun k => decide (k < cl)).length

/-- RDID (R85): sA ← the cluster's index in the partition, its physical number, or the context number. -/
def execRdid (t : TileOp) (s : State) : Host.Outcome State Fault Refusal :=
  tileOp t (fits t true false false 0 immAll) (fun a x => do
    need (decide (t.imm.toNat ≤ 2)) 0x1024
    let i ← look (·.clusterIndex a.ctx a.cl)
    pure (x.setS t.a (BitVec.ofNat 64 (if t.imm = 0 then i else if t.imm = 1 then a.cl else a.ctx))).step) s

/-- MOVG (R83): g(A & 7) ← sB[11:0]. -/
def execMovg (t : TileOp) (s : State) : Host.Outcome State Fault Refusal :=
  tileOp t (fits t true true false 0 0 && decide (t.a.toNat < 8)) (fun _ x =>
    pure (x.setG t.a.toNat ((x.sreg t.b).setWidth 12)).step) s

/-- RDG (R83): sA ← g(B & 7). -/
def execRdg (t : TileOp) (s : State) : Host.Outcome State Fault Refusal :=
  tileOp t (fits t true true false 0 0 && decide (t.b.toNat < 8)) (fun _ x =>
    pure (x.setS t.a ((x.greg t.b.toNat).setWidth 64)).step) s

/-! ## Check, class 0x7 -/

/-- CHKEQ (chapter 4, class 0x7): fault unless sB = sC. -/
def execChkeq (t : TileOp) (s : State) : Host.Outcome State Fault Refusal :=
  tileOp t (fits t false true true 0 0) (fun _ x => do
    need (x.sreg t.b == x.sreg t.c) 0x102D
    pure x.step) s

/-- PTILE (R94): the Proof tile identifier ← sB. -/
def execPtile (t : TileOp) (s : State) : Host.Outcome State Fault Refusal :=
  tileOp t (fits t false true false 0 0) (fun _ x => pure { x with ptid := x.sreg t.b }.step) s

/-! ## WAIT, class 0x8 (R95) -/

/-- Every write of a context to device memory has reached its controller: none waits at the egress gate (R261, R356). -/
def State.stored (s : State) (c : Nat) : Bool :=
  !s.inflight.any fun k => ctxOf k.src == c && s.memBusy k.src

/-- WAIT: holds issue until the agents in X[3:0] are done. Vector stores write as they issue, and a drain's row is accepted as it
is written, but for one of a staging object, which waits at the egress gate. -/
def execWait (t : TileOp) (s : State) : Host.Outcome State Fault Refusal :=
  tileOp t (fits t false false false 15 0) (fun a x => do
    need (t.x != 0) 0x1024
    let k ← onCluster a id
    let stored ← look (·.stored a.ctx)
    if (t.x.getLsbD 0 && !k.arrayDone a.n x) || ((t.x.getLsbD 1 || t.x.getLsbD 3) && !k.drainsDone a.n)
      || (t.x.getLsbD 3 && !stored) then waitHere
    pure x.step) s

end Sys2Proof.Machine
end

