-- ==== Sys2Proof/Machine/Exec.lean ====
section
/-!
DEFINITION. Tile programs as commands (chapters 4, 6, 9): EXEC_TILE, EXEC_LAYERS and its runs, END, TBND and the late boundary.
-/

namespace Sys2Proof.Machine

/-! ## Code objects (R100 to R102) -/

/-- What a code object's header gives. -/
structure CodeInfo where
  off      : Nat
  words    : Nat
  tableAt  : Nat
  starts   : List Nat
  formeMin : Nat
  galMin   : Nat

/-- The checks of R100 on the 64 header bytes. -/
def headerOk (h : Nat) (len : Nat) : Bool :=
  field h 0 4 == 0x54394C49 && field h 4 2 == 1 && field h 6 2 == 0 && field h 8 4 % 64 == 0
    && countOk (field h 12 4) 262144 && countOk (field h 16 2) 64 && field h 18 2 == 0
    && countOk (field h 20 2) 128 && countOk (field h 22 2) 4096 && field h 22 2 % 128 == 0 && field h 28 36 == 0
    && decide (field h 8 4 + 8 * field h 12 4 ≤ len) && decide (field h 24 4 + 4 * field h 16 2 ≤ len)

/-- Read and check a code object's header and entry table (R101): 0x1020 when they break R100. -/
def readCode (v : Via) (part h : Nat) : M CodeInfo := do
  let (_, o) ← getObj part h
  need (decide (64 ≤ o.len)) 0x1020
  let n := ofLe (← objRead v .exec o 0 64)
  need (headerOk n o.len) 0x1020
  let words := field n 12 4
  let cnt := field n 16 2
  let t ← objRead v .exec o (field n 24 4) (4 * cnt)
  let starts := (List.range cnt).map fun i => leAt t (4 * i) 4
  need (starts.all fun e => decide (e < words)) 0x1020
  pure { off := field n 8 4, words := words, tableAt := field n 24 4, starts := starts, formeMin := field n 20 2,
         galMin := field n 22 2 }

/-- The code needs no more than the context's share (R101). -/
def codeFits (c : Nat) (k : CodeInfo) : M Unit := do
  let sh ← look (·.shareOf c)
  need (decide (k.formeMin ≤ sh.1) && decide (k.galMin ≤ sh.2)) 0x1021

/-- The pages of an object from a byte on. -/
def pagesOf (start len : Nat) : List Nat :=
  (List.range ((start % 4096 + len + 4095) / 4096)).map (· + start / 4096)

/-- The context's permission to execute a code object (R102): no range covers a page, or only ranges without EXEC. A byte that
no range covers is met before one without EXEC (log entry 196). The fault address recorded is zero. -/
def execAllowed (c h : Nat) (k : CodeInfo) : M Unit := do
  let x ← look (·.ctx c)
  let covers := fun (p : Nat) (r : MapRange) =>
    r.handle.toNat == h && decide (r.off ≤ p * 4096) && decide (p * 4096 < r.off + r.len)
  let pages := pagesOf k.off (8 * k.words) ++ pagesOf k.tableAt (4 * k.starts.length)
  let code := if pages.any fun p => !x.ranges.any (covers p) then 0x1901
    else if pages.any fun p => !x.ranges.any fun r => r.exec && covers p r then 0x1902 else 0
  if code ≠ 0 then
    upd fun s => s.iommuFault c x.part.toNat 0 code false true
    flt code

/-! ## Placing shares and starting programs -/

/-- Place a context's shares where they are not placed (R381). -/
def placeShares (c p : Nat) : M Unit := do
  if (← look (·.ctx c)).placed.isNone then
    match ← look (·.fit c p fun _ => true) with
    | some x => upd (·.place c p x)
    | none =>
      let alone ← look (·.fit c p (·.pinned))
      need alone.isSome 0x1B01
      waitHere

/-- One command of a context uses its slots at a time: a second one waits. -/
def slotsFree (q : QSrc) : M Unit := do
  let busy ← look fun s => s.inflight.any fun k =>
    !decide (k.src = q) && ctxOf k.src == ctxOf q && usesClusters k.op.toNat && k.started
  if busy then waitHere

/-- Scalar registers s1 on. -/
def argTab (l : List Word64) : Tab Word64 :=
  ((List.range l.length).zip l).foldl (fun t e => tput 0 t (e.1 + 1) e.2) []

/-- A slot as a program starts (R73). -/
def startSlot (c : Nat) (x : Placed) (p : Prog) : Slot :=
  { newSlot c x with prog := some p, pc := p.entry, s := argTab p.args }

/-- Start a program of a context on every cluster of its partition (R67: work wakes an IDLE cluster). `prog` gives the program
by cluster index. -/
def State.startTiles (s : State) (q : QSrc) (prog : Nat → Prog) : State :=
  let c := ctxOf q
  let p := s.partOf q
  match (s.ctx c).placed with
  | none => s
  | some x =>
    let l := s.clustersOf p
    let s := ((List.range l.length).zip l).foldl (fun (t : State) e =>
      let k := t.cluster e.2
      let closing := ((k.slot x.slot).map (·.closing)).getD false
      t.setCluster e.2 { k.setSlot x.slot (some { startSlot c x (prog e.1) with closing := closing }) with
        worked := true, pwr := if k.pwr = .idle then .active else k.pwr }) s
    (s.setCmd q fun k => { k with left := l.map (BitVec.ofNat 7) }).runHolder p

/-- Start the programs of a command again with the same arguments (R137, point 6). -/
def State.restartTiles (s : State) (q : QSrc) : State :=
  let c := ctxOf q
  let p := s.partOf q
  match (s.ctx c).placed with
  | none => s
  | some x =>
    let l := s.clustersOf p
    let s := l.foldl (fun (t : State) e =>
      match (t.cluster e).slot x.slot with
      | some y =>
        match y.prog with
        | some g => t.setCluster e ((t.cluster e).setSlot x.slot (some (startSlot c x g)))
        | none => t
      | none => t) s
    (s.setCmd q fun k => { k with left := l.map (BitVec.ofNat 7), reruns := k.reruns + 1 }).runHolder p

/-- EXEC_TILE (R73, R101, R102, R381). -/
def tileBody (q : CmdIn) (d : Nat) : M Fin := do
  let c := ctxOf q.src
  let v : Via := { src := q.src, env := q.env }
  let p ← look (·.partOf q.src)
  slotsFree q.src
  let h := field d 8 4
  let k ← readCode v p h
  codeFits c k
  match k.starts[field d 12 1]? with
  | none => flt 0x1022
  | some pc =>
    execAllowed c h k
    placeShares c p
    takeHold q.src h
    let args := (List.range 6).map fun i => BitVec.ofNat 64 (field d (16 + 8 * i) 8)
    upd (·.startTiles q.src fun _ => { src := q.src, words := k.words, entry := pc, args := args, quiet := false })
    pure (.runs .tiles)

/-- EXEC_TILE. -/
def execExecTile (q : CmdIn) (s : State) : Host.Outcome State Fault Refusal :=
  descriptor { op := 0x11, issuer := fromC, fields := fun d => bodyOnly d [(8, 4), (12, 1), (16, 48)], body := tileBody } q s

/-! ## EXEC_LAYERS: the descriptor and the table (R197 to R199, R206 to R211, R214) -/

def lyrBwd (d : Nat) : Bool := (field d 18 1).testBit 0
def lyrNew (d : Nat) : Bool := (field d 18 1).testBit 1
def lyrFall (d : Nat) : Bool := (field d 18 1).testBit 2

/-- Check 2 of R350: TABLE and COUNT; what is FWD only or BWD only is zero in the other direction; the stash operands are read
only with NEW. -/
def lyrFields (d : Nat) : Bool :=
  bodyOnly d [(8, 37), (48, 8)] && field d 18 1 < 8 && field d 8 8 % 64 == 0 && countOk (field d 16 2) 4096
    && (!lyrBwd d || (!lyrNew d && !lyrFall d)) && (lyrBwd d || field d 44 1 == 0) && decide (field d 44 1 ≤ 64)
    && (!lyrNew d || (decide (field d 19 1 ≤ 127) && field d 24 8 % 64 == 0 && field d 40 4 % 64 == 0))

/-- The bytes that R198 leaves out are zero, and the fields keep their ranges. -/
def entryForm (e : BitVec 1024) : Bool :=
  entryAt e 11 1 == 0 && entryAt e 20 4 == 0 && entryAt e 40 24 == 0 && entryAt e 112 16 == 0
    && decide (entryAt e 8 2 < 4096) && decide (entryAt e 10 1 < 4) && entryAt e 12 4 % 64 == 0

/-- An entry-point byte names an entry of the code object, or none. -/
def startOf (k : CodeInfo) (b : Nat) : Option Nat := if b = 0xFF then some 0 else k.starts[b]?

/-- Whether an entry has a run. -/
def hasRun (e : BitVec 1024) (off : Nat) : Bool := entryAt e off 1 != 0xFF

/-- The fence slots of an entry lie within the context's rights (R199). -/
def State.entryFences (s : State) (c : Nat) (e : BitVec 1024) : Bool :=
  let may := fun slot wait =>
    match s.fence slot with
    | some f => f.may c wait
    | none => false
  (!(entryAt e 10 1).testBit 0 || may (entryAt e 16 2) true) && (!(entryAt e 10 1).testBit 1 || may (entryAt e 18 2) false)

/-- An IN_VALUE or a WG_VALUE above its fence's RELEASE (R337, R338). -/
def State.entryRange (s : State) (e : BitVec 1024) : Bool :=
  let ok := fun slot v =>
    match s.fence slot with
    | some f => decide (v ≤ f.release.toNat)
    | none => true
  (!(entryAt e 10 1).testBit 0 || ok (entryAt e 16 2) (entryAt e 24 8))
    && (!(entryAt e 10 1).testBit 1 || ok (entryAt e 18 2) (entryAt e 32 8))

/-- Check one entry; its code's instruction count and starts, and FORME_MIN. -/
def checkEntry (q : CmdIn) (p : Nat) (bwd : Bool) (i : Nat) (e : BitVec 1024) (earlier : List (BitVec 1024)) :
    M (List Nat × Nat) := do
  let c := ctxOf q.src
  let okF ← look (·.entryFences c e)
  need (entryForm e && (if bwd then hasRun e 5 || hasRun e 6 else hasRun e 4) && okF
    && earlier.all fun x => entryAt x 8 2 != entryAt e 8 2) 0x1A50 i
  let k ← readCode { src := q.src, env := q.env } p (entryAt e 0 4)
  codeFits c k
  match startOf k (entryAt e 4 1), startOf k (entryAt e 5 1), startOf k (entryAt e 6 1), startOf k (entryAt e 7 1) with
  | some a, some b, some g, some r =>
    execAllowed c (entryAt e 0 4) k
    takeHold q.src (entryAt e 0 4)
    pure ([k.words, a, b, g, r], k.formeMin)
  | _, _, _, _ => flt 0x1A50 i

/-- The bytes of a new stash that each cluster of the partition has in its object (R206). -/
def State.stashShare (s : State) (p d : Nat) : Nat := field d 32 8 / ((s.clustersOf p).length * 64) * 64

/-- The checks of a command with NEW 1 on its stash (R206, R380), and its hold on the object. -/
def checkStash (q : CmdIn) (d : Nat) (p formeMin : Nat) : M Unit := do
  let c := ctxOf q.src
  let (_, o) ← getObj p (field d 20 4)
  let x ← look (·.ctx c)
  let sh ← look (·.shareOf c)
  let share ← look (·.stashShare p d)
  need (!o.host && decide (field d 24 8 + field d 32 8 ≤ o.len) && decide (field d 19 1 + formeMin ≤ sh.1)
    && decide (field d 40 4 ≤ share) && (x.pinned || field d 19 1 == 0)) 0x1A54
  takeHold q.src (field d 20 4)

/-- A new stash takes the place of the context's old one, and holds its object (R207). -/
def State.newStash (s : State) (c p d : Nat) : State :=
  let share := s.stashShare p d
  let s := (s.dropStash c).addHold (field d 20 4 % 2 ^ 20) 1
  s.setCtx c { s.ctx c with stash := some {
    formeBytes := field d 19 1 * 65536, obj := BitVec.ofNat 32 (field d 20 4), off := field d 24 8, share := share,
    reserve := field d 40 4, sizesGen := (s.part p).sizesGen, tokens := BitVec.ofNat 64 (field d 48 4), formeCur := 0,
    dramCur := 0, recompute := false, layers := [] } }

/-- The stash of a command with NEW 0: it has not been invalidated, its TOKENS are the same, and the layers of the table are
absent from it in FWD, present in BWD (R208, R211, R214). -/
def useStash (c p : Nat) (d : Nat) (l : List (BitVec 1024)) : M Unit := do
  let x ← look (·.ctx c)
  let gen ← look fun s => (s.part p).sizesGen
  let have' := (x.stash.map (·.layers)).getD []
  match x.stash with
  | some h =>
    need (h.tokens.toNat == field d 48 4) 0x1A51
    need (h.sizesGen == gen) 0x1A54
  | none => pure ()
  need (l.all fun e => have'.any (fun y => y.layer == entryAt e 8 2) == lyrBwd d) 0x1A53

/-- EXEC_LAYERS at dispatch. -/
def layersBody (q : CmdIn) (d : Nat) : M Fin := do
  let c := ctxOf q.src
  let p ← look (·.partOf q.src)
  slotsFree q.src
  let n := field d 16 2
  let raw ← vread { src := q.src, env := q.env } .copy 0x1901 (field d 8 8) (128 * n)
  let l := (List.range n).map fun i => BitVec.ofNat 1024 (leAt raw (128 * i) 128)
  let codes ← ((List.range n).zip l).mapM fun e => checkEntry q p (lyrBwd d) e.1 e.2 (l.take e.1)
  let ranges ← look fun s => l.all s.entryRange
  need ranges 0x1A0A
  need (countOk (field d 48 4) 1048576 && decide (field d 48 4 ≤ field d 52 4) && decide (field d 52 4 ≤ 8388608)) 0x1A51
  if lyrNew d then checkStash q d p (codes.foldl (fun m k => max m k.2) 0)
  else useStash c p d l
  placeShares c p
  if lyrNew d then upd (·.newStash c p d)
  let scales ← look fun s => (s.tensorsOf c).map fun e => (e.1, e.2.xNow)
  pure (.runs (.layers {
    entries := l, code := codes.map (·.1), scales := scales, bwd := lyrBwd d, fallback := lyrFall d
    deferMax := if field d 44 1 = 0 then 4 else field d 44 1
    tokens := BitVec.ofNat 64 (field d 48 4), jobTokens := BitVec.ofNat 64 (field d 52 4), next := 0, recompOf := none
    run := none, deferred := [], signal := none, place := none }))

/-- EXEC_LAYERS. -/
def execExecLayers (q : CmdIn) (s : State) : Host.Outcome State Fault Refusal :=
  descriptor { op := 0x12, issuer := fromC, fields := lyrFields, body := layersBody } q s

/-! ## Runs of EXEC_LAYERS (R200 to R213) -/

/-- The table index of a position. -/
def LayerRun.index (r : LayerRun) (pos : Nat) : Nat := if r.bwd then r.entries.length - 1 - pos else pos

/-- The entry of a position. -/
def LayerRun.entry (r : LayerRun) (pos : Nat) : BitVec 1024 := r.entries.getD (r.index pos) 0

/-- The context virtual address of a byte of an object: by its lowest range; where none maps it, a free value, since the spec
states no address (log entry 29). -/
def State.vaOf (s : State) (c h off : Nat) : Word64 × State :=
  let l := (s.ctx c).ranges.filter fun r => r.handle.toNat == h && decide (r.off ≤ off) && decide (off < r.off + r.len)
  match l.foldl (fun (b : Option Nat) r =>
      let va := r.va + (off - r.off)
      match b with
      | none => some va
      | some w => some (min w va)) none with
  | some va => (BitVec.ofNat 64 va, s)
  | none => let x := s.fresh; (x.1.setWidth 64, x.2)

/-- The phase number of s8. -/
def RunKind.code : RunKind → Nat
  | .fwd => 0
  | .dgrad => 1
  | .wgrad => 2
  | .recomp => 3

/-- s7 and s8 of a run on cluster index i (R200, R206, R212), from the layer's record in the stash, or from the slice that is
placed for its FWD run. -/
def State.runArgs (s : State) (c : Nat) (e : BitVec 1024) (y : Option StashLayer) (kind : RunKind) (i : Nat) :
    (Word64 × Nat) × State :=
  match (s.ctx c).stash, y with
  | some h, some y =>
    let handle := h.obj.toNat
    if y.recompute then
      if kind = .fwd ∨ !hasRun e 7 then ((0, kind.code + 16), s)
      else
        let a := s.vaOf c handle (h.off + i * h.share + h.share - h.reserve)
        ((a.1, kind.code + (if kind = .recomp then 16 else 20)), a.2)
    else if y.bytes = 0 then ((0, kind.code), s)
    else if y.inForme then ((BitVec.ofNat 64 ((s.shareOf c).1 * 65536 - h.formeBytes + y.off), kind.code + 12), s)
    else
      let a := s.vaOf c handle (h.off + i * h.share + y.off)
      ((a.1, kind.code + 4), a.2)
  | _, _ => ((0, kind.code), s)

/-- The record of a layer in a context's stash. -/
def State.stashLayer (s : State) (c layer : Nat) : Option StashLayer :=
  (s.ctx c).stash.bind fun h => h.layers.find? fun y => y.layer == layer

/-- Store the progress of an EXEC_LAYERS command. -/
def State.setRun (s : State) (q : QSrc) (r : LayerRun) : State := s.setCmd q fun k => { k with stage := .layers r }

/-- Start a run of a layer (R200). -/
def State.startRun (s : State) (q : QSrc) (r : LayerRun) (pos : Nat) (kind : RunKind) : State :=
  let c := ctxOf q
  let e := r.entry pos
  let code := r.code.getD (r.index pos) []
  let y := if kind = .fwd then r.place else s.stashLayer c (entryAt e 8 2)
  let n := (s.clustersOf (s.partOf q)).length
  let (l, s) := (List.range n).foldl (fun (acc : List (Word64 × Nat) × State) i =>
    let a := acc.2.runArgs c e y kind i
    (acc.1 ++ [a.1], a.2)) ([], s)
  let args := (List.range 6).map fun i => BitVec.ofNat 64 (entryAt e (64 + 8 * i) 8)
  let s := s.setRun q { r with run := some (pos, kind) }
  s.startTiles q fun i =>
    let a := l.getD i (0, 0)
    { src := q, words := code.getD 0 0, quiet := decide (kind = .recomp)
      entry := code.getD (match kind with | .fwd => 1 | .dgrad => 2 | .wgrad => 3 | .recomp => 4) 0
      args := args ++ [a.1, BitVec.ofNat 64 a.2, r.tokens, r.jobTokens] }

/-- Place the slice of a layer (R209, R210); none where the stash is exhausted. -/
def State.placeSlice (s : State) (c : Nat) (r : LayerRun) (pos : Nat) : Option (StashLayer × State) :=
  let e := r.entry pos
  let n := entryAt e 12 4
  let one : Bool → Nat → Bool → StashLayer := fun inForme off rec =>
    { layer := entryAt e 8 2, inForme := inForme, off := off, bytes := n, recompute := rec }
  let store := fun (h : Stash) => s.setCtx c { s.ctx c with stash := some h }
  match (s.ctx c).stash with
  | none => if n = 0 then some (one false 0 false, s) else none
  | some h =>
    if h.recompute then some (one false 0 true, s)
    else if n = 0 then some (one false 0 false, s)
    else if h.formeCur + n ≤ h.formeBytes then
      some (one true h.formeCur false, store { h with formeCur := h.formeCur + n })
    else if h.dramCur + n ≤ h.share - h.reserve then
      some (one false h.dramCur false, store { h with dramCur := h.dramCur + n })
    else if r.fallback && ((List.range r.entries.length).drop pos).all fun i =>
        hasRun (r.entry i) 7 && decide (entryAt (r.entry i) 12 4 ≤ h.reserve) then
      some (one false 0 true, store { h with recompute := true })
    else none

/-- The layer-run state of a command, where it may start a run: nothing of it runs and its context goes on. -/
def State.layersIdle (s : State) (q : QSrc) : Option LayerRun :=
  match s.cmdOf q with
  | some k =>
    match k.stage with
    | .layers r => if r.run.isNone ∧ r.signal.isNone ∧ (s.ctx (ctxOf q)).alive then some r else none
    | _ => none
  | none => none

/-- LAYER_BOUNDARY (R201, R209, R210): the next layer's slice is placed and its FWD run starts. -/
def execLayerBoundary (src : QSrc) (s : State) : Host.Outcome State Fault Refusal :=
  match s.layersIdle src with
  | none => .next s
  | some r =>
    if r.bwd || decide (r.entries.length ≤ r.next) then .next s
    else
      match s.placeSlice (ctxOf src) r r.next with
      | none => .next (s.fail src 0x1A52 0 0).settle
      | some (y, t) => .next (t.startRun src { r with place := some y } r.next .fwd).settle

/-- A layer is in recompute mode and has a RECOMP run (R212). -/
def State.recomputes (s : State) (c : Nat) (e : BitVec 1024) : Bool :=
  hasRun e 7 && ((s.stashLayer c (entryAt e 8 2)).map (·.recompute)).getD false

/-- What BWD_RUN_SELECT decides (R203). -/
inductive BwdPick where
  | run (pos : Nat) (kind : RunKind) (r : LayerRun)
  | wait (r : LayerRun)
  | bad (code : Nat)
  | finished (r : LayerRun)

/-- Start a deferred WGRAD run, which leaves the list. -/
def takeWgrad (r : LayerRun) (p : Nat) : BwdPick := .run p .wgrad { r with deferred := r.deferred.filter (· != p) }

/-- Start the RECOMP run of a layer, after every other deferred WGRAD of a recompute-mode layer (R212): first those whose own
RECOMP ran before their DGRAD, then those of layers without DGRAD, each after its own RECOMP. -/
def State.pickRecomp (s : State) (c : Nat) (r : LayerRun) (pos : Nat) : BwdPick :=
  let l := r.deferred.filter fun p => p != pos && s.recomputes c (r.entry p)
  match l.find? fun p => hasRun (r.entry p) 5, l with
  | some p, _ => takeWgrad r p
  | none, p :: _ => .run p .recomp r
  | none, [] => .run pos .recomp r

/-- Start a deferred WGRAD run: a recompute-mode layer without DGRAD runs its RECOMP first. -/
def State.pickWgrad (s : State) (c : Nat) (r : LayerRun) (pos : Nat) : BwdPick :=
  if s.recomputes c (r.entry pos) && !hasRun (r.entry pos) 5 then s.pickRecomp c r pos else takeWgrad r pos

/-- A fence has reached a value; one that is gone was abandoned at its RELEASE (R341). -/
def State.fenceReached (s : State) (slot : Nat) (v : Word64) : Bool :=
  match s.fence slot with
  | some f => decide (v.toNat ≤ f.value.toNat)
  | none => true

/-- Rule 3 of R203: the next layer's DGRAD starts, after its RECOMP, or waits for its fence; a wait that ends with a code faults
the command (R338). -/
def State.pickDgrad (s : State) (c : Nat) (r : LayerRun) (w : Option Nat) : BwdPick :=
  match w with
  | some 0 => if s.recomputes c (r.entry r.next) then s.pickRecomp c r r.next else .run r.next .dgrad r
  | some code => .bad code
  | none => .wait r

/-- The rules of R203 and R212, in order; a layer without DGRAD only adds its WGRAD to the deferred list. -/
def State.pickBwd (s : State) (c : Nat) : Nat → LayerRun → BwdPick
  | 0, r => .wait r
  | fuel + 1, r =>
    let pick := r.deferred.head?
    match r.recompOf with
    | some p =>
      let r := { r with recompOf := none }
      if hasRun (r.entry p) 5 then .run p .dgrad r
      else .run p .wgrad { r with deferred := r.deferred.filter (· != p) }
    | none =>
      if r.deferMax ≤ r.deferred.length then
        match pick with
        | some p => s.pickWgrad c r p
        | none => .wait r
      else if r.entries.length ≤ r.next then
        match pick with
        | some p => s.pickWgrad c r p
        | none => .finished r
      else
        let e := r.entry r.next
        if !hasRun e 5 then s.pickBwd c fuel { r with deferred := r.deferred ++ [r.next], next := r.next + 1 }
        else
          let waits := (entryAt e 10 1).testBit 0
          let slot := entryAt e 16 2
          let v := BitVec.ofNat 64 (entryAt e 24 8)
          match pick with
          | some p =>
            if waits && !s.fenceReached slot v then s.pickWgrad c r p
            else s.pickDgrad c r (if waits then s.waitEnd slot v else some 0)
          | none => s.pickDgrad c r (if waits then s.waitEnd slot v else some 0)

/-- The completion code of an EXEC_LAYERS command. -/
def State.endLayers (s : State) (q : QSrc) : State :=
  match s.cmdOf q with
  | some k => s.finish q (if k.fellBack then 0x1506 else 0) 0 0 0
  | none => s

/-- BWD_RUN_SELECT (R203, R212). -/
def execBwdRunSelect (src : QSrc) (s : State) : Host.Outcome State Fault Refusal :=
  match s.layersIdle src with
  | none => .next s
  | some r =>
    if !r.bwd then .next s
    else
      match s.pickBwd (ctxOf src) (r.entries.length + 1) r with
      | .run p kind r => .next (s.startRun src r p kind).settle
      | .wait r => .next (s.setRun src r).settle
      | .bad code => .next (s.fail src code 0 0).settle
      | .finished r => .next ((s.setRun src r).endLayers src).settle

/-- The end of a run of EXEC_LAYERS. -/
def State.layerEnded (s : State) (q : QSrc) (r : LayerRun) : State :=
  match r.run with
  | none => s
  | some (pos, kind) =>
    let e := r.entry pos
    let r := { r with run := none }
    match kind with
    | .fwd =>
      let s := match (s.ctx (ctxOf q)).stash, r.place with
        | some h, some y => s.setCtx (ctxOf q) { s.ctx (ctxOf q) with stash := some { h with layers := h.layers ++ [y] } }
        | _, _ => s
      let s := s.setRun q { r with next := pos + 1, place := none }
      if r.entries.length ≤ pos + 1 then s.endLayers q else s
    | .recomp => s.setRun q { r with recompOf := some pos }
    | .dgrad => s.setRun q { r with next := pos + 1, deferred := if hasRun e 6 then r.deferred ++ [pos] else r.deferred }
    | .wgrad => s.setRun q { r with signal := if (entryAt e 10 1).testBit 1 then some pos else none }

/-- Nothing of a BWD command is left to run. -/
def LayerRun.spent (r : LayerRun) : Bool :=
  r.bwd && decide (r.entries.length ≤ r.next) && r.deferred.isEmpty && r.run.isNone && r.signal.isNone && r.recompOf.isNone

/-- Complete an EXEC_LAYERS command of which nothing is left to run. -/
def State.endIfSpent (s : State) (q : QSrc) : State :=
  match s.cmdOf q with
  | some k =>
    match k.stage with
    | .layers r => if r.spent then s.endLayers q else s
    | _ => s
  | none => s

/-- WGRAD_FENCE_SIGNAL (R204): the completed WGRAD run's fence is signalled, once its writes have reached their controllers. -/
def execWgradFenceSignal (src : QSrc) (s : State) : Host.Outcome State Fault Refusal :=
  match s.cmdOf src with
  | none => .next s
  | some k =>
    match k.stage with
    | .layers r =>
      match r.signal with
      | none => .next s
      | some pos =>
        let e := r.entry pos
        let v := BitVec.ofNat 64 (entryAt e 32 8)
        let use := s.fenceUse (ctxOf src) (entryAt e 18 2) v false
        if s.memBusy src then .next s
        else if use ≠ 0 then .next (s.fail src use 0 0).settle
        else if s.mirrorDenied src then .next (s.fail src 0x1805 0 0).settle
        else
          .next (((s.setRun src { r with signal := none }).signal src (entryAt e 18 2) v).endIfSpent src).settle
    | _ => .next s

/-! ## The end of a program (R64, R82, R96, R137) -/

/-- The end of a run of a command on its last cluster (R137). `q` is the quadrant that reports a stop. -/
def State.runEnded (s : State) (src : QSrc) (q : Nat) : State :=
  match s.cmdOf src with
  | none => s
  | some k =>
    let c := ctxOf src
    match s.ovfEnd c with
    | .stops => (if s.ovfStops c then s else s.enterFallback c).fail src 0x1503 0 q
    | .reruns => (s.raiseScales c).restartTiles src
    | e =>
      let fell := decide (e = .falls)
      let s := (if fell then s.enterFallback c else s).settleMax c
      match k.stage with
      | .layers r => ((s.setCmd src fun x => { x with fellBack := x.fellBack || fell }).layerEnded src r).endIfSpent src
      | _ => s.finish src (if fell then 0x1506 else 0) 0 0 0

/-- The conditions of a tile boundary (R96): nothing of the context is in the array, its drains have written their last rows,
and its streams have delivered every line in flight. -/
def atTileBoundary (a : TileAt) (x : Slot) : M Unit := do
  let k ← onCluster a id
  if !k.arrayDone a.n x || !k.drainsDone a.n || x.streams.any (fun e => (e.2.map fun m => !m.flight.isEmpty).getD false) then
    waitHere

/-- At a tile boundary v0 to v31, k and the top-k list are undefined (R63, R64): free values. -/
def State.freeVectors (s : State) (cl : Nat) : State :=
  let n := s.freeCtr
  let k := (Config.free n).toNat % 1025
  let word := fun i => Config.free (n + 34 + i)
  let s := { s with freeCtr := n + 34 + 1024 }
  s.setCluster cl { s.cluster cl with
    v := (List.range 32).foldl (fun t r => tput 0 t r (Config.free (n + 2 + r))) []
    k := k
    topk := (List.range ((Config.free (n + 1)).toNat % (k + 1))).map fun i =>
      ((word i).setWidth 32, ((word i) >>> 32).setWidth 32) }

/-- What a boundary brings: a debug hold of the cluster takes effect, and a teardown that waits for it goes on. -/
def State.boundaryReached (s : State) (a : TileAt) : State :=
  let s := s.freeVectors a.cl
  let s := if s.dbg.hold && s.dbg.cl.toNat == a.cl then { s with dbg := { s.dbg with held := true } } else s
  s.tearAdvance a.ctx

/-- TBND (R96). -/
def execTbnd (t : TileOp) (s : State) : Host.Outcome State Fault Refusal :=
  tileThen t (fits t false false false 0 0) (fun a u => (u.boundaryReached a).settle) (fun a x => do
    atTileBoundary a x
    pure { x.step with boundary := true }) s

/-- What END brings beyond the boundary: the cluster has ended the program; the last one ends the command's run. -/
def State.programEnd (s : State) (a : TileAt) : State :=
  let s := s.setCluster a.cl { s.cluster a.cl with running := none }
  let s := s.setCmd a.src fun k => { k with left := k.left.filter (·.toNat != a.cl) }
  if (s.ctx a.ctx).state = .teardown then s
  else
    match s.cmdOf a.src with
    | some k => if k.left.isEmpty then s.runEnded a.src (a.cl / 32) else s
    | none => s

/-- END (R82, R96, R81). -/
def execEndProg (t : TileOp) (s : State) : Host.Outcome State Fault Refusal :=
  tileThen t (fits t false false false 0 0) (fun a u => ((u.programEnd a).boundaryReached a).settle) (fun a x => do
    atTileBoundary a x
    pure { x with ended := true, streams := [], boundary := true }) s

/-- BOUNDARY_LATE_EXPIRY (R65). -/
def execBoundaryLateExpiry (cl : BitVec 7) (s : State) : Host.Outcome State Fault Refusal :=
  match s.issues cl.toNat with
  | none => .next s
  | some (a, _, _) => .next (s.tileExit s a.cl a.ctx a.src (.fault 0x1003 0 0))

/-- RESERVED_INSTRUCTION (R75): a reserved class or operation. -/
def execReservedInstruction (cls : BitVec 4) (op : BitVec 6) (t : TileOp) (s : State) : Host.Outcome State Fault Refusal :=
  if (Instr.reservedInstruction cls op t).wellFormed then tileOp t true (fun _ _ => flt 0x1023) s
  else .refused .otherRow

end Sys2Proof.Machine
end

