-- ==== Sys2Proof/Machine/TileStream.lean ====
section
/-!
DEFINITION. Stream setup, class 0x2 of tile code, and the stream engines (R52 to R54, R84, R86, R87, R97 to R99, R522).
-/

namespace Sys2Proof.Machine

/-! ## Descriptors (R97) -/

/-- Byte offset and width of a descriptor field, by field id. -/
def descField (id : Nat) : Option (Nat × Nat) :=
  [(0, 8), (8, 8), (16, 8), (24, 4), (28, 4), (32, 2), (34, 2), (36, 2), (38, 2), (40, 1), (42, 4)][id]?

/-- A descriptor with one field replaced by a value, truncated to the field's width. -/
def setField (d : BitVec 512) (off len v : Nat) : BitVec 512 :=
  BitVec.ofNat 512 (d.toNat - field d.toNat off len * 2 ^ (8 * off) + v % 2 ^ (8 * len) * 2 ^ (8 * off))

/-- Set field X of dA. -/
def dsetTo (t : TileOp) (x : Slot) (v : Nat) : M Slot :=
  match descField t.x.toNat with
  | none => flt 0x1024
  | some (off, len) => pure (x.setD t.a.toNat (setField (x.dreg t.a.toNat) off len v)).step

/-- DSET (R97): field X of dA ← sB. -/
def execDset (t : TileOp) (s : State) : Host.Outcome State Fault Refusal :=
  tileOp t (fits t true true false 127 0 && decide (t.a.toNat < 16)) (fun _ x => dsetTo t x (x.sreg t.b).toNat) s

/-- DSETI (R97): field X of dA ← IMM, zero-extended. -/
def execDseti (t : TileOp) (s : State) : Host.Outcome State Fault Refusal :=
  tileOp t (fits t true false false 127 immAll && decide (t.a.toNat < 16)) (fun _ x => dsetTo t x t.imm.toNat) s

/-- DLD (R84): dA ← 64 bytes at Forme sB + IMM. -/
def execDld (t : TileOp) (s : State) : Host.Outcome State Fault Refusal :=
  tileOp t (fits t true true false 0 immAll && decide (t.a.toNat < 16)) (fun a x => do
    let d ← readForme a x t.up (x.sreg t.b + simm t).toNat 64 64
    pure (x.setD t.a.toNat (BitVec.ofNat 512 (ofLe d))).step) s

/-- DST (R84): 64 bytes at Forme sB + IMM ← dA. -/
def execDst (t : TileOp) (s : State) : Host.Outcome State Fault Refusal :=
  tileOp t (fits t true true false 0 immAll && decide (t.a.toNat < 16)) (fun a x => do
    writeForme a x (x.sreg t.b + simm t).toNat (leBytes 64 (x.dreg t.a.toNat).toNat) 64
    pure x.step) s

/-- DMOV: dA ← dB. -/
def execDmov (t : TileOp) (s : State) : Host.Outcome State Fault Refusal :=
  tileOp t (fits t true true false 0 0 && decide (t.a.toNat < 16) && decide (t.b.toNat < 16)) (fun _ x =>
    pure (x.setD t.a.toNat (x.dreg t.b.toNat)).step) s

/-- The fields of a stream's descriptor. -/
def dBase (d : BitVec 512) : Nat := field d.toNat 0 8
def dExtent (d : BitVec 512) : Nat := field d.toNat 8 8
def dTileStride (d : BitVec 512) : Nat := field d.toNat 16 8
def dChunkStride (d : BitVec 512) : Nat := field d.toNat 24 4
def dRowStride (d : BitVec 512) : Nat := field d.toNat 28 4
def dRowLines (d : BitVec 512) : Nat := field d.toNat 32 2
def dRows (d : BitVec 512) : Nat := field d.toNat 34 2
def dChunks (d : BitVec 512) : Nat := field d.toNat 36 2
def dTiles (d : BitVec 512) : Nat := field d.toNat 38 2
def dFmt (d : BitVec 512) : Nat := field d.toNat 40 1 % 16
def dTranspose (d : BitVec 512) : Bool := (field d.toNat 40 1).testBit 4
def dRowValid (d : BitVec 512) : Nat := field d.toNat 42 4

/-- E of R99: the rows of a transpose group. -/
def dGroup (d : BitVec 512) : Nat := 512 / codeWidth (dFmt d)

/-- Check 2 of R522: format code, reserved bytes, counts and strides. -/
def descOk (d : BitVec 512) : Bool :=
  decide (dFmt d ≤ 9) && field d.toNat 40 1 / 32 == 0 && field d.toNat 41 1 == 0 && field d.toNat 46 18 == 0
    && dBase d % 64 == 0 && dExtent d / 2 ^ 48 == 0
    && dTileStride d % 64 == 0 && dChunkStride d % 64 == 0 && dRowStride d % 64 == 0
    && countOk (dRowLines d) 4096 && countOk (dRows d) 4096 && countOk (dChunks d) 4096 && countOk (dTiles d) 65535

/-- ATTACH (R86, R87, R99, R522). Line 0 of the order begins at BASE, so only an EXTENT of 0 leaves no line to fetch. -/
def execAttach (t : TileOp) (s : State) : Host.Outcome State Fault Refusal :=
  tileOp t (fits t true true false 3 immAll && decide (t.a.toNat < 16)) (fun _ x => do
    let d := x.dreg t.a.toNat
    let ring := (x.sreg t.b).toNat
    let size := t.imm.toNat
    need (x.stream t.x.toNat).isNone 0x1028
    need (descOk d) 0x1027
    need (!(dTranspose d && isMx (dFmt d))) 0x1102
    need (!dTranspose d || dRows d % dGroup d == 0) 0x1027
    need (dExtent d != 0) 0x1027
    need (countOk size 131072 && decide (16 ≤ size) && ring % 64 == 0 && decide (ring + 64 * size ≤ x.formeSize)
      && (!dTranspose d || decide (dGroup d ≤ size))) 0x1027
    pure (x.setStream t.x.toNat (some { desc := d, ring := ring, size := size, fetched := 0, arrived := 0, consumed := 0,
                                        flight := [], group := [], stopped := false })).step) s

/-- DETACH (R86): stops fetching, waits for the lines in flight, detaches. Nothing, when the stream is not attached. -/
def execDetach (t : TileOp) (s : State) : Host.Outcome State Fault Refusal :=
  tileOp t (fits t false false false 3 0) (fun _ x =>
    match x.stream t.x.toNat with
    | none => pure x.step
    | some m =>
      if m.flight.isEmpty then pure (x.setStream t.x.toNat none).step
      else pure (x.setStream t.x.toNat (some { m with stopped := true }))) s

/-- SOW_CTRL.LOOKAHEAD_MAX of a cluster, clamped to 64 to 2,048. -/
def State.lookMax (s : State) (cl : Nat) : Nat := max 64 (min 2048 (s.reg 0 .sow cl 0x10 0x800 % 4096))

/-- The lookahead limit of a stream (R52). -/
def State.lookahead (s : State) (cl : Nat) (m : Stream) : Nat := min m.size (min (s.lookMax cl) 2048)

/-- The stream of a step, or the fault of one that is not attached. -/
def attached (x : Slot) (n : Nat) : M Stream :=
  match x.stream n with
  | some m => pure m
  | none => flt 0x1028

/-- WAITR (R86): waits until IMM lines have arrived from the consume pointer on. -/
def execWaitr (t : TileOp) (s : State) : Host.Outcome State Fault Refusal :=
  tileOp t (fits t false false false 3 immAll) (fun a x => do
    let m ← attached x t.x.toNat
    let n := t.imm.toNat
    let lim ← look (·.lookahead a.cl m)
    need (countOk n lim) 0x1028
    if m.arrived < m.consumed + n then waitHere
    pure x.step) s

/-- CONSUME (R86): releases IMM lines. -/
def execConsume (t : TileOp) (s : State) : Host.Outcome State Fault Refusal :=
  tileOp t (fits t false false false 3 immAll) (fun _ x => do
    let m ← attached x t.x.toNat
    need (decide (m.consumed + t.imm.toNat ≤ m.arrived)) 0x1028
    pure (x.setStream t.x.toNat (some { m with consumed := m.consumed + t.imm.toNat })).step) s

/-- The Forme address, in the share, of ring slot n of the fetch order (R87). -/
def ringAddr (m : Stream) (n : Nat) : Nat := m.ring + 64 * (n % m.size)

/-- RINGPTR: sA ← the address of the slot at the consume pointer. -/
def execRingptr (t : TileOp) (s : State) : Host.Outcome State Fault Refusal :=
  tileOp t (fits t true false false 3 0) (fun _ x => do
    let m ← attached x t.x.toNat
    pure (x.setS t.a (BitVec.ofNat 64 (ringAddr m m.consumed))).step) s

/-! ## The stream engines -/

/-- Lines of the whole order (R98). -/
def dTotal (d : BitVec 512) : Nat := dTiles d * dChunks d * dRows d * dRowLines d

/-- The n-th source line in fetch order (R98; with TRANSPOSE, R99 takes the rows in groups and, within a group, line by
line): its address and its offset from its row's start. -/
def sourceLine (d : BitVec 512) (n : Nat) : Nat × Nat :=
  let per := dRows d * dRowLines d
  let c := n / per % dChunks d
  let t := n / (per * dChunks d)
  let m := n % per
  let e := dGroup d
  let (r, l) :=
    if dTranspose d then
      let g := m / (e * dRowLines d)
      let k := m % (e * dRowLines d)
      (g * e + k % e, k / e)
    else (m / dRowLines d, m % dRowLines d)
  let off := c * dChunkStride d + l * 64
  (dBase d + t * dTileStride d + r * dRowStride d + off, off)

/-- The bytes of a line that are fetched: a prefix, since every line begins at or beyond BASE and its row's start (R98). -/
def sourceBytes (d : BitVec 512) (addr off : Nat) : Nat :=
  let a := min 64 (dBase d + dExtent d - addr)
  if dRowValid d = 0 then a else min a (dRowValid d - off)

/-- A step of a stream engine of the slot that a cluster runs. -/
def engineStep (cl : BitVec 7) (n : Nat) (body : TileAt → Slot → Stream → M Stream) (s : State) :
    Host.Outcome State Fault Refusal :=
  match s.issues cl.toNat with
  | none => .next s
  | some (a, x, _) =>
    match x.stream n with
    | none => .next s
    | some m =>
      match body a x m s with
      | .ok m u =>
        .next (match (u.cluster a.cl).slot a.n with
          | some y => u.putSlot a (y.setStream n (some m))
          | none => u)
      | .error e u => .next (s.tileExit u a.cl a.ctx a.src e)

/-- Read a source line's fetched bytes; a failed translation is recorded in SOW_FAULT_ADDR (R53). -/
def sowRead (a : TileAt) (env : Env) (va len : Nat) : M (List Byte) := fun s =>
  match vread { src := a.src, env := env } .clRead 0x1101 va len s with
  | .error (.fault 0x1101 d i) t =>
    .error (.fault 0x1101 d i) (t.setCluster a.cl { t.cluster a.cl with sowFault := BitVec.ofNat 64 va })
  | r => r

/-- SOW_LINE_FETCH (R52, R53, R98): the engine issues its next line where its lookahead and the lines in flight allow. -/
def execSowLineFetch (cl : BitVec 7) (st : BitVec 2) (env : Env) (s : State) : Host.Outcome State Fault Refusal :=
  engineStep cl st.toNat (fun a _ m => do
    let lim ← look (·.lookahead a.cl m)
    if m.stopped || decide (dTotal m.desc ≤ m.fetched) || decide (lim ≤ m.fetched - m.consumed)
      || decide (256 ≤ m.flight.length) then waitHere
    let (addr, off) := sourceLine m.desc m.fetched
    let n := sourceBytes m.desc addr off
    let b ← sowRead a env addr n
    pure { m with fetched := m.fetched + 1, flight := m.flight ++ [lineAt 0 b] }) s

/-- Element k of a line of elements of w bits. -/
def lineElem (d : LineData) (w k : Nat) : Nat := (d.toNat >>> (w * k)) % 2 ^ w

/-- The E lines that a transpose group gives (R99). -/
def transposed (w : Nat) (g : List LineData) : List LineData :=
  (List.range g.length).map fun k =>
    BitVec.ofNat 512 (g.foldr (fun d acc => acc * 2 ^ w + lineElem d w k) 0)

/-- SOW_LINE_ARRIVE (R53, R87, R99): the oldest line in flight enters the ring; with TRANSPOSE, the lines of a whole group
enter once its last one has arrived. -/
def execSowLineArrive (cl : BitVec 7) (st : BitVec 2) (s : State) : Host.Outcome State Fault Refusal :=
  engineStep cl st.toNat (fun a x m => do
    match m.flight with
    | [] => waitHere
    | d :: rest =>
      let lines :=
        if !dTranspose m.desc then [d]
        else if m.group.length + 1 = dGroup m.desc then transposed (codeWidth (dFmt m.desc)) (m.group ++ [d])
        else []
      let group := if dTranspose m.desc && lines.isEmpty then m.group ++ [d] else []
      updCluster a fun k => ((List.range lines.length).zip lines).foldl (fun (k : Cluster) p =>
        k.setForme ((x.formeBase + ringAddr m (m.arrived + p.1)) / 64) p.2) k
      pure { m with flight := rest, group := group, arrived := m.arrived + lines.length }) s

end Sys2Proof.Machine
end

