-- ==== Sys2Proof/Machine/TileArray.lean ====
section
/-!
DEFINITION. The matrix array: PASS, class 0x3 of tile code, the run of a pass and the settling of its rows (R46, R55, R56, R88,
R89, R115, R116), with the Proof unit's choice of passes (R279, R280).
-/

namespace Sys2Proof.Machine

/-! ## Forms of a pass -/

/-- The chunk and the largest KCH of a pair of format codes (R46, R88); none for a pair that R46 does not list. -/
def passForm (a b : Nat) : Option (Nat × Nat) :=
  if a = 6 ∧ b = 6 then some (256, 16)
  else if a ≤ 5 ∧ b ≤ 5 then some (128, 16)
  else if (a = 7 ∨ a = 8) ∧ (b = 7 ∨ b = 8) then some (128, 8)
  else if a = 9 ∧ b = 9 then some (128, 1)
  else none

/-- The chunk of a format (R89). -/
def fmtChunk (c : Nat) : Nat := if c = 6 then 256 else 128

/-- Bytes of a slice of a block (R89). -/
def sliceBytes (c : Nat) : Nat := fmtChunk c * codeWidth c / 8

/-- Bytes of a block, its scales with it (R89). -/
def blockBytes (c : Nat) : Nat := 128 * sliceBytes c + (if isMx c then 128 * (fmtChunk c / 32) else 0)

/-- Lines of a block. -/
def blockLines (c : Nat) : Nat := blockBytes c / 64

/-- A value times 2^e. -/
def Num.shift (x : Num) (e : Int) : Num :=
  match x with
  | .fin n m d => .fin n m (d + e)
  | y => y

/-- A value under an E8M0 scale (R106). -/
def mxScaled (x : Num) (scale : Nat) : Num := if scale = 255 then .nan else x.shift ((scale : Int) - 127)

/-- Element k of slice i of a block held as a number (R89, R105, R106). -/
def blockElem (c blk i k : Nat) : Num :=
  match Fmt.ofCode c with
  | none => .nan
  | some f =>
    let x := f.decode ((blk >>> (8 * sliceBytes c * i + f.width * k)) % 2 ^ f.width)
    if isMx c then mxScaled x (field blk (128 * sliceBytes c + i * (fmtChunk c / 32) + k / 32) 1) else x

/-! ## Arithmetic (R115, R116) -/

/-- The leading 8 significant bits of an integer, in place. -/
def top8 (m : Nat) : Nat := (m >>> (m.log2 - 7)) <<< (m.log2 - 7)

/-- The six cross products of the FP32 split, of two significands (R116). -/
def splitMul (a b : Nat) : Nat :=
  let a1 := top8 a
  let a2 := top8 (a - a1)
  let a3 := a - a1 - a2
  let b1 := top8 b
  let b2 := top8 (b - b1)
  let b3 := b - b1 - b2
  a1 * b1 + a1 * b2 + a2 * b1 + a2 * b2 + a1 * b3 + a3 * b1

/-- A product of a pass: exact, or in FP32 the six products of R116. -/
def passMul (c : Nat) (x y : Num) : Num :=
  match x, y with
  | .fin a m e, .fin b n d => if c = 9 then .fin (a != b) (splitMul m n) (e + d) else Num.mul x y
  | _, _ => Num.mul x y

/-- The contribution of a chunk to word j of row r (R115), as a GW40 pattern. -/
def contribution (ca cb ba bb r j : Nat) : Nat :=
  Fmt.GW40.ofNum ((List.range (fmtChunk ca)).foldl (fun (acc : Num) k =>
    acc.add (passMul ca (blockElem ca ba r k) (blockElem cb bb j k))) (.fin false 0 0))

/-- Word + contribution (R115). -/
def accumulate (w c : Nat) : Nat := Fmt.GW40.ofNum ((Fmt.GW40.decode w).add (Fmt.GW40.decode c))

/-- One chunk of a pass: every word of its 128 rows. -/
def Cluster.runChunk (k : Cluster) (p : Pass) (ba bb : Nat) : Cluster :=
  (List.range 128).foldl (fun (k : Cluster) r =>
    k.setGalRow (p.row + r) fun j =>
      let c := contribution p.fa.toNat p.fb.toNat ba bb r j
      if p.ow && p.done == 0 then c else accumulate (k.galWord (p.row + r) j) c) k

/-! ## Proof units (R279, R280, R285) -/

/-- The Proof unit that serves a quadrant: its own, the one joined to it by a bridge link, or any online unit. -/
def State.unitFor (s : State) (q : Nat) : Option Nat :=
  [q, q ^^^ 1, 0, 1, 2, 3].find? fun u => (s.unit u).online

/-- RL of R279 for a pass of a context on a cluster. -/
def State.rateLog (s : State) (cl c : Nat) : Nat :=
  let x := s.ctx c
  let dense := match x.denseTo with
    | some n => decide (x.steps.toNat < n.toNat)
    | none => false
  if (s.cluster cl).health = .suspect then 0
  else min (bits s.prfCtrl 15 12) (if dense then 4 else 12)

/-- Whether the Proof unit samples a pass (R279). -/
def State.samples (s : State) (cl c : Nat) (id : Word64) : Bool :=
  (s.unitFor (cl / 32)).isSome &&
    ((Config.shake256 (leBytes 32 s.sec.seed.toNat ++ leBytes 2 c ++ leBytes 8 id.toNat)).toNat % 2 ^ 16)
      % 2 ^ s.rateLog cl c == 0

/-- What a pass holds of a capture buffer. -/
def passBytes (fa fb kch : Nat) : Nat := kch * (blockBytes fa + blockBytes fb)

/-- CRC-64 by the ECMA-182 polynomial, most significant bit first, from zero (R280; log entry 188). -/
def crc64 (l : List Byte) : Word64 :=
  l.foldl (fun c b => (List.range 8).foldl (fun (c : Word64) _ =>
    if c.msb then (c <<< 1) ^^^ 0x42F0E1EBA9EA3693 else c <<< 1) (c ^^^ ((b.setWidth 64 : Word64) <<< (56 : Nat)))) 0

/-- The CRC-64 of a chunk's 16,384 contributions, row by row, word 0 first (R280). -/
def chunkCrc (fa fb : Nat) (ba bb : Nat) : Word64 :=
  crc64 ((List.range 128).flatMap fun r => (List.range 128).flatMap fun j => leBytes 5 (contribution fa fb ba bb r j))

/-- What a captured pass holds of the buffer. -/
def Capture.bytes (k : Capture) : Nat := passBytes k.fa.toNat k.fb.toNat k.blocks.length

/-- A BF16, FP16 or FP32 pass (R284). -/
def Capture.wide (k : Capture) : Bool := decide (7 ≤ k.fa.toNat)

/-- What the captured passes and the sampled passes in the arrays hold of a unit's capture buffer (R280). -/
def State.captured (s : State) (u : Nat) : Nat :=
  let one := fun (n : Nat) (p : Option Pass) =>
    match p with
    | some p => if p.sampled then n + passBytes p.fa.toNat p.fb.toNat p.kch else n
    | none => n
  (s.unit u).queue.foldl (fun n c => n + c.bytes)
    (s.clusters.foldl (fun n e => if s.unitFor (e.1 / 32) = some u then one (one n e.2.passRun) e.2.passWait else n) 0)

/-- The capture buffer of a cluster's Proof unit has no room for a pass (R280). -/
def State.captureFull (s : State) (cl bytes : Nat) : Bool :=
  match s.unitFor (cl / 32) with
  | some u => decide (2 ^ 21 < s.captured u + bytes)
  | none => false

/-! ## Issue -/

/-- A source of a pass: resident, or an attached stream of the operand's format (R88). -/
def Slot.sourceOk (x : Slot) (src code : Nat) : Bool :=
  decide (src = 4) || (decide (src < 4) && match x.stream src with
    | some m => dFmt m.desc == code
    | none => false)

/-- PASS (R55, R88, R89, R94). It stalls while a pass waits, and a sampled pass while its operands do not fit the capture
buffer. The A or B field of an operand that is a stream may hold anything (log entry 194). -/
def issuePass (ow : Bool) (t : TileOp) (s : State) : Host.Outcome State Fault Refusal :=
  tileOp t (fits t true true false 0x70 0xFFFFEFFF) (fun a x => do
    let i := t.imm.toNat
    let fa := bits i 31 28
    let fb := bits i 27 24
    let sa := bits i 23 21
    let sb := bits i 20 18
    let kch := bits i 17 13
    match passForm fa fb with
    | none => flt 0x1026
    | some (_, top) =>
      need (countOk kch top && x.sourceOk sa fa && x.sourceOk sb fb) 0x1026
      need ((sa != 4 || (x.sreg t.a).toNat % 64 == 0) && (sb != 4 || (x.sreg t.b).toNat % 64 == 0)) 0x1029
      let row := (x.greg (t.x.toNat / 16)).toNat + bits i 11 0
      need (decide (row + 128 ≤ x.galRows)) 0x1201
      let k ← onCluster a id
      if k.passWait.isSome then waitHere
      let sampled ← look (·.samples a.cl a.ctx x.ptid)
      if sampled then
        let full ← look (·.captureFull a.cl (passBytes fa fb kch))
        if full then waitHere
      updCluster a fun k => { k with worked := true, passWait := some {
        slot := a.n, ow := ow, fa := BitVec.ofNat 4 fa, fb := BitVec.ofNat 4 fb, srcA := BitVec.ofNat 3 sa,
        srcB := BitVec.ofNat 3 sb, addrA := x.sreg t.a, addrB := x.sreg t.b, kch := kch, row := x.galBase + row,
        ptid := x.ptid, done := 0, behind := k.drains.length, sampled := sampled, got := [], crcs := [] } }
      pure { x with ptid := x.ptid + 1 }.step) s

/-- PASS.ACC. -/
def execPassAcc (t : TileOp) (s : State) : Host.Outcome State Fault Refusal := issuePass false t s

/-- PASS.OW. -/
def execPassOw (t : TileOp) (s : State) : Host.Outcome State Fault Refusal := issuePass true t s

/-! ## The run of a pass -/

/-- The slot of an operation that the cluster holds, with its command. -/
def State.slotAt (s : State) (cl n : Nat) : Option (TileAt × Slot) :=
  match (s.cluster cl).slot n with
  | some x => x.prog.map fun p => ({ cl := cl, n := n, ctx := x.ctx.toNat, src := p.src }, x)
  | none => none

/-- Block `c` of an operand, as a number: from the ring, whose lines are released (R89), or resident. None while a line has
not arrived. -/
def readBlock (a : TileAt) (src : Nat) (addr : Word64) (code c : Nat) : M (Option Nat) := do
  let k ← onCluster a id
  match k.slot a.n with
  | none => pure none
  | some x =>
    if src = 4 then
      let p ← formeAddr x (addr.toNat + c * blockBytes code) (blockBytes code)
      pure (some (ofLe (k.formeRead p (blockBytes code))))
    else
      match x.stream src with
      | none => pure none
      | some m =>
        let n := blockLines code
        if m.arrived < m.consumed + n then pure none
        else
          let b := (List.range n).flatMap fun i =>
            lineSlice (k.formeLine ((x.formeBase + ringAddr m (m.consumed + i)) / 64)) 0 64
          updCluster a fun k => k.setSlot a.n (some (x.setStream src (some { m with consumed := m.consumed + n })))
          pure (some (ofLe b))

/-- The chunks of the running pass whose operands have arrived. -/
def passChunks (a : TileAt) : Nat → M Unit
  | 0 => pure ()
  | fuel + 1 => do
    match ← onCluster a (·.passRun) with
    | none => pure ()
    | some p =>
      let before ← look id
      match ← readBlock a p.srcA.toNat p.addrA p.fa.toNat p.done with
      | none => pure ()
      | some ba =>
        match ← readBlock a p.srcB.toNat p.addrB p.fb.toNat p.done with
        | none => upd fun _ => before
        | some bb =>
          let q := if p.sampled then
              { p with got := p.got ++ [(ba, bb)], crcs := p.crcs ++ [chunkCrc p.fa.toNat p.fb.toNat ba bb] }
            else p
          updCluster a fun k => { k.runChunk p ba bb with passRun := some { q with done := p.done + 1 } }
          if p.done + 1 < p.kch then passChunks a fuel

/-- The end of a pass in the array: it is counted, and a sampled one is captured (R280). -/
def passEnd (a : TileAt) (p : Pass) : M Unit := do
  updCluster a fun k => { k with passRun := none, passes := k.passes + 1 }
  if p.sampled then
    upd fun s =>
      match s.unitFor (a.cl / 32) with
      | none => s
      | some u =>
        s.setUnit u { s.unit u with queue := (s.unit u).queue ++ [{
          cl := BitVec.ofNat 7 a.cl, ctx := BitVec.ofNat 12 a.ctx, part := (s.ctx a.ctx).part,
          cmd := ((s.cmdOf a.src).map (·.seq)).getD 0, id := p.ptid, fa := p.fa, fb := p.fb, blocks := p.got, crcs := p.crcs,
          own := [], row := p.row, found := false, void := false, gone := false, referee := none }] }

/-- Rows of a pass. -/
def Pass.rows (p : Pass) : List Nat := (List.range 128).map (p.row + ·)

/-- A row range names a row of another. -/
def rowsMeet (r n r' n' : Nat) : Bool := decide (r < r' + n') && decide (r' < r + n)

/-- A waiting pass may start: no drain issued before it has still to read one of its rows (R56). -/
def Cluster.mayStart (k : Cluster) (p : Pass) : Bool :=
  (k.drains.take p.behind).all fun d => !rowsMeet d.row d.rows p.row 128

/-- After an operation of a stopped slot has finished: the slots of the cluster that are done are zeroed, and what waited for that
goes on (R66). -/
def State.closeStep (s : State) (cl : Nat) : State :=
  let k := s.cluster cl
  if k.slots.any fun e => (e.2.map fun x => x.closing).getD false then
    (s.setCluster cl (k.slots.foldl (fun (k : Cluster) e => k.closeSlot e.1) k)).settle
  else s

/-- A pass of a stopped slot ends in the array: it is counted, and its results are discarded with its rows (R66). -/
def State.voidPass (s : State) (cl : Nat) : State :=
  let k := s.cluster cl
  (s.setCluster cl { k with passRun := none, passes := k.passes + 1 }).closeStep cl

/-- PASS_START (R46, R56, R115): the waiting pass starts once the array is free and its rows are, and a running pass goes on
where its next block has arrived (R53). One of a stopped slot only finishes (R66). -/
def execPassStart (cl : BitVec 7) (up : Upset) (s : State) : Host.Outcome State Fault Refusal :=
  let k := s.cluster cl.toNat
  let start : Option (Pass × Cluster) :=
    match k.passRun, k.passWait with
    | some p, _ => some (p, k)
    | none, some p =>
      if k.mayStart p then
        some (p, { k with passRun := some p, passWait := none,
                          unsettled := k.unsettled ++ p.rows.filter fun r => !k.unsettled.contains r })
      else none
    | none, none => none
  match start with
  | none => .next s
  | some (p, k) =>
    if k.voidSlot p.slot then .next ((s.setCluster cl.toNat k).voidPass cl.toNat) else
    match s.slotAt cl.toNat p.slot with
    | none => .next s
    | some (a, _) =>
      let body : M Unit := do
        passChunks a p.kch
        match ← onCluster a (·.passRun) with
        | none => pure ()
        | some q =>
          if p.done < q.done then formeUpset a up
          if q.done = q.kch then passEnd a q
      match body (s.setCluster cl.toNat k) with
      | .ok _ u => .next u
      | .error e u => .next (s.tileExit u a.cl a.ctx a.src e)

/-- The last captured pass over a row of a cluster has a finding: a disagreement of its check is none beside it (R286). -/
def State.markFound (s : State) (cl r : Nat) : State :=
  let mine := fun (k : Capture) => k.cl.toNat == cl && decide (k.row ≤ r) && decide (r < k.row + 128)
  s.onCaptures fun l =>
    let n := (l.filter mine).length
    (l.foldl (fun (a : List Capture × Nat) k =>
      if mine k then (a.1 ++ [{ k with found := k.found || a.2 + 1 == n }], a.2 + 1) else (a.1 ++ [k], a.2)) ([], 0)).1

/-- The running pass has still to write a row. -/
def Cluster.inTree (k : Cluster) (r : Nat) : Bool :=
  match k.passRun with
  | some p => rowsMeet p.row 128 r 1
  | none => false

/-- ROW_SETTLE (R55, R61, R276): a row whose products have left the tree is settled, or its residue check fails. The check of a
stopped slot's row faults nothing (R66). -/
def execRowSettle (cl : BitVec 7) (row : BitVec 12) (up : Upset) (s : State) : Host.Outcome State Fault Refusal :=
  let k := s.cluster cl.toNat
  let r := row.toNat
  if !k.unsettled.contains r || k.inTree r then .next s
  else
    let t := s.setCluster cl.toNat { k with unsettled := k.unsettled.filter (· != r) }
    let owner := (List.range 32).findSome? fun n =>
      match s.slotAt cl.toNat n with
      | some (a, x) => if x.galBase ≤ r ∧ r < x.galBase + x.galRows ∧ !x.closing then some a else none
      | none => none
    match owner, up with
    | some a, .residue => .next (s.tileExit (t.markFound a.cl r) a.cl a.ctx a.src (.fault 0x1002 0 0))
    | _, _ => .next (t.closeStep cl.toNat)

end Sys2Proof.Machine
end

