-- ==== Sys2Proof/Machine/TileDrain.lean ====
section
/-!
DEFINITION. Drains (R47, R55 to R61, R90 to R92, R107, R111 to R113, R117, R118): DRAIN, class 0x4 of tile code, the start of a
drain with its epilogue, and the writing of its rows to memory.
-/

namespace Sys2Proof.Machine

/-- DRAIN (R55, R78, R90, R91). It stalls while three drains wait in the Gleaner. -/
def execDrain (t : TileOp) (s : State) : Host.Outcome State Fault Refusal :=
  tileOp t (fits t true true false 0x70 0x01FFFFFF) (fun a x => do
    let i := t.imm.toNat
    let rows := bits i 24 12
    let row := (x.greg (t.x.toNat / 16)).toNat + bits i 11 0
    need (countOk rows 4096) 0x1024
    let _ ← formeAligned x (x.sreg t.b).toNat 64 64
    need (decide (row + rows ≤ x.galRows)) 0x1201
    let k ← onCluster a id
    if 3 ≤ k.drains.length then waitHere
    updCluster a fun k => { k with worked := true, drains := k.drains ++ [
      { slot := a.n, row := x.galBase + row, rows := rows, dest := x.sreg t.a, recAt := x.sreg t.b }] }
    pure x.step) s

/-! ## The epilogue record (R90) -/

def epiFlags (r : Nat) : Nat := field r 0 4
def epiBias (r : Nat) : Bool := (epiFlags r).testBit 0
def epiAct (r : Nat) : Nat := bits (epiFlags r) 3 1
def epiRes (r : Nat) : Nat := bits (epiFlags r) 5 4
def epiFmt (r : Nat) : Nat := bits (epiFlags r) 9 6
def epiZero (r : Nat) : Bool := (epiFlags r).testBit 10
def epiMem (r : Nat) : Bool := (epiFlags r).testBit 11
def epiDqSrc (r : Nat) : Bool := (epiFlags r).testBit 12
def epiOsSrc (r : Nat) : Bool := (epiFlags r).testBit 13
def epiAmax (r : Nat) : Bool := (epiFlags r).testBit 14

/-- The checks of R91. -/
def epiOk (r : Nat) : Bool :=
  decide (epiAct r ≤ 4) && epiRes r != 3 && decide (epiFmt r ≤ 9) && epiFlags r / 2 ^ 15 == 0
    && field r 10 2 == 0 && field r 36 28 == 0 && field r 32 4 % 64 == 0
    && (!epiBias r || field r 20 4 % 64 == 0)
    && (epiRes r == 0 || (field r 24 4 % 64 == 0 && field r 28 4 % 64 == 0))

/-! ## The steps of an element (R58, R117, R118) -/

/-- The activation of step 4. Squared ReLU beyond the FP32 range is +∞ (log entry 197). -/
def activate (act : Nat) (v : Word32) : Word32 :=
  match act with
  | 1 => toF32 (f32 v).relu
  | 2 => toF32 (f32 v).gelu
  | 3 => toF32 (f32 v).silu
  | 4 => toF32 (f32 v).sqrelu
  | _ => v

/-- What one element gives before step 8: the FP32 value after step 7, the magnitude of step 6, and whether step 1 saturates
or underflows. -/
structure EpiElem where
  out   : Word32
  mag   : Num
  sat   : Bool
  under : Bool

/-- Steps 1 to 7 of an element. -/
def epiElem (r gw : Nat) (dq os : Word32) (bias : Word32) (res : Option Word32) : EpiElem :=
  let w := Fmt.FP32.convert (Fmt.GW40.decode gw)
  let v := fmul (BitVec.ofNat 32 w.bits) dq
  let v := if epiBias r then fadd v bias else v
  let v := activate (epiAct r) v
  let v := match res with
    | some x => fadd v x
    | none => v
  { out := fmul v os, mag := (f32 v).abs, sat := w.sat, under := w.under }

/-- emax of R107. -/
def mxEmax (c : Nat) : Int :=
  match c with
  | 2 => 8
  | 3 => 15
  | 4 => 4
  | _ => 2

/-- An MX block (R107, R112): its scale and its elements. -/
def mxBlock (c : Nat) (f : Fmt) (l : List Num) : Nat × List Rounded :=
  if l.any fun x => !x.isFin then (255, l.map fun _ => { bits := 0, sat := false, under := false })
  else
    let amax := (l.map Num.abs).foldl Num.maxMag (.fin false 0 0)
    let e0 := if amax.isZero then -127 else amax.ilog2 - mxEmax c
    let e := min (max e0 (-127)) 127
    ((e + 127).toNat, l.map fun x =>
      let r := f.convert (x.shift (-e))
      { r with sat := r.sat && decide (127 < e0) })

/-- Step 8 of a row: the elements' patterns and the scales. -/
def convertRow (c : Nat) (l : List Num) : List Rounded × List Nat :=
  match Fmt.ofCode c with
  | none => ([], [])
  | some f =>
    if isMx c then
      let b := (List.range 4).map fun i => mxBlock c f ((l.drop (32 * i)).take 32)
      (b.flatMap (·.2), b.map (·.1))
    else (l.map f.convert, [])

/-- Elements packed at w bits (R105). -/
def packBits (w : Nat) (l : List Rounded) : List Byte :=
  leBytes ((l.length * w + 7) / 8) (l.foldr (fun r acc => acc * 2 ^ w + r.bits) 0)

/-- What a row of a drain gives: its bytes, its scales, its largest magnitude, saturated and underflowing elements. -/
structure EpiRow where
  data  : List Byte
  scales : List Byte
  mag   : Num
  sat   : Nat
  under : Nat

/-- The epilogue of one row (R58): the Galley words, the biases and the residual row. -/
def epiRow (r : Nat) (words : List Nat) (dq os : Word32) (bias : List Word32) (res : Option (List Word32)) : EpiRow :=
  let el := (List.range 128).map fun j =>
    epiElem r (words.getD j 0) dq os (bias.getD j 0) (res.map fun l => l.getD j 0)
  let (out, sc) := convertRow (epiFmt r) (el.map fun e => f32 e.out)
  let both := el.zip out
  { data := packBits (codeWidth (epiFmt r)) out
    scales := sc.map (BitVec.ofNat 8)
    mag := (el.map (·.mag)).foldl Num.maxMag (.fin false 0 0)
    sat := (both.filter fun p => p.1.sat || p.2.sat).length
    under := (both.filter fun p => p.1.under || p.2.under).length }

/-! ## The start of a drain -/

/-- The tensor that a drain uses (R92). -/
def useTensor (c id : Nat) : M Tensor := do
  match ← look (·.tensor c id) with
  | some t => pure t
  | none => flt 0x102C

/-- FP32 words of bytes. -/
def wordsOf (n : Nat) (l : List Byte) : List Word32 := (List.range n).map fun i => BitVec.ofNat 32 (leAt l (4 * i) 4)

/-- The residual row (R58, step 5). -/
def residualRow (x : Slot) (k : Cluster) (r i : Nat) : M (Option (List Word32)) := do
  let at0 := field r 24 4 + i * field r 28 4
  match epiRes r with
  | 1 =>
    let p ← formeAddr x at0 256
    let b := k.formeRead p 256
    pure (some ((List.range 128).map fun j => BitVec.ofNat 32 (leAt b (2 * j) 2 * 2 ^ 16)))
  | 2 =>
    let p ← formeAddr x at0 512
    pure (some (wordsOf 128 (k.formeRead p 512)))
  | _ => pure none

/-- The scales of a drain and the checks on its tensors (R92, R139, R140): the dequantisation and the output scale. -/
def drainScales (a : TileAt) (r : Nat) : M (Word32 × Word32) := do
  let dq ← if epiDqSrc r then pure (BitVec.ofNat 32 (field r 12 4))
    else do
      let ta ← useTensor a.ctx (field r 4 2)
      let tb ← useTensor a.ctx (field r 6 2)
      let xa ← look (·.scaleFor a (field r 4 2) ta)
      let xb ← look (·.scaleFor a (field r 6 2) tb)
      pure (fmul (scale2 xa) (scale2 xb))
  if epiOsSrc r && !epiAmax r then pure (dq, BitVec.ofNat 32 (field r 16 4))
  else
    let id := field r 8 2
    let t ← useTensor a.ctx id
    if epiOsSrc r then pure (dq, BitVec.ofNat 32 (field r 16 4))
    else
      let me ← look (·.runId a.src)
      let quiet ← look (·.quiet a)
      need (quiet || !(decide (t.onOvf = .rerun) && t.writer.isSome && t.writer != some me)) 0x1504
      need (if t.fallback then epiFmt r == 7 || epiFmt r == 9 else epiFmt r == t.fmt.toNat) 0x1505
      if !quiet then upd (·.setTensor a.ctx id (some { t with writer := some me }))
      let x ← look (·.scaleFor a id t)
      pure (dq, scale2 (-x))

/-- The reports of a written row (R60, R137, R141): the row that shows a tile to hold a saturated element reports that tile, and
the last row brings the drain's largest magnitude. -/
def State.rowReport (s : State) (a : TileAt) (w : RowOut) : State :=
  let r := w.epi.toNat
  let q := a.cl / 32
  let p := (s.ctx a.ctx).part.toNat
  let k := s.cluster a.cl
  let s := s.setCluster a.cl { k with rowsDone := k.rowsDone + 1 }
  let s := if w.sat = 0 then s else s.fromData [.count 0 .gln a.cl 0x40 w.sat, .cond .gln a.cl 0 63]
  if (epiOsSrc r && !epiAmax r) || s.quiet a then s
  else
    let id := field r 8 2
    match s.tensor a.ctx id with
    | none => s
    | some t =>
      let s := if w.tile then
          let s := if epiOsSrc r then s else s.setTensor a.ctx id (some { t with marked := true })
          s.fromData (count2 p .scl q 0x68 1 ++ [.cond .scl q 0 p])
        else s
      let s := s.watchCount a.ctx t 128 w.under
      match w.mag with
      | some m => s.reportMax a.ctx id q m
      | none => s

/-- The rows that a drain names are settled, and no pass issued before it has still to run on them (R56, R57). -/
def Cluster.drainReady (k : Cluster) (d : Drain) : Bool :=
  k.rowsOut.isEmpty && k.unsettled.all (fun r => !rowsMeet d.row d.rows r 1)
    && (match k.passWait with
        | some p => !(p.behind == 0 && rowsMeet d.row d.rows p.row 128)
        | none => true)

/-- What a drain reads (R58, R90 to R92): its record, the scales, the biases and, for each of its rows, the Galley words and the
residual row, through the epilogue. -/
def drainRead (a : TileAt) (x : Slot) (d : Drain) (up : Upset) : M (Nat × List EpiRow) := do
  let rb ← readForme a x up d.recAt.toNat 64 64
  let r := ofLe rb
  need (epiOk r) 0x102A
  let (dq, os) ← drainScales a r
  let k ← onCluster a id
  let bias ← if epiBias r then do
      let p ← formeAddr x (field r 20 4) 512
      pure (wordsOf 128 (k.formeRead p 512))
    else pure []
  let rows ← (List.range d.rows).mapM fun i => do
    let res ← residualRow x k r i
    pure (epiRow r ((List.range 128).map (k.galWord (d.row + i))) dq os bias res)
  pure (r, rows)

/-- Where the rows of a drain go: each at the destination plus its number times OUT_STRIDE; the scale block of an MX output goes
with the last (R91). Every row has its 128 elements: no field gives the extent of the output tensor (log entry 201). -/
def drainParts (r : Nat) (d : Drain) (rows : List EpiRow) : List (List (Nat × List Byte)) :=
  ((List.range d.rows).zip rows).map fun p =>
    (d.dest.toNat + p.1 * field r 32 4, p.2.data) ::
      (if p.1 + 1 = d.rows ∧ isMx (epiFmt r) then
        [(d.dest.toNat + d.rows * field r 32 4, rows.flatMap (·.scales))] else [])

/-- The rows of a drain as they leave the epilogue, with what each reports (R60); `bad` is the row at which a residue mismatch
stops the drain (R61). -/
def drainRows (n r : Nat) (d : Drain) (rows : List EpiRow) (bad : Option Nat) : List RowOut :=
  let sat := fun (i : Nat) => decide (((rows[i]?).map (·.sat)).getD 0 ≠ 0)
  ((List.range d.rows).zip (rows.zip (drainParts r d rows))).map fun p =>
    { slot := n, parts := p.2.2, bad := decide (bad = some p.1), epi := BitVec.ofNat 512 r, sat := p.2.1.sat, under := p.2.1.under
      tile := sat p.1 && !(List.range (p.1 % 128)).any fun i => sat (p.1 - p.1 % 128 + i)
      mag := if p.1 + 1 = d.rows ∧ epiAmax r then some (toF32 ((rows.map (·.mag)).foldl Num.maxMag (.fin false 0 0))) else none }

/-- Write the rows of a drain to the Forme store: a row with a residue mismatch stops it, and a row is written whole (R57, R61). -/
def drainToForme (a : TileAt) (x : Slot) (l : List RowOut) : M Unit :=
  l.forM fun w => do
    need (!w.bad) 0x1002
    let at' ← w.parts.mapM fun b => do
      let p ← formeAddr x b.1 b.2.length
      pure (p, b.2)
    updCluster a fun k => at'.foldl (fun (k : Cluster) b => k.formeWrite b.1 b.2) k
    upd (·.rowReport a w)

/-- The reading of a drain, and the writing of one whose destination is the Forme store (R58 to R61). -/
def drainBody (a : TileAt) (x : Slot) (d : Drain) (up : Upset) (row : Nat) : M Unit := do
  let (r, rows) ← drainRead a x d up
  if epiZero r then updCluster a (·.zeroGalley d.row d.rows)
  let out := drainRows a.n r d rows (if up = .residue then some row else none)
  if epiMem r then updCluster a fun k => { k with rowsOut := out } else drainToForme a x out

/-- DRAIN_START (R56 to R61): the oldest drain, once its rows are settled; a residue mismatch is raised at the row of the drain
that `up` gives. A drain of a stopped slot only finishes (R66). -/
def execDrainStart (cl : BitVec 7) (up : UpsetAt) (_env : Env) (s : State) : Host.Outcome State Fault Refusal :=
  let k := s.cluster cl.toNat
  match k.drains with
  | [] => .next s
  | d :: rest =>
    if !k.drainReady d then .next s
    else
      let t := s.setCluster cl.toNat { k with
        drains := rest, passWait := k.passWait.map fun p => { p with behind := p.behind - 1 } }
      if k.voidSlot d.slot then .next (t.closeStep cl.toNat) else
      match s.slotAt cl.toNat d.slot with
      | none => .next t
      | some (a, x) =>
        match drainBody a x d up.kind up.nth t with
        | .ok _ u => .next u
        | .error e u => .next (s.tileExit u a.cl a.ctx a.src e)

/-- The next row of the running drain is written to memory, whole, and reported; a residue mismatch stops the drain before it
(R57, R60, R61). -/
def rowWrite (a : TileAt) (w : RowOut) (env : Env) : M Unit := do
  need (!w.bad) 0x1002
  vwriteWhole { src := a.src, env := env } .clWrite 0x1301 w.parts
  upd (·.rowReport a w)

/-- DRAIN_ROW_WRITE (R59, R91): the next row of the running drain is written to memory; a row of a stopped slot is discarded
(R66). -/
def execDrainRowWrite (cl : BitVec 7) (env : Env) (s : State) : Host.Outcome State Fault Refusal :=
  let k := s.cluster cl.toNat
  match k.rowsOut with
  | [] => .next s
  | w :: rest =>
    let t := s.setCluster cl.toNat { k with rowsOut := rest }
    if k.voidSlot w.slot then .next (t.closeStep cl.toNat) else
    match s.slotAt cl.toNat w.slot with
    | none => .next t
    | some (a, _) =>
      match rowWrite a w env t with
      | .ok _ u => .next u
      | .error e u => .next (s.tileExit u a.cl a.ctx a.src e)

end Sys2Proof.Machine
end

