-- ==== Sys2Proof/Machine/TileVector.lean ====
section
/-!
DEFINITION. Tile code, classes 0x5 and 0x6: the vector engine and the scales (R62, R63, R92, R93, R119, R120, R127, R128).
-/

namespace Sys2Proof.Machine

/-- The format that VLD and VST accept (R93). -/
def vecFmt (c : Nat) : M Fmt :=
  if c = 0 ∨ c = 1 ∨ 7 ≤ c then
    match Fmt.ofCode c with
    | some f => pure f
    | none => flt 0x102B
  else flt 0x102B

/-- VLD (R93): vA ← 256 elements of a format at Forme sB + IMM, widened to FP32. -/
def execVld (t : TileOp) (s : State) : Host.Outcome State Fault Refusal :=
  tileOp t (fits t true true false 15 immAll) (fun a x => do
    let f ← vecFmt t.x.toNat
    let b ← readForme a x t.up (x.sreg t.b + simm t).toNat (32 * f.width) 64
    let n := ofLe b
    updCluster a fun k => k.setV t.a.toNat (ofLanes fun i => toF32 (f.decode ((n >>> (f.width * i)) % 2 ^ f.width)))
    pure x.step) s

/-- VST (R93, R111 to R113): 256 elements at Forme sB + IMM ← vA, converted; saturations and underflows are counted for the
partition. -/
def execVst (t : TileOp) (s : State) : Host.Outcome State Fault Refusal :=
  tileOp t (fits t true true false 15 immAll) (fun a x => do
    let f ← vecFmt t.x.toNat
    let v ← onCluster a (·.vreg t.a.toNat)
    let l := (List.range 256).map fun i => f.convert (f32 (lane v i))
    writeForme a x (x.sreg t.b + simm t).toNat (packBits f.width l) 64
    upd fun s =>
      let p := (s.ctx a.ctx).part.toNat
      if s.quiet a then s else
        s.fromData (count2 p .scl (a.cl / 32) 0x60 (l.filter (·.sat)).length
          ++ count2 p .scl (a.cl / 32) 0x64 (l.filter (·.under)).length)
    pure x.step) s

/-- A residue mismatch of a vector lane stops the instruction before its result is written (R276, R277). -/
def vecResidue (t : TileOp) : M Unit := need (decide (t.up ≠ .residue)) 0x1402

/-- vA ← f of the lanes of vB and vC; `checked` operations carry a residue. -/
def vecOp (t : TileOp) (checked : Bool) (f : Word32 → Word32 → Word32) (s : State) : Host.Outcome State Fault Refusal :=
  tileOp t (fits t true true true 0 0) (fun a x => do
    if checked then vecResidue t
    updCluster a fun k =>
      k.setV t.a.toNat (ofLanes fun i => f (lane (k.vreg t.b.toNat) i) (lane (k.vreg t.c.toNat) i))
    pure x.step) s

/-- vA ← f of the lanes of vB, vC and the register of X[38:34]. -/
def vecOp3 (t : TileOp) (checked : Bool) (f : Word32 → Word32 → Word32 → Word32) (s : State) :
    Host.Outcome State Fault Refusal :=
  tileOp t (fits t true true true 0x7C 0) (fun a x => do
    if checked then vecResidue t
    updCluster a fun k =>
      k.setV t.a.toNat (ofLanes fun i =>
        f (lane (k.vreg t.b.toNat) i) (lane (k.vreg t.c.toNat) i) (lane (k.vreg (t.x.toNat / 4)) i))
    pure x.step) s

/-- vA ← f of the lanes of vB. -/
def vecOp1 (t : TileOp) (f : Num → Num) (s : State) : Host.Outcome State Fault Refusal :=
  tileOp t (fits t true true false 0 0) (fun a x => do
    vecResidue t
    updCluster a fun k => k.setV t.a.toNat (ofLanes fun i => toF32 (f (f32 (lane (k.vreg t.b.toNat) i))))
    pure x.step) s

/-- sA[31:0] ← f of the lanes of vB; sA[63:32] ← 0. -/
def vecReduce (t : TileOp) (checked : Bool) (f : List Word32 → Word32) (s : State) : Host.Outcome State Fault Refusal :=
  tileOp t (fits t true true false 0 0) (fun a x => do
    if checked then vecResidue t
    let v ← onCluster a (·.vreg t.b.toNat)
    pure (x.setS t.a ((f ((List.range 256).map (lane v))).setWidth 64)).step) s

/-- VCMPLT: 1.0 where x < y, else +0; +0 when either is NaN (R120). -/
def vcmplt (x y : Word32) : Word32 := if (f32 x).lt (f32 y) then 0x3F800000 else 0

/-- VSEL: x where the selector compares unequal to zero, else y (R120). -/
def vselect (x y sel : Word32) : Word32 := if (f32 sel).isZero then y else x

/-- One level of the fixed tree of VSUM: neighbours are added. -/
def pairSums : List Word32 → List Word32
  | a :: b :: t => fadd a b :: pairSums t
  | l => l

/-- The lane sum in the fixed order of R120. -/
def vsumTree (l : List Word32) : Word32 := ((List.range 8).foldl (fun m _ => pairSums m) l).headD 0

/-- The largest lane magnitude (R118, R120). -/
def vamaxOf (l : List Word32) : Word32 :=
  toF32 ((l.map fun w => (f32 w).abs).foldl Num.maxMag (.fin false 0 0))

/-- VADD (R119, R120). -/
def execVadd (t : TileOp) (s : State) : Host.Outcome State Fault Refusal := vecOp t true fadd s

/-- VSUB (R119, R120). -/
def execVsub (t : TileOp) (s : State) : Host.Outcome State Fault Refusal := vecOp t true fsub s

/-- VMUL (R119, R120). -/
def execVmul (t : TileOp) (s : State) : Host.Outcome State Fault Refusal := vecOp t true fmul s

/-- VMAX (R119, R120). -/
def execVmax (t : TileOp) (s : State) : Host.Outcome State Fault Refusal := vecOp t false fmax s

/-- VMIN (R119, R120). -/
def execVmin (t : TileOp) (s : State) : Host.Outcome State Fault Refusal := vecOp t false fmin s

/-- VCMPLT (R119, R120). -/
def execVcmplt (t : TileOp) (s : State) : Host.Outcome State Fault Refusal := vecOp t false vcmplt s

/-- VFMA: vB × vC + v(X[38:34]), rounded once (R119). -/
def execVfma (t : TileOp) (s : State) : Host.Outcome State Fault Refusal := vecOp3 t true ffma s

/-- VSEL (R120): the bits as they are, of a NaN too (log entry 199). -/
def execVsel (t : TileOp) (s : State) : Host.Outcome State Fault Refusal := vecOp3 t false vselect s

/-- VBCAST: every lane of vA ← sB[31:0], the bits as they are (log entry 199). -/
def execVbcast (t : TileOp) (s : State) : Host.Outcome State Fault Refusal :=
  tileOp t (fits t true true false 0 0) (fun a x => do
    updCluster a fun k => k.setV t.a.toNat (ofLanes fun _ => (x.sreg t.b).setWidth 32)
    pure x.step) s

/-- VEXP2 (R119). -/
def execVexp2 (t : TileOp) (s : State) : Host.Outcome State Fault Refusal := vecOp1 t Num.exp2 s

/-- VLOG2 (R119). -/
def execVlog2 (t : TileOp) (s : State) : Host.Outcome State Fault Refusal := vecOp1 t Num.log2 s

/-- VRCP (R119). -/
def execVrcp (t : TileOp) (s : State) : Host.Outcome State Fault Refusal := vecOp1 t Num.recip s

/-- VRSQ (R119). -/
def execVrsq (t : TileOp) (s : State) : Host.Outcome State Fault Refusal := vecOp1 t Num.rsqrt s

/-- VSUM (R62, R120). -/
def execVsum (t : TileOp) (s : State) : Host.Outcome State Fault Refusal := vecReduce t true vsumTree s

/-- VAMAX (R120). -/
def execVamax (t : TileOp) (s : State) : Host.Outcome State Fault Refusal := vecReduce t false vamaxOf s

/-! ## Top-k (R63) -/

/-- VTOPKCLR: empties the list and sets k ← IMM. -/
def execVtopkclr (t : TileOp) (s : State) : Host.Outcome State Fault Refusal :=
  tileOp t (fits t false false false 0 immAll) (fun a x => do
    need (countOk t.imm.toNat 1024) 0x1401
    updCluster a fun k => { k with topk := [], k := t.imm.toNat }
    pure x.step) s

/-- An entry comes before another: the higher score, or of equal scores the lower index. -/
def topkBefore (a b : Word32 × Word32) : Bool :=
  (f32 b.1).lt (f32 a.1) || (!(f32 a.1).lt (f32 b.1) && decide (a.2.toNat < b.2.toNat))

/-- Insert an entry in order. -/
def topkInsert (e : Word32 × Word32) : List (Word32 × Word32) → List (Word32 × Word32)
  | [] => [e]
  | x :: t => if topkBefore e x then e :: x :: t else x :: topkInsert e t

/-- VTOPK: offers the lanes of vB as scores, lane n with index sC + n. NaN candidates are discarded and counted. -/
def execVtopk (t : TileOp) (s : State) : Host.Outcome State Fault Refusal :=
  tileOp t (fits t false true true 0 0) (fun a x => do
    let k ← onCluster a id
    need (k.k != 0) 0x1401
    let cand := (List.range 256).map fun n =>
      (lane (k.vreg t.b.toNat) n, (x.sreg t.c + BitVec.ofNat 64 n).setWidth 32)
    let good := cand.filter fun e => !(f32 e.1).isNan
    updCluster a fun k => { k with topk := (good.foldl (fun l e => topkInsert e l) k.topk).take k.k }
    if good.length < 256 then
      upd fun s => s.fromData [.count 0 .vec a.cl 0x40 (256 - good.length), .cond .vec a.cl 1 63]
    pure x.step) s

/-- VTOPKRD (R93): writes the k entries to Forme sB in list order; beyond the last held one, a NaN score and an index of all
ones. -/
def execVtopkrd (t : TileOp) (s : State) : Host.Outcome State Fault Refusal :=
  tileOp t (fits t false true false 0 0) (fun a x => do
    let k ← onCluster a id
    need (k.k != 0) 0x1401
    let l := (k.topk ++ List.replicate (k.k - k.topk.length) (0x7FC00000, 0xFFFFFFFF)).take k.k
    writeForme a x (x.sreg t.b).toNat (l.flatMap fun e => leBytes 4 e.1.toNat ++ leBytes 4 e.2.toNat) 64
    pure x.step) s

/-! ## Scales, class 0x6 -/

/-- SCGET (R92, R127): sA ← the FP32 scale of tensor IMM[15:0]. -/
def execScget (t : TileOp) (s : State) : Host.Outcome State Fault Refusal :=
  tileOp t (fits t true false false 0 0xFFFF) (fun a x => do
    let k ← useTensor a.ctx t.imm.toNat
    let e ← look (·.scaleFor a t.imm.toNat k)
    pure (x.setS t.a ((scale2 e).setWidth 64)).step) s

/-- SCAMAX (R92, R128): reports sB[31:0] as a maximum of tensor IMM[15:0]. -/
def execScamax (t : TileOp) (s : State) : Host.Outcome State Fault Refusal :=
  tileOp t (fits t false true false 0 0xFFFF) (fun a x => do
    let _ ← useTensor a.ctx t.imm.toNat
    upd fun s => if s.quiet a then s else s.reportMax a.ctx t.imm.toNat (a.cl / 32) ((x.sreg t.b).setWidth 32)
    pure x.step) s

end Sys2Proof.Machine
end

