-- ==== Sys2Proof/Machine/Optim.lean ====
section
/-!
DEFINITION. Training state (chapter 8): tensor records, EXEC_OPTIM and the replica digests.
-/

namespace Sys2Proof.Machine

/-! ## Tensor and hyper records (R178 to R180) -/

/-- A tensor record. -/
structure TRec where
  hi    : Nat
  lo    : Nat
  grad  : Nat
  m     : Nat
  v     : Nat
  rows  : Nat
  cols  : Nat
  layer : Nat
  flags : Nat
  hyper : Nat
  first : Nat
  count : Nat
  tag   : Nat

/-- A tensor record from its 64 bytes as a number. -/
def TRec.of (d : Nat) : TRec :=
  let f := field d 50 1
  { hi := field d 0 8, lo := field d 8 8, grad := field d 16 8, m := field d 24 8, v := field d 32 8, rows := field d 40 4,
    cols := field d 44 4, layer := field d 48 2, flags := f, hyper := field d 51 1
    first := field d 52 4 + f / 8 % 4 * 2 ^ 32, count := field d 56 4 + f / 32 % 4 * 2 ^ 32, tag := field d 60 4 }

def TRec.quant (r : TRec) : Bool := r.flags.testBit 0
def TRec.mEn (r : TRec) : Bool := r.flags.testBit 1
def TRec.bfGrad (r : TRec) : Bool := r.flags.testBit 2

/-- A length rounded up to a 64-byte boundary. -/
def pad64 (n : Nat) : Nat := (n + 63) / 64 * 64

/-- The first and second planes of the V area, in bytes (R177). -/
def TRec.vOne (r : TRec) : Nat := if r.quant then r.count else 4 * r.rows
def TRec.vTwo (r : TRec) : Nat := if r.quant then 4 * ((r.count + 31) / 32) else 4 * r.cols

/-- The planes that checkpoints hold: address and length, in the order HI, LO, m, V. -/
def TRec.planes (r : TRec) : List (Nat × Nat) :=
  [(r.hi, 2 * r.count), (r.lo, 2 * r.count)] ++ (if r.mEn then [(r.m, 2 * r.count)] else [])
    ++ [(r.v, r.vOne), (r.v + pad64 r.vOne, r.vTwo)]

/-- The gradient plane. -/
def TRec.gradPlane (r : TRec) : Nat × Nat := (r.grad, (if r.bfGrad then 2 else 4) * r.count)

/-- The record keeps R179, but for its mappings and its hyper record. -/
def TRec.formOk (r : TRec) : Bool :=
  [r.hi, r.lo, r.grad, r.m, r.v].all (· % 64 == 0) && (r.mEn || r.m == 0) && countOk r.rows (2 ^ 24) && countOk r.cols (2 ^ 24)
    && decide (r.layer < 4096) && decide (r.flags < 128) && decide (r.hyper < 8) && decide (r.rows * r.cols ≤ 2 ^ 34)
    && decide (r.first + r.count ≤ r.rows * r.cols) && r.count != 0
    && (if r.quant then r.first % 32 == 0 && (r.count % 32 == 0 || r.first + r.count == r.rows * r.cols)
        else decide (16 ≤ r.rows ∧ 16 ≤ r.cols) && r.first == 0 && r.count == r.rows * r.cols)


/-- Read a tensor table (R178); the record that breaks R179 first is named by 0x1410. `ok` judges a record beside the table. -/
def readTable (v : Via) (va n : Nat) (ok : List TRec → TRec → Bool) : M (List TRec) := do
  let l ← vread v .copy 0x1901 va (64 * n)
  let rs := (List.range n).map fun i => TRec.of (leAt l (64 * i) 64)
  match ((List.range n).zip rs).find? fun e => !(e.2.formOk && ok rs e.2) with
  | some e => flt 0x1410 e.1
  | none => pure rs

/-- A value of a hyper record, by position (R180). -/
def hyperAt (h : List Byte) (r i : Nat) : Word32 := BitVec.ofNat 32 (leAt h (64 * r + 4 * i) 4)

/-- A hyper record is valid beside a table (R179): EPS2 is 0 in none that a FACTORED tensor names. -/
def hyperOk (h : List Byte) (rs : List TRec) (r : Nat) : Bool :=
  let eps := f32 (hyperAt h r 5)
  let e2 := f32 (hyperAt h r 6)
  eps.isFin && (Num.fin false 0 0).lt eps && e2.isFin && !e2.lt (.fin false 0 0)
    && !(e2.isZero && rs.any fun x => !x.quant && x.hyper == r)

/-! ## Arithmetic of R181 -/

/-- fsum: groups of 256 in the order of R120, then the group sums in order. -/
def fsumGroups : Nat → List Word32 → List Word32
  | 0, _ => []
  | k + 1, l =>
    if l.isEmpty then []
    else vsumTree (l.take 256 ++ List.replicate (256 - l.length) 0) :: fsumGroups k (l.drop 256)

/-- The sum of the operands of a list. -/
def fsum (l : List Word32) : Word32 :=
  match fsumGroups (l.length / 256 + 1) l with
  | [] => 0
  | a :: t => t.foldl fadd a

/-- The FP32 number of an integer, rounded. -/
def fnat (n : Nat) : Word32 := toF32 (.fin false n 0)

/-- rne_uint8: the nearest integer, or none where the spec states no result (log entry 35). -/
def rneUint8 (x : Word32) : Option Nat :=
  match f32 x with
  | .fin neg m e =>
    let r := rneAt m e 0
    if r = 0 then some 0 else if neg ∨ 255 < r then none else some r
  | _ => none

/-- A BF16 pattern widened to FP32. -/
def widenBf (n : Nat) : Word32 := BitVec.ofNat 32 (n * 2 ^ 16)

/-- An FP32 value rounded to BF16 (R111). -/
def toBf (x : Word32) : Nat := (Fmt.BF16.convert (f32 x)).bits

/-- The state of a record as EXEC_OPTIM reads it, and as it leaves it. -/
structure OptState where
  p  : List Word32   -- masters
  m  : List Nat      -- BF16
  v1 : List Nat      -- row factors, or codes
  v2 : List Word32   -- column factors, or block maxima

/-- Items of n bytes. -/
def items (n : Nat) (l : List Byte) (count : Nat) : List Nat := (List.range count).map fun i => leAt l (n * i) n

/-- Item i of a list of FP32 values. -/
def at32 (l : Array Word32) (i : Nat) : Word32 := l[i]?.getD 0

/-- The second moment of each element of a FACTORED record, with the new factors (R181). -/
def factored (r : TRec) (beta2 omb2 : Word32) (sq : List Word32) (x : OptState) : List Word32 × OptState :=
  let a := sq.toArray
  let row := ((List.range r.rows).zip x.v1).map fun e =>
    ffma beta2 (BitVec.ofNat 32 e.2) (fmul omb2 (fdiv (fsum ((List.range r.cols).map fun c => at32 a (e.1 * r.cols + c))) (fnat r.cols)))
  let col := ((List.range r.cols).zip x.v2).map fun e =>
    ffma beta2 e.2 (fmul omb2 (fdiv (fsum ((List.range r.rows).map fun k => at32 a (k * r.cols + e.1))) (fnat r.rows)))
  let rmean := fdiv (fsum row) (fnat r.rows)
  let ra := row.toArray
  let ca := col.toArray
  ((List.range r.count).map fun i => fdiv (fmul (at32 ra (i / r.cols)) (at32 ca (i % r.cols))) rmean,
   { x with v1 := row.map (·.toNat), v2 := col })

/-- The second moment of each element of a QUANTISED record, with the new maxima and codes. A code whose value the spec does not
state is a free function of what is rounded, so that R183 holds of it. -/
def quantised (r : TRec) (beta2 omb2 : Word32) (sq : List Word32) (x : OptState) :
    List Word32 × OptState :=
  let s := x.v2.toArray
  let v := ((List.range r.count).zip (x.v1.zip sq)).map fun e =>
    let t := fdiv (fnat e.2.1) (fnat 255)
    ffma beta2 (fmul (at32 s (e.1 / 32)) (fmul t t)) (fmul omb2 e.2.2)
  let va := v.toArray
  let mx := (List.range ((r.count + 31) / 32)).map fun b =>
    ((List.range 32).map (32 * b + ·)).foldl (fun (m : Option Word32) i =>
      if r.count ≤ i then m
      else some (match m with
        | none => at32 va i
        | some y => fmax y (at32 va i))) none |>.getD 0
  let ma := mx.toArray
  (v, { x with
    v1 := (List.range r.count).map fun i =>
      let sb := at32 ma (i / 32)
      let c := fmul (fnat 255) (fsqrt (fdiv (at32 va i) sb))
      if (f32 sb).isZero then 0 else (rneUint8 c).getD (Config.optCode c).toNat
    v2 := mx })

/-- The update of a record (R181): its new state. -/
def optUpdate (r : TRec) (h : List Byte) (k : Nat) (g : List Word32) (x : OptState) : OptState :=
  let hv := fun i => hyperAt h r.hyper i
  let lr := fmul (hv 0) (scale2 k)
  let sq := g.map fun y => ffma y y (hv 6)
  let (v, y) := if r.quant then quantised r (hv 3) (hv 4) sq x else factored r (hv 3) (hv 4) sq x
  let mf := if r.mEn then (g.zip x.m).map fun e => ffma (hv 1) (widenBf e.2) (fmul (hv 2) e.1) else []
  let n := if r.mEn then mf.map fun e => fmul e (hv 9) else g
  let p := (x.p.zip (n.zip v)).map fun e =>
    let u := fdiv e.2.1 (fadd (fsqrt (fmul e.2.2 (hv 10))) (hv 5))
    ffma (lr ^^^ 0x80000000) (ffma (hv 7) e.1 u) e.1
  { y with p := p, m := mf.map toBf }

/-! ## EXEC_OPTIM (R181 to R183) -/

/-- The items of a record that another record of the table names as well, and one of the two writes (R184): an item of a plane
that lies in another record's planes or gradient, and an item of the gradient that lies in another record's planes. An empty
list stands for no such item. -/
structure Shared where
  p    : List Bool
  m    : List Bool
  v1   : List Bool
  v2   : List Bool
  grad : List Bool
  deriving DecidableEq, Repr

/-- Which of n items of a size, from an address on, lie in a list of places. -/
def State.itemsIn (s : State) (c va size n : Nat) (l : List Place) : List Bool :=
  let meet := fun (a : List Place) => a.any fun p => l.any (placesMeet p)
  if meet (s.placesOf c va (size * n)) then (List.range n).map fun i => meet (s.placesOf c (va + size * i) size) else []

/-- Items that either list names. -/
def eitherShared (a b : List Bool) : List Bool :=
  if a.isEmpty then b else if b.isEmpty then a else (a.zip b).map fun e => e.1 || e.2

/-- The shared items of each record of a table. -/
def State.optShared (s : State) (c : Nat) (rs : List TRec) : List Shared :=
  let at' := fun (l : List (Nat × Nat)) => l.flatMap fun a => s.placesOf c a.1 a.2
  let l := (List.range rs.length).zip (rs.map fun r => (r, at' r.planes, at' [r.gradPlane]))
  l.map fun e =>
    let r := e.2.1
    let planes := (l.filter (·.1 != e.1)).flatMap (·.2.2.1)
    let all := planes ++ (l.filter (·.1 != e.1)).flatMap (·.2.2.2)
    { p := eitherShared (s.itemsIn c r.hi 2 r.count all) (s.itemsIn c r.lo 2 r.count all)
      m := if r.mEn then s.itemsIn c r.m 2 r.count all else []
      v1 := if r.quant then s.itemsIn c r.v 1 r.count all else s.itemsIn c r.v 4 r.rows all
      v2 := s.itemsIn c (r.v + pad64 r.vOne) 4 (r.vTwo / 4) all
      grad := s.itemsIn c r.grad (if r.bfGrad then 2 else 4) r.count planes }

/-- No item is shared. -/
def Shared.none (x : Shared) : Bool :=
  x.p.isEmpty && x.m.isEmpty && x.v1.isEmpty && x.v2.isEmpty && x.grad.isEmpty

/-- A list whose shared items are replaced. -/
def blend {α : Type} (sh : List Bool) (f : Nat → α) (l : List α) : List α :=
  if sh.isEmpty then l else ((List.range l.length).zip (sh.zip l)).map fun e => if e.2.1 then f e.1 else e.2.2

/-- The state of a record with free values, from the n-th on, in its shared items (R184). -/
def OptState.blur (r : TRec) (sh : Shared) (n : Nat) (x : OptState) : OptState :=
  let f := fun (j i : Nat) => Config.free (n + 16 * i + j)
  { p := blend sh.p (fun i => (f 0 i).setWidth 32) x.p
    m := blend sh.m (fun i => (f 1 i).toNat % 2 ^ 16) x.m
    v1 := blend sh.v1 (fun i => (f 2 i).toNat % 2 ^ (if r.quant then 8 else 32)) x.v1
    v2 := blend sh.v2 (fun i => (f 3 i).setWidth 32) x.v2 }

/-- Process one record: records skipped and elements written non-finite (R182). The values of the items that it shares with
another record are undefined (R184). -/
def optRecord (v : Via) (h : List Byte) (sh : Shared) (r : TRec) : M (Nat × Nat) := do
  let c := ctxOf v.src
  let gp := r.gradPlane
  let raw ← vread v .clRead 0x1901 gp.1 gp.2
  let base ← look (·.freeCtr)
  if !sh.none then upd fun s => { s with freeCtr := s.freeCtr + 16 * (r.count + r.rows + r.cols) }
  let grad := blend sh.grad (fun i => (Config.free (base + 16 * i + 8)).setWidth 32)
    ((items (if r.bfGrad then 2 else 4) raw r.count).map fun y => if r.bfGrad then widenBf y else BitVec.ofNat 32 y)
  if grad.any fun x => !(f32 x).isFin then pure (1, 0)
  else
    let gs := hyperAt h r.hyper 8
    let g := grad.map (fmul gs)
    let hi ← vread v .clRead 0x1901 r.hi (2 * r.count)
    let lo ← vread v .clRead 0x1901 r.lo (2 * r.count)
    let m ← if r.mEn then vread v .clRead 0x1901 r.m (2 * r.count) else pure []
    let v1 ← vread v .clRead 0x1901 r.v r.vOne
    let v2 ← vread v .clRead 0x1901 (r.v + pad64 r.vOne) r.vTwo
    let k ← look fun s => ((s.layer c r.layer).map (·.k.toNat)).getD 0
    let x : OptState := {
      p := ((items 2 hi r.count).zip (items 2 lo r.count)).map fun e => BitVec.ofNat 32 (e.1 * 2 ^ 16 + e.2)
      m := items 2 m r.count
      v1 := items (if r.quant then 1 else 4) v1 (if r.quant then r.count else r.rows)
      v2 := (items 4 v2 (r.vTwo / 4)).map (BitVec.ofNat 32) }
    let y := (optUpdate r h k g (x.blur r sh base)).blur r sh (base + 4)
    vwrite v .clWrite 0x1901 r.hi (y.p.flatMap fun e => leBytes 2 (e.toNat / 2 ^ 16))
    vwrite v .clWrite 0x1901 r.lo (y.p.flatMap fun e => leBytes 2 e.toNat)
    if r.mEn then vwrite v .clWrite 0x1901 r.m (y.m.flatMap (leBytes 2))
    vwrite v .clWrite 0x1901 r.v (y.v1.flatMap (leBytes (if r.quant then 1 else 4)))
    vwrite v .clWrite 0x1901 (r.v + pad64 r.vOne) (y.v2.flatMap fun e => leBytes 4 e.toNat)
    pure (0, (y.p.filter fun e => !(f32 e).isFin).length)

/-- A residue mismatch in a vector lane of a cluster while it works on a record: it stops before its result is written
(R276, R277). -/
def laneResidue (q : QSrc) (up : Option (BitVec 7 × Nat)) (i : Nat) : M Unit := do
  match up with
  | none => pure ()
  | some (cl, k) =>
    if k = i ∧ (← look fun s => (s.clustersOf (s.partOf q)).contains cl.toNat) then
      upd (·.clusterFault cl.toNat (ctxOf q) 0x1402)
      flt 0x1402 0 cl.toNat

/-- EXEC_OPTIM on the partition's clusters, where a transient context's shares are placed for it (R380, R381). Its work wakes
IDLE clusters (R67). -/
def optimBody (up : Option (BitVec 7 × Nat)) (q : CmdIn) (d : Nat) : M Fin := do
  let v : Via := { src := q.src, env := q.env }
  let c ← look (·.ctx (ctxOf q.src))
  slotsFree q.src
  let h ← vread v .copy 0x1901 (field d 24 8) 512
  let rs ← readTable v (field d 8 8) (field d 16 4) fun l r =>
    hyperOk h l r.hyper && (r.gradPlane :: r.planes).all c.maps
  let p ← look (·.partOf q.src)
  placeShares (ctxOf q.src) p
  upd fun s => (s.onClusters p fun k =>
    { k with worked := true, pwr := if k.pwr = .idle then .active else k.pwr })
  let shared ← look (·.optShared (ctxOf q.src) rs)
  let out ← ((List.range rs.length).zip (rs.zip shared)).mapM fun e => do
    laneResidue q.src up e.1
    optRecord v h e.2.2 e.2.1
  let skipped : Nat := (out.map fun e => e.1).sum
  let bad : Nat := (out.map fun e => e.2).sum
  pure (.done (if skipped = 0 ∧ bad = 0 then 0 else 0x1411) skipped bad 0)

/-- EXEC_OPTIM. -/
def execExecOptim (q : OptimIn) (s : State) : Host.Outcome State Fault Refusal :=
  descriptor { op := 0x13, issuer := fromC
               fields := fun d => bodyOnly d [(8, 12), (24, 8)] && countOk (field d 16 4) 65535, body := optimBody q.lane } q.cmd s

/-! ## Replica digests (R186 to R188) -/

/-- The bytes that a record adds to the message: its TAG, and the HI and LO bytes of its selected groups. -/
def digestPart (v : Via) (phase : Nat) (hiOnly : Bool) (r : TRec) : M (List Byte) := do
  let gs := (List.range ((r.count + 31) / 32)).filter fun g => (r.first / 32 + g) % 16 == phase
  let l ← gs.mapM fun g => do
    let n := min 64 (2 * r.count - 64 * g)
    let hi ← vread v .ckpt 0x1901 (r.hi + 64 * g) n
    let lo ← if hiOnly then pure [] else vread v .ckpt 0x1901 (r.lo + 64 * g) n
    pure (padTo 64 hi ++ (if hiOnly then [] else padTo 64 lo))
  pure (leBytes 4 r.tag ++ l.flatten)

/-- OPT_DIGEST: the local digest, and the header and digest to every replica. The exchange is a collective of its own, whose
descriptor carries RANKS, RANK, SEQ and PLANES where COLL_RUN's has them; its header carries the STEP_MARK count. -/
def optDigestBody (q : CmdIn) (d : Nat) : M Fin := do
  let c := ctxOf q.src
  let v : Via := { src := q.src, env := q.env }
  let p ← look (·.partOf q.src)
  let x ← look (·.ctx c)
  let hiOnly := (field d 40 1).testBit 0
  let n := field d 32 2
  let rs ← readTable v (field d 8 8) (field d 16 4) fun _ r =>
    ((r.hi, 2 * r.count) :: (if hiOnly then [] else [(r.lo, 2 * r.count)])).all x.maps
  let tab ← vread v .copy 0x1901 (field d 24 8) (2 * n)
  let ok ← look (·.rankTableOk p tab n (field d 34 2))
  need ok 0x2A02
  let parts ← rs.mapM fun r => digestPart v (x.steps.toNat % 16) hiOnly r
  let dig : BitVec 256 := (Config.shake256 (leBytes 8 x.steps.toNat ++ parts.flatten)).setWidth 256
  let desc := b2n hiOnly + n * 2 ^ (8 * 36) + field d 34 2 * 2 ^ (8 * 38)
    + field d 36 4 * 2 ^ (8 * 48)
  let y := Coll.start q.src desc tab n (if n = 1 then .phases else .headers) (some (dig, x.steps))
  upd fun s => { s with colls := s.colls ++ [y] }
  let sl ← look fun s => (((s.part p).slice).map (·.toNat)).getD 0
  tellAll q.src 0 (headerBytes (y.header sl) ++ leBytes 32 dig.toNat)
  pure (.runs .coll)

/-- OPT_DIGEST. -/
def execOptDigest (q : CmdIn) (s : State) : Host.Outcome State Fault Refusal :=
  descriptor { op := 0x91, issuer := fromC
               fields := fun d => bodyOnly d [(8, 12), (24, 17)] && countOk (field d 16 4) 65535 && countOk (field d 32 2) 1024
                 && decide (field d 34 2 < field d 32 2) && decide (field d 40 1 < 2)
               body := optDigestBody } q s

/-- The outcome of the comparison: 0, or its status (R187). -/
def digestOutcome (own : BitVec 256) (others : List (BitVec 256)) : Nat :=
  let all := own :: others
  if others.all (· == own) then 0
  else
    match all.find? fun v => decide (all.length < 2 * (all.filter (· == v)).length) with
    | some v => if v = own then 0x1A42 else 0x1A41
    | none => 0x1A43

/-- DIGEST_EXCHANGE: every rank reaches the same outcome; a divergence is a detection event (R187, R188). -/
def digestBody (q : QSrc) (others : List (BitVec 256)) : M Fin := do
  match ← look (·.coll q) with
  | none => waitHere
  | some c =>
    match c.opt with
    | none => waitHere
    | some (dig, steps) =>
      -- the exchange needs the slice (R382, R383)
      let hold ← look fun s => decide ((s.part (s.partOf q)).holder = some (BitVec.ofNat 12 (ctxOf q)))
      if c.stage ≠ .phases ∨ others.length ≠ c.peers.length ∨ !hold then waitHere
      tellAll q 2 []
      let code := digestOutcome dig others
      upd fun s =>
        let s := { s with colls := s.colls.filter fun x => !decide (x.src = q) }
        if code = 0 then s
        else
          let k := ctxOf q
          let x := s.ctx k
          let s := if code = 0x1A42 then s
            else s.setCtx k { x with suspect := true, rollbackAt := if code = 0x1A43 then some steps else x.rollbackAt }
          s.detect (s.partOf q)
      pure (.done code steps.toNat (dig.toNat % 2 ^ 64) 0)

/-- DIGEST_EXCHANGE. -/
def execDigestExchange (q : QSrc) (others : List (BitVec 256)) (s : State) : Host.Outcome State Fault Refusal :=
  forCommand q (digestBody q others) s

end Sys2Proof.Machine
end

