-- ==== Sys2Proof/Machine/Ckpt.lean ====
section
/-!
DEFINITION. Checkpoints (chapter 8): the file, CKPT_WRITE and CKPT_LOAD; the faults of R449.
-/

namespace Sys2Proof.Machine

/-- Fault with a code of R449, recorded in SEC_KEY_FAULT. -/
def keyFlt {α : Type} (q : QSrc) (code : Nat) : M α := do
  upd fun s => (({ s with sec := { s.sec with keyFault := (BitVec.ofNat 12 (ctxOf q), BitVec.ofNat 16 code) } }).errBit
    .sec 0 2 63).raise .sec 0 1 63
  flt code

/-- The installed job of the issuer's partition, or 0x0407 (R445). -/
def jobOf (q : QSrc) : M Job := do
  match ← look fun s => tget none s.sec.jobs (s.partOf q) with
  | some j => pure j
  | none => keyFlt q 0x0407

/-- The checkpoint key (R433). -/
def ckptKey (j : Job) (serial id : Nat) : BitVec 256 :=
  BitVec.ofNat 256 (ofLe (shakeBytes 32 (ascii [0x49, 0x4C, 0x39, 0x20, 0x63, 0x6B, 0x70, 0x74] ++ leBytes 32 j.key.toNat
    ++ leBytes 8 serial ++ leBytes 4 id)))

/-- The manifest tag (R190). -/
def manifestTag (key : BitVec 256) (head : List Byte) : List Byte :=
  leBytes 16 (gcmTag key (beBytes 12 0xFFFFFFFF) head []).toNat

/-- The bytes of a record's section before its tag, in a FORM (R189). -/
def TRec.secLen (r : TRec) (master : Bool) : Nat :=
  if master then pad64 (4 * r.count) else (r.planes.map fun p => pad64 p.2).sum

/-- The offsets of the sections of a file, and the file's length. -/
def sectionsAt (recs : Nat) (lens : List Nat) : List Nat × Nat :=
  lens.foldl (fun (a : List Nat × Nat) n =>
    let off := pad64 a.2
    (a.1 ++ [off], off + n + 16)) ([], 64 + 64 * recs + 16)

/-- A manifest entry (R191). -/
def manifestEntry (r : TRec) (off len : Nat) : List Byte :=
  leBytes 4 r.tag ++ leBytes 2 r.layer ++ [BitVec.ofNat 8 r.flags, 0] ++ leBytes 4 r.rows ++ leBytes 4 r.cols
    ++ leBytes 8 r.first ++ leBytes 8 r.count ++ leBytes 8 off ++ leBytes 8 len ++ List.replicate 16 0

/-- The file header (R191). -/
def fileHeader (form id recs step dev slice len : Nat) : List Byte :=
  leBytes 4 0x43394C49 ++ leBytes 2 1 ++ [BitVec.ofNat 8 form, 0] ++ leBytes 4 id ++ leBytes 4 recs ++ leBytes 8 step
    ++ leBytes 8 Config.serial.toNat ++ leBytes 2 dev ++ [BitVec.ofNat 8 slice] ++ List.replicate 5 0 ++ leBytes 8 len
    ++ List.replicate 16 0

/-- A record's plaintext section (R189). -/
def sectionText (v : Via) (master : Bool) (r : TRec) : M (List Byte) := do
  if master then
    let hi ← vread v .ckpt 0x1901 r.hi (2 * r.count)
    let lo ← vread v .ckpt 0x1901 r.lo (2 * r.count)
    pure (padTo 64 ((List.range r.count).flatMap fun i => slice lo (2 * i) 2 ++ slice hi (2 * i) 2))
  else
    let l ← r.planes.mapM fun p => do
      let x ← vread v .ckpt 0x1901 p.1 p.2
      pure (padTo 64 x)
    pure l.flatten

/-- The planes that a CKPT_WRITE reads are mapped. -/
def ckptMaps (c : Context) (master : Bool) (r : TRec) : Bool :=
  (if master then r.planes.take 2 else r.planes).all c.maps

/-- The horizon of a partition (R290). -/
def State.horizon (s : State) (p : Nat) : Nat := s.reg (fnOf p) .prf 0 0x40 0x10

/-- CKPT_WRITE (R188 to R193). -/
def ckptWriteBody (q : CmdIn) (d : Nat) : M Fin := do
  let c := ctxOf q.src
  let v : Via := { src := q.src, env := q.env }
  let p ← look (·.partOf q.src)
  let x ← look (·.ctx c)
  need (!x.suspect) 0x1A49
  let j ← jobOf q.src
  let full ← look fun s => decide (256 ≤ s.ckpts.length)
  need (!full) 0x1A47
  let master := decide (field d 20 1 = 1)
  let rs ← readTable v (field d 8 8) (field d 16 4) fun _ r => ckptMaps x master r
  let (offs, len) := sectionsAt rs.length (rs.map fun r => r.secLen master)
  need (decide (len ≤ field d 32 8)) 0x1A44
  let id ← look (·.ckptId)
  upd fun s => { s with ckptId := s.ckptId + 1 }
  let key := ckptKey j Config.serial.toNat id.toNat
  let dev ← look fun s => if (s.part p).slice.isSome then s.devNum else 0
  let sl ← look fun s => (((s.part p).slice).map (·.toNat)).getD 0
  let head := fileHeader (field d 20 1) id.toNat rs.length x.steps.toNat dev sl len
    ++ (rs.zip offs).flatMap fun e => manifestEntry e.1 e.2 (e.1.secLen master + 16)
  let secs ← ((List.range rs.length).zip rs).mapM fun e => do
    let t ← sectionText v master e.2
    let (ct, tag) := gcmSeal key (beBytes 12 e.1) [] t
    pure (slice ct 0 t.length ++ leBytes 16 tag.toNat)
  let body := (offs.zip secs).foldl (fun (f : List Byte) e => f ++ List.replicate (e.1 - f.length) 0 ++ e.2)
    (head ++ manifestTag key head)
  egressPut v .ckpt (field d 24 8) body
  let h ← look (·.horizon p)
  upd fun s => { s with ckpts := s.ckpts ++ [{
    ctx := BitVec.ofNat 12 c, id := id, step := x.steps.toNat, h := h, digest := Config.shake256 body,
    recVa := BitVec.ofNat 64 (field d 40 8) }] }
  okWith id.toNat len

/-- CKPT_WRITE. -/
def execCkptWrite (q : CmdIn) (s : State) : Host.Outcome State Fault Refusal :=
  descriptor { op := 0xA1, issuer := fromC
               fields := fun d => bodyOnly d [(8, 13), (24, 24)] && countOk (field d 16 4) 65535 && decide (field d 20 1 < 2)
               body := ckptWriteBody } q s

/-! ## CKPT_LOAD (R192) -/

/-- A manifest entry as a record with no addresses. -/
def entryRec (e : List Byte) : TRec :=
  { hi := 0, lo := 0, grad := 0, m := 0, v := 0, rows := leAt e 8 4, cols := leAt e 12 4, layer := leAt e 4 2,
    flags := leAt e 6 1, hyper := 0, first := leAt e 16 8, count := leAt e 24 8, tag := leAt e 0 4 }

/-- An entry keeps R191: its reserved bytes, its record's form, its section within the file. -/
def entryOk (e : List Byte) (fileLen : Nat) : Bool :=
  let r := entryRec e
  leAt e 7 1 == 0 && leAt e 48 16 == 0 && r.formOk && leAt e 32 8 % 64 == 0 && leAt e 40 8 == r.secLen false + 16
    && decide (leAt e 32 8 + leAt e 40 8 ≤ fileLen)

/-- The header keeps R191 for a WORKING file of a length. -/
def headerForm (h : List Byte) (fileLen : Nat) : Bool :=
  leAt h 0 4 == 0x43394C49 && leAt h 4 2 == 1 && leAt h 6 1 == 0 && leAt h 7 1 == 0 && countOk (leAt h 12 4) 65535
    && decide (leAt h 32 2 < 1024) && decide (leAt h 34 1 < 64) && leAt h 35 5 == 0 && leAt h 48 16 == 0
    && leAt h 40 8 == fileLen && decide (64 + 64 * leAt h 12 4 + 16 ≤ fileLen)

/-- What a promotion record says of a file: 0x1A45 when its signature fails; none when it is no record of the file. -/
def promoState (s : State) (file head rec : List Byte) : Nat ⊕ Option Nat :=
  let msg := slice rec 0 128
  if !Config.ed448Verify (Config.ed448Public s.promoSeed) msg (slice rec 128 114) then .inl 0x1A45
  else if leAt rec 0 4 = 0x50394C49 ∧ leAt rec 4 2 = 1 ∧ leAt rec 8 4 = leAt head 8 4 ∧ slice rec 96 8 = slice head 24 8
      ∧ leAt rec 32 64 = (Config.shake256 file).toNat then .inr (some (leAt rec 6 1))
  else .inr none

/-- Where the bytes of a logical range of a plane lie: plane offset in the section, first byte, length. `unit` elements take
`size` bytes. -/
def planeCut (first lo n size unit : Nat) : Nat × Nat := ((lo - first) / unit * size, (n + unit - 1) / unit * size)

/-- The pieces of the section `e` that the record `r` takes over the logical range of `n` elements from `lo`: byte offset in
the section, address and length. -/
def loadPieces (r e : TRec) (lo n : Nat) : List (Nat × Nat × Nat) :=
  let sizes : List (Nat × Nat) := [(2, 1), (2, 1)] ++ (if r.mEn then [(2, 1)] else [])
  let off := fun i => (((e.planes.take i).map fun p => pad64 p.2)).sum
  let elems := ((List.range sizes.length).zip (sizes.zip r.planes)).map fun x =>
    let a := planeCut e.first lo n x.2.1.1 x.2.1.2
    let b := planeCut r.first lo n x.2.1.1 x.2.1.2
    (off x.1 + a.1, x.2.2.1 + b.1, b.2)
  let k := sizes.length
  if r.quant then
    elems ++ [(off k + (lo - e.first), r.v + (lo - r.first), n),
              (off (k + 1) + (lo - e.first) / 32 * 4, r.v + pad64 r.vOne + (lo - r.first) / 32 * 4, (n + 31) / 32 * 4)]
  else elems ++ [(off k, r.v, r.vOne), (off (k + 1), r.v + pad64 r.vOne, r.vTwo)]

/-- What one record of the table takes from the file: the pieces of data to write, once the section's tag is verified. -/
def loadRecord (key : BitVec 256) (file : List Byte) (entries : List (List Byte)) (r : TRec) : M (List (Nat × List Byte)) := do
  match (((List.range entries.length).zip entries).find? fun e => leAt e.2 0 4 == r.tag) with
  | none => flt 0x1A44
  | some (i, raw) =>
    let e := entryRec raw
    need (e.rows == r.rows && e.cols == r.cols && e.quant == r.quant && e.mEn == r.mEn
      && (r.quant || (e.first == r.first && e.count == r.count))) 0x1A48
    let lo := max e.first r.first
    let hi := min (e.first + e.count) (r.first + r.count)
    if hi ≤ lo then pure []
    else
      let n := e.secLen false
      let ct := slice file (leAt raw 32 8) n
      let tag := slice file (leAt raw 32 8 + n) 16
      need (decide (leBytes 16 (gcmTag key (beBytes 12 i) [] ct).toNat = tag)) 0x1A45
      let t := slice (gcmOpen key (beBytes 12 i) ct) 0 n
      pure ((loadPieces r e lo (hi - lo)).map fun p => (p.2.1, slice t p.1 p.2.2))

/-- CKPT_LOAD. -/
def ckptLoadBody (q : CmdIn) (d : Nat) : M Fin := do
  let c := ctxOf q.src
  let v : Via := { src := q.src, env := q.env }
  let x ← look (·.ctx c)
  let j ← jobOf q.src
  let len := field d 32 8
  let rs ← readTable v (field d 8 8) (field d 16 4) fun _ r => r.planes.all x.maps
  need (decide (144 ≤ len)) 0x1A44
  let file ← vread v .ckpt 0x1901 (field d 24 8) len
  need (headerForm file len) 0x1A44
  let recs := leAt file 12 4
  let entries := (List.range recs).map fun i => slice file (64 + 64 * i) 64
  need (entries.all fun e => entryOk e len) 0x1A44
  let key := ckptKey j (leAt file 24 8) (leAt file 8 4)
  let head := slice file 0 (64 + 64 * recs)
  need (decide (manifestTag key head = slice file (64 + 64 * recs) 16)) 0x1A45
  let st ← if field d 40 8 = 0 then pure none
    else do
      let rec' ← vread v .ckpt 0x1901 (field d 40 8) 256
      match ← look fun s => promoState s file head rec' with
      | .inl code => flt code
      | .inr st => pure st
  need (st != some 2 && (st == some 1 || (field d 20 1).testBit 0)) 0x1A46
  let out ← rs.mapM fun r => loadRecord key file entries r
  vwriteWhole v .ckpt 0x1901 out.flatten
  upd fun s =>
    let y := s.ctx c
    let y := { y with steps := BitVec.ofNat 64 (leAt file 16 8) }
    s.setCtx c (if st = some 1 then { y with suspect := false, denseTo := y.rollbackAt.or y.denseTo, rollbackAt := none } else y).reached
  ok

/-- CKPT_LOAD. -/
def execCkptLoad (q : CmdIn) (s : State) : Host.Outcome State Fault Refusal :=
  descriptor { op := 0xA2, issuer := fromC
               fields := fun d => bodyOnly d [(8, 13), (24, 24)] && countOk (field d 16 4) 65535 && decide (field d 20 1 < 2)
               body := ckptLoadBody } q s

end Sys2Proof.Machine
end

