-- ==== Sys2Proof/Machine/Objects.lean ====
section
/-!
DEFINITION. Memory objects, mappings and fences as commands (chapter 14): OBJ_*, KEYID_RETIRE_DONE and FENCE_*.
-/

namespace Sys2Proof.Machine

/-- A free number below `top`: which one is a free choice (log entry 1). `n` is how many numbers are in use at most. -/
def State.pick (s : State) (top n : Nat) (free : Nat → Bool) : Option Nat × State :=
  let i := Config.choice s.freeCtr % top
  (if free i then some i else ((List.range (n + 1)).find? fun k => decide (k < top) && free k),
   { s with freeCtr := s.freeCtr + 1 })

/-! ## OBJ_ALLOC (R329) -/

/-- Objects of a partition, LIVE and RETIRING. -/
def State.objsOf (s : State) (p : Nat) : List (Nat × Obj) :=
  s.objs.filterMap fun e => match e.2 with
    | some o => if o.part.toNat = p then some (e.1, o) else none
    | none => none

/-- Bytes of an extent of a partition (R227). -/
def Partition.extentBytes (x : Partition) (e : Nat) : Nat := (tget [] x.extents e).length * 756 * 2 ^ 20

/-- The next generation of an index (R328). -/
def State.nextGen (s : State) (i : Nat) : Nat :=
  let g := tget 0 s.objGen i
  if 4095 ≤ g then 1 else g + 1

def objAllocBody (q : CmdIn) (d : Nat) : M Fin := do
  let c := ctxOf q.src
  let p ← look (·.partOf q.src)
  let host := (field d 8 1).testBit 0
  let stg := (field d 8 1).testBit 1
  let ext := field d 9 1
  let kid := field d 10 2
  let len := field d 16 8
  let off := field d 24 8
  need (len % 4096 == 0 && off % 4096 == 0 && len != 0) 0x1A02
  let mine ← look (·.objsOf p)
  let quota ← look fun s => s.reg (fnOf p) .cmdp 0 0x68 0 % 2 ^ 21
  need (decide (mine.length < quota)) 0x1A02
  if host then need (!stg) 0x1A02
  else
    let bytes ← look fun s => (s.part p).extentBytes ext
    need (decide (off + len ≤ bytes)) 0x1A02
    need (!mine.any fun e => !e.2.host && e.2.ext.toNat == ext && decide (e.2.base < off + len ∧ off < e.2.base + e.2.len)) 0x1A02
    let k ← look (·.kid kid)
    let serves ← look fun s => s.objs.any fun e => (e.2.map fun o => !o.host && o.kid.toNat == kid).getD false
    need (k.state == .keyed && k.owner.toNat == p && !serves) 0x1A03
    need (!stg || (leAt (blobBytes k.blob) 20 4).testBit 7) 0x1A02
  match ← act fun s => s.pick (2 ^ 20) s.objs.length fun i => (s.obj i).isNone with
  | none => flt 0x1A02
  | some i =>
    let g ← look (·.nextGen i)
    let pasid ← look fun s => (s.ctx c).pasid
    upd fun s => { s.setObj i (some {
      gen := g, owner := BitVec.ofNat 12 c, part := BitVec.ofNat 6 p, pasid := pasid, host := host, staging := stg,
      ext := BitVec.ofNat 3 ext, kid := BitVec.ofNat 16 kid, base := off, len := len, retiring := false, freeing := false,
      holds := 0, signal := none, signaller := 0 }) with objGen := tput 0 s.objGen i g }
    okWith (g * 2 ^ 20 + i) 0

/-- OBJ_ALLOC. -/
def execObjAlloc (q : CmdIn) (s : State) : Host.Outcome State Fault Refusal :=
  descriptor { op := 0x31, issuer := fromC
               fields := fun d => bodyOnly d [(8, 4), (16, 16)] && decide (field d 8 1 < 4) && decide (field d 9 1 < 8)
                 && (!(field d 8 1).testBit 0 || field d 9 3 == 0)
               body := objAllocBody } q s

/-! ## OBJ_FREE and its completion (R270, R331) -/

def objFreeBody (q : CmdIn) (d : Nat) : M Fin := do
  let p ← look (·.partOf q.src)
  let (i, o) ← getObj p (field d 8 4)
  let admin ← look fun s => (s.ctx (ctxOf q.src)).admin
  need (isMgmt q.src || o.owner.toNat == ctxOf q.src || admin) 0x1A08
  if o.holds = 0 then
    upd (·.freeNow i o)
    if o.host then ok else pure (.runs (.freeing i))
  else
    upd (·.setObj i (some { o with
      retiring := true
      signal := if descSync d = 1 then some (BitVec.ofNat 16 (descSlot d), BitVec.ofNat 32 (descValue d).toNat) else none
      signaller := BitVec.ofNat 12 (ctxOf q.src) }))
    pure (.done 0x1A10 0 0 0)

/-- OBJ_FREE. -/
def execObjFree (q : CmdIn) (s : State) : Host.Outcome State Fault Refusal :=
  descriptor { op := 0x32, issuer := fromCM, fields := fun d => bodyOnly d [(8, 4)], body := objFreeBody } q s

/-- Apply the signal of a deferred OBJ_FREE whose free has completed (R331, R349). -/
def State.freeSignal (s : State) (o : Obj) : State :=
  match o.signal with
  | some (slot, v) => s.signal (.ctx o.signaller 0) slot.toNat (v.setWidth 64)
  | none => s

/-- OBJ_DEFERRED_FREE: the last hold on a RETIRING object has gone. -/
def execObjDeferredFree (idx : BitVec 20) (s : State) : Host.Outcome State Fault Refusal :=
  match s.obj idx.toNat with
  | some o =>
    if o.retiring && !o.freeing && o.holds == 0 then
      let t := s.freeNow idx.toNat o
      .next (if o.host then t.freeSignal o else t).settle
    else .next s
  | none => .next s

/-- Renew the level-1 block of every granule of an object (R270, point 3), GEN unchanged. -/
def renewGranules (o : Obj) : M Unit :=
  (List.range (o.len / 4096)).forM fun g => do
    match ← look (·.objLoc o (4096 * g)) with
    | none => pure ()
    | some (ch, line, _) =>
      let b := line / 64
      let blk ← settleCtrs Env.quiet ch 3 b
      let r ← renew (haltAt .ctrWrap ch 1 (ctrLine 1 b)) ch blk
      upd (·.setCtr ch 1 b (some r))

/-- The end of a retirement (R270, points 4 and 5; R331): the key goes, the KeyID is BOUND, the object's index is free and
what waits for it completes. -/
def State.retireEnd (s : State) (kid : Nat) (idx : Option Nat) : State :=
  let k := s.kid kid
  let s := s.setKid kid { KeyId.reset with state := .bound, owner := k.owner }
  let s := { s with retiring := s.retiring.filter fun e => e.1.toNat != kid }
  let s := s.raise .seal 0 2 63
  match idx with
  | none => s
  | some i =>
    let o := s.obj i
    let s := s.setObj i none
    let waiting := (s.inflight.filter fun c => decide (c.stage = .freeing i)).map (·.src)
    let s := waiting.foldl (fun (t : State) q => t.finish q 0 0 0 0) s
    match o with
    | some x => s.freeSignal x
    | none => s

/-- KEYID_RETIRE_DONE. -/
def execKeyidRetireDone (kid : BitVec 16) (s : State) : Host.Outcome State Fault Refusal :=
  match s.retiring.find? fun e => e.1 == kid with
  | none => .next s
  | some (_, idx) =>
    match (match idx.bind s.obj with
      | some o => renewGranules o s
      | none => .ok () s) with
    | .ok _ t => .next (t.retireEnd kid.toNat idx).settle
    | .error (.halt h) t => .next (t.sealHaltNow h)
    | .error _ t => .next (t.retireEnd kid.toNat idx).settle

/-! ## OBJ_MAP and OBJ_UNMAP (R333, R335) -/

/-- Mapping ranges of a partition. -/
def State.rangesOf (s : State) (p : Nat) : Nat :=
  s.ctxs.foldl (fun n e => if e.2.part.toNat = p then n + e.2.ranges.length else n) 0

/-- Mapping ranges of the device. -/
def State.rangesAll (s : State) : Nat := s.ctxs.foldl (fun n e => n + e.2.ranges.length) 0

def objMapBody (q : CmdIn) (d : Nat) : M Fin := do
  let c := ctxOf q.src
  let p ← look (·.partOf q.src)
  let h := field d 8 4
  let (i, o) ← getObj p h
  let va := field d 16 8
  let off := field d 24 8
  let len := field d 32 8
  let x ← look (·.ctx c)
  let room ← look fun s => decide (s.rangesAll < 131072) && decide (s.rangesOf p < s.reg (fnOf p) .iommu 0 0x44 0)
  need (len != 0 && va % 4096 == 0 && off % 4096 == 0 && len % 4096 == 0 && decide (va + len ≤ 2 ^ 48)
    && decide (off + len ≤ o.len) && decide (x.ranges.length < 256) && room
    && !x.ranges.any fun r => decide (r.va < va + len ∧ va < r.va + r.len)) 0x1A05
  let perm := field d 12 1
  upd fun s => (s.addHold i 1).setCtx c { x with ranges := x.ranges ++ [{
    va := va, len := len, handle := BitVec.ofNat 32 h, off := off, read := perm.testBit 0, write := perm.testBit 1,
    exec := perm.testBit 2 }] }
  ok

/-- OBJ_MAP. -/
def execObjMap (q : CmdIn) (s : State) : Host.Outcome State Fault Refusal :=
  descriptor { op := 0x33, issuer := fromC, fields := fun d => bodyOnly d [(8, 5), (16, 24)] && decide (field d 12 1 < 8),
               body := objMapBody } q s

def objUnmapBody (q : CmdIn) (d : Nat) : M Fin := do
  let c := ctxOf q.src
  let x ← look (·.ctx c)
  match x.ranges.find? fun r => r.va == field d 16 8 with
  | none => flt 0x1A05
  | some r =>
    upd fun s => (s.dropHold (r.handle.toNat % 2 ^ 20)).setCtx c { x with ranges := x.ranges.filter fun y => y.va != r.va }
    ok

/-- OBJ_UNMAP. -/
def execObjUnmap (q : CmdIn) (s : State) : Host.Outcome State Fault Refusal :=
  descriptor { op := 0x34, issuer := fromC, fields := fun d => bodyOnly d [(16, 8)], body := objUnmapBody } q s

/-! ## Fences (R336 to R341) -/

/-- Fence slots that a partition's contexts own. -/
def State.fencesOf (s : State) (p : Nat) : Nat :=
  (s.fences.filter fun e => (e.2.map fun f => (s.ctx f.owner.toNat).part.toNat == p).getD false).length

def fenceAllocBody (q : CmdIn) (d : Nat) : M Fin := do
  let c := ctxOf q.src
  let p ← look (·.partOf q.src)
  need (decide (field d 8 8 ≤ field d 16 8)) 0x1A0A
  let room ← look fun s => decide (s.fencesOf p < s.reg (fnOf p) .cmdp 0 0x6C 0)
  need room 0x1A0D
  match ← act fun s => s.pick 65536 s.fences.length fun i => (s.fence i).isNone with
  | none => flt 0x1A0D
  | some i =>
    upd (·.fenceTo (some q.src) i {
      value := BitVec.ofNat 64 (field d 8 8), release := BitVec.ofNat 64 (field d 16 8), state := .live, code := 0,
      owner := BitVec.ofNat 12 c, mirror := BitVec.ofNat 64 (field d 24 8), grants := [] })
    okWith i 0

/-- FENCE_ALLOC. -/
def execFenceAlloc (q : CmdIn) (s : State) : Host.Outcome State Fault Refusal :=
  descriptor { op := 0x41, issuer := fromC, fields := fun d => bodyOnly d [(8, 24)] && field d 24 8 % 16 == 0,
               body := fenceAllocBody } q s

/-- The fence of a slot that the context owns, or 0x1A09. -/
def ownFence (q : CmdIn) (slot : Nat) : M Fence := do
  match ← look (·.fence slot) with
  | some f => if f.owner.toNat = ctxOf q.src then pure f else flt 0x1A09
  | none => flt 0x1A09

/-- FENCE_FREE: the sequence of R341. -/
def execFenceFree (q : CmdIn) (s : State) : Host.Outcome State Fault Refusal :=
  descriptor { op := 0x42, issuer := fromC, fields := fun d => bodyOnly d [(8, 2)], body := fun q d => do
    let _ ← ownFence q (field d 8 2)
    upd fun s =>
      let t := s.freeFence (some q.src) (field d 8 2)
      (t.wake (2 * t.inflight.length + 1)).sweepFences (some q.src)
    ok } q s

/-- Fault with what R337 to R339 name for a use of a fence. -/
def useFence (q : CmdIn) (slot : Nat) (v : Word64) (wait : Bool) : M Unit := do
  let n ← look (·.fenceUse (ctxOf q.src) slot v wait)
  need (n == 0) n

/-- FENCE_SIGNAL. -/
def execFenceSignal (q : CmdIn) (s : State) : Host.Outcome State Fault Refusal :=
  descriptor { op := 0x43, issuer := fromC, fields := fun d => bodyOnly d [(8, 2), (16, 8)], body := fun q d => do
    let v := BitVec.ofNat 64 (field d 16 8)
    useFence q (field d 8 2) v false
    upd (·.signal q.src (field d 8 2) v)
    ok } q s

/-- FENCE_WAIT. -/
def execFenceWait (q : CmdIn) (s : State) : Host.Outcome State Fault Refusal :=
  descriptor { op := 0x44, issuer := fromC, fields := fun d => bodyOnly d [(8, 2), (16, 8)], body := fun q d => do
    let v := BitVec.ofNat 64 (field d 16 8)
    useFence q (field d 8 2) v true
    match ← look (·.waitEnd (field d 8 2) v) with
    | none => pure (.runs .fenceWait)
    | some 0 => ok
    | some n => flt n } q s

/-- FENCE_GRANT: at most 8 grantees; a grant to another partition waits for its acceptance (R339). -/
def execFenceGrant (q : CmdIn) (s : State) : Host.Outcome State Fault Refusal :=
  descriptor { op := 0x45, issuer := fromC
               fields := fun d => bodyOnly d [(8, 5)] && decide (field d 10 2 < 4096) && decide (field d 12 1 < 4)
               body := fun q d => do
    let slot := field d 8 2
    let f ← ownFence q slot
    let to' := field d 10 2
    let g ← look (·.ctx to')
    need g.bound 0x1A09
    let p ← look (·.partOf q.src)
    let rest := f.grants.filter fun x => x.ctx.toNat != to'
    need (decide (rest.length < 8)) 0x1A0D
    upd (·.setFence slot (some { f with grants := rest ++ [{
      ctx := BitVec.ofNat 12 to', wait := (field d 12 1).testBit 0, signal := (field d 12 1).testBit 1,
      active := decide (g.part.toNat = p) || f.grants.any fun x => x.ctx.toNat == to' && x.active }] }))
    ok } q s

/-- FENCE_ACCEPT (R339). -/
def execFenceAccept (q : CmdIn) (s : State) : Host.Outcome State Fault Refusal :=
  descriptor { op := 0x46, issuer := fromC, fields := fun d => bodyOnly d [(8, 4)] && decide (field d 10 2 < 4096)
               body := fun q d => do
    let slot := field d 8 2
    match ← look (·.fence slot) with
    | none => flt 0x1A09
    | some f =>
      need (f.owner.toNat == field d 10 2 && f.grants.any fun g => g.ctx.toNat == ctxOf q.src) 0x1A09
      let gs := f.grants.map fun g => if g.ctx.toNat = ctxOf q.src then { g with active := true } else g
      upd (·.setFence slot (some { f with grants := gs }))
      ok } q s

end Sys2Proof.Machine
end

