-- ==== Sys2Proof/Machine/Contexts.lean ====
section
/-!
DEFINITION. Contexts and queues as commands (chapter 14): CTX_* and QUEUE_*.
-/

namespace Sys2Proof.Machine

/-- CMDP_QUOTA_CTX of a partition. -/
def State.ctxQuota (s : State) (p : Nat) : Nat := s.reg (fnOf p) .cmdp 0 0x64 0

/-- Bound contexts of a partition. -/
def State.ctxsOf (s : State) (p : Nat) : List (Nat × Context) :=
  s.ctxs.filter fun e => e.2.bound && e.2.part.toNat == p

/-- The queues of a context. -/
def Context.queueList (c : Context) : List (Nat × Queue) :=
  c.queues.filterMap fun e => e.2.map fun q => (e.1, q)

/-- Queues of a partition. -/
def State.queuesOf (s : State) (p : Nat) : Nat := (s.ctxsOf p).foldl (fun n e => n + e.2.queueList.length) 0

/-- A queue descriptor keeps R324. -/
def queueDescOk (d : Nat) : Bool :=
  field d 24 8 % 64 == 0 && field d 32 8 % 64 == 0 && ((List.range 13).any fun i => field d 40 4 == 2 ^ (i + 4))
    && decide (field d 44 1 < 2) && (field d 44 1 == 0 || (decide (9 ≤ field d 45 1) && decide (field d 45 1 ≤ 15)))
    && decide (field d 46 1 ≤ 3) && field d 47 1 == 0

/-- A queue number that no queue has. -/
def State.queueFree (s : State) (n : Nat) : Bool :=
  !s.ctxs.any fun e => e.2.queueList.any fun q => q.2.num.toNat == n

/-- Create a queue of a context from the descriptor at byte 24: its number (R326). -/
def makeQueue (c n d : Nat) : M Nat := do
  let p ← look fun s => (s.ctx c).part.toNat
  let room ← look fun s => decide (s.queuesOf p < s.ctxQuota p % 2 ^ 15)
  need (queueDescOk d && room) 0x1A06
  match ← act fun s => s.pick 16384 (s.ctxs.foldl (fun m e => m + e.2.queueList.length) 0) s.queueFree with
  | none => flt 0x1A06
  | some num =>
    upd (·.setQueue c n (some {
      num := BitVec.ofNat 14 num, ring := BitVec.ofNat 64 (field d 24 8), cpl := BitVec.ofNat 64 (field d 32 8),
      size := field d 40 4, irq := (field d 44 1).testBit 0, vector := BitVec.ofNat 8 (field d 45 1),
      prio := BitVec.ofNat 8 (field d 46 1), head := 0, tail := 0, done := 0 }))
    pure num

/-- End early with a state. -/
def endAt {α : Type} (s : State) (e : Exit) : M α := fun _ => .error e s

/-- CTX_CREATE (R319, R380, R381): it creates nothing when it faults. -/
def ctxCreateBody (_ : CmdIn) (d : Nat) : M Fin := do
  let c := field d 8 2
  let p := field d 10 1
  let pasid := field d 12 4
  let old ← look id
  let x := old.ctx c
  need (!x.bound && decide ((old.part p).state = .active) && decide (p < 63)
    && !old.ctxs.any fun e => e.2.bound && e.2.pasid.toNat == pasid) 0x1A08
  need (decide ((old.ctxsOf p).length < bits (old.ctxQuota p) 28 16)) 0x1A08
  let pinned := (old.ctxShare c).testBit 31
  upd (·.setCtx c { Context.reset with
    bound := true, part := BitVec.ofNat 6 p, pasid := BitVec.ofNat 20 pasid, admin := (field d 11 1).testBit 0, pinned := pinned })
  let made ← attempt (makeQueue c 0 d)
  match made with
  | none => endAt old (.fault 0x1A06 0 0)
  | some _ =>
    if pinned then
      match ← look (·.fit c p fun _ => true) with
      | some y => upd (·.place c p y)
      | none => endAt old (.fault 0x1B01 0 0)
    ok

/-- CTX_CREATE. -/
def execCtxCreate (q : CmdIn) (s : State) : Host.Outcome State Fault Refusal :=
  descriptor { op := 0xB1, issuer := fromM
               fields := fun d => bodyOnly d [(8, 8), (24, 24)] && decide (field d 8 2 < 4096) && decide (field d 10 1 < 64)
                 && decide (field d 11 1 < 2) && decide (field d 12 4 < 2 ^ 20)
               body := ctxCreateBody } q s

/-- The context that CTX_RESUME, CTX_RESET or CTX_TEARDOWN names: an ADMIN context names another of its partition, or 0x1A08
(R322). -/
def adminTarget (q : CmdIn) (d : Nat) : M Nat := do
  let c := field d 8 2
  let x ← look (·.ctx c)
  let p ← look (·.partOf q.src)
  need (isMgmt q.src || (x.bound && x.part.toNat == p && decide (c ≠ ctxOf q.src))) 0x1A08
  pure c

/-- The body of the three commands. -/
def ctxFields (d : Nat) : Bool := bodyOnly d [(8, 2)] && decide (field d 8 2 < 4096)

/-- CTX_RESUME (R322). The contexts of a HALTED partition stay FAULTED (R378). -/
def execCtxResume (q : CmdIn) (s : State) : Host.Outcome State Fault Refusal :=
  descriptor { op := 0xB2, issuer := fromA, fields := ctxFields, body := fun q d => do
    let c ← adminTarget q d
    upd fun s =>
      let x := s.ctx c
      if x.state = .faulted ∧ (s.part x.part.toNat).state ≠ .halted then s.setCtx c { x with state := .idle, code := 0 } else s
    ok } q s

/-- Run a teardown or a reset; the command waits until the sequence completes (R342 to R344). -/
def tearBody (reset : Bool) (q : CmdIn) (d : Nat) : M Fin := do
  let c ← adminTarget q d
  if (← look (·.ctx c)).bound then
    upd (·.tearStart c reset (some q.src))
    pure (.runs .teardown)
  else ok

/-- CTX_RESET. -/
def execCtxReset (q : CmdIn) (s : State) : Host.Outcome State Fault Refusal :=
  descriptor { op := 0xB3, issuer := fromA, fields := ctxFields, body := tearBody true } q s

/-- CTX_TEARDOWN. -/
def execCtxTeardown (q : CmdIn) (s : State) : Host.Outcome State Fault Refusal :=
  descriptor { op := 0xB4, issuer := fromA, fields := ctxFields, body := tearBody false } q s

/-- The queue that a command names is the issuer's own, or 0x1A06 (R326). -/
def queueTarget (q : CmdIn) (d : Nat) : M Nat := do
  let c := field d 8 2
  let x ← look (·.ctx c)
  need (x.bound && (isMgmt q.src || decide (c = ctxOf q.src))) 0x1A06
  pure c

/-- QUEUE_CREATE. -/
def execQueueCreate (q : CmdIn) (s : State) : Host.Outcome State Fault Refusal :=
  descriptor { op := 0xC1, issuer := fromCM
               fields := fun d => bodyOnly d [(8, 3), (24, 24)] && decide (field d 8 2 < 4096) && countOk (field d 10 1) 15
               body := fun q d => do
    let c ← queueTarget q d
    let used ← look fun s => (s.queue c (field d 10 1)).isSome
    need (!used) 0x1A06
    let n ← makeQueue c (field d 10 1) d
    okWith n 0 } q s

/-- QUEUE_DELETE: the queue goes when the command has completed (R326). -/
def execQueueDelete (q : CmdIn) (s : State) : Host.Outcome State Fault Refusal :=
  descriptor { op := 0xC2, issuer := fromCM
               fields := fun d => bodyOnly d [(8, 3)] && decide (field d 8 2 < 4096) && countOk (field d 10 1) 15
               body := fun q d => do
    let c ← queueTarget q d
    let used ← look fun s => (s.queue c (field d 10 1)).isSome
    need used 0x1A06
    ok } q s

end Sys2Proof.Machine
end

