-- ==== Sys2Proof/Machine/Colophon.lean ====
section
/-!
DEFINITION. Colophons (R360 to R363): the record, SYS_COLOPHON and the register path; SYS_NOP.
-/

namespace Sys2Proof.Machine

/-- SYS_NOP (R351). -/
def execSysNop (q : CmdIn) (s : State) : Host.Outcome State Fault Refusal :=
  descriptor { op := 0xD1, issuer := fromCM, fields := fun d => bodyOnly d [], body := fun _ _ => ok } q s

/-- CTX_STATUS.STATE. -/
def CtxState.code : CtxState → Nat
  | .idle => 0
  | .runnable => 1
  | .running => 2
  | .preempted => 3
  | .faulted => 4
  | .teardown => 5

/-- DEV_STATE. -/
def State.devState (s : State) : Nat := s.lifecycle * 256 + s.pwr.state.code

/-- The Case ways that tenant partitions hold. -/
def State.waysHeld (s : State) : BitVec 16 := s.parts.foldl (fun m e => if e.1 = 63 then m else m ||| e.2.ways) 0

/-- The channels of partition 0x3F. -/
def State.freeChannels (s : State) : Nat := 512 - (s.chans.filter fun e => e.2.owner != 0x3F).length

/-- A partition entry. -/
def State.coloPart (s : State) (p : Nat) : List Byte :=
  if p = 63 then
    [63, 2, BitVec.ofNat 8 ((s.inService.filter fun c => (s.cluster c).owner == 0x3F).length), 0] ++ leBytes 2 s.freeChannels
      ++ leBytes 2 (~~~ s.waysHeld).toNat ++ leBytes 8 0
  else
    let x := s.part p
    [BitVec.ofNat 8 p, BitVec.ofNat 8 x.state.code, BitVec.ofNat 8 (s.clustersOf p).length, 0] ++ leBytes 2 x.channels
      ++ leBytes 2 x.ways.toNat ++ leBytes 4 (s.partSizes p 4) ++ leBytes 2 (s.ctxsOf p).length ++ [0, 0]

/-- A context entry. -/
def State.coloCtx (s : State) (c : Nat) : List Byte :=
  let x := s.ctx c
  leBytes 2 c ++ [BitVec.ofNat 8 x.part.toNat, BitVec.ofNat 8 (x.state.code + 8 * b2n x.admin)] ++ leBytes 4 x.pasid.toNat
    ++ leBytes 2 x.code.toNat ++ [BitVec.ofNat 8 x.faultQ.toNat, BitVec.ofNat 8 x.queueList.length] ++ leBytes 4 x.faultIx.toNat
    ++ leBytes 8 x.steps.toNat ++ leBytes 2 (s.ctxCmds c).length ++ List.replicate 6 0

/-- A queue entry. -/
def coloQueue (num owner head tail done : Nat) : List Byte :=
  leBytes 2 num ++ leBytes 2 owner ++ leBytes 4 head ++ leBytes 4 tail ++ leBytes 4 done

/-- The queue entries of contexts, with their numbers. -/
def ctxQueues (l : List (Nat × Context)) : List (Nat × List Byte) :=
  l.flatMap fun e => e.2.queueList.map fun q =>
    (q.2.num.toNat, coloQueue q.2.num.toNat (e.1 + q.1 * 4096) q.2.head.toNat q.2.tail.toNat q.2.done.toNat)

/-- The entries of the enabled management queues. -/
def State.mgmtQueues (s : State) : List (Nat × List Byte) :=
  (s.mqs.filter fun e => e.2.enable).map fun e =>
    (32768 + e.1, coloQueue (32768 + e.1) 0 e.2.head.toNat e.2.tail.toNat e.2.done.toNat)

/-- Put numbered entries in ascending order. -/
def sortEntries (l : List (Nat × List Byte)) : List (Nat × List Byte) :=
  l.foldr (fun e acc => (acc.takeWhile fun x => decide (x.1 < e.1)) ++ e :: acc.dropWhile fun x => decide (x.1 < e.1)) []

/-- A fence entry. -/
def State.coloFence (s : State) (slot : Nat) (f : Fence) : List Byte :=
  f.record slot ++ leBytes 8 f.release.toNat ++ [BitVec.ofNat 8 f.grants.length, 0]
    ++ leBytes 2 (s.inflight.filter fun c => match c.waitsOn with
        | some w => w.1 == slot && (s.waitEnd w.1 w.2).isNone
        | none => false).length ++ leBytes 4 0

/-- An object entry. -/
def coloObj (i : Nat) (o : Obj) : List Byte :=
  leBytes 4 (o.gen * 2 ^ 20 + i) ++ leBytes 2 o.owner.toNat
    ++ [BitVec.ofNat 8 (b2n o.retiring + 2 * b2n o.host + 4 * b2n o.staging), BitVec.ofNat 8 (if o.host then 0 else o.ext.toNat)]
    ++ leBytes 2 (if o.host then 0 else o.kid.toNat) ++ [0, 0] ++ leBytes 4 o.holds ++ leBytes 4 (o.len / 4096) ++ leBytes 4 0

/-- The record of a scope: none for the device (R363). -/
def State.colophon (s : State) (scope : Option Nat) (gen : Nat) : List Byte :=
  let inScope := fun (p : BitVec 6) => match scope with
    | none => true
    | some k => p.toNat == k
  let parts := match scope with
    | none => List.range 64
    | some p => [p]
  let ctxs := s.ctxs.filter fun e => e.2.bound && inScope e.2.part
  let queues := sortEntries (ctxQueues ctxs ++ (if scope.isNone then s.mgmtQueues else []))
  let fences := s.fences.filterMap fun e => match e.2 with
    | some f => if inScope (s.ctx f.owner.toNat).part then some (e.1, f) else none
    | none => none
  let objs := s.objs.filterMap fun e => match e.2 with
    | some o => if inScope o.part then some (e.1, o) else none
    | none => none
  let body := parts.flatMap s.coloPart ++ ctxs.flatMap (fun e => s.coloCtx e.1) ++ queues.flatMap (·.2)
    ++ fences.flatMap (fun e => s.coloFence e.1 e.2) ++ objs.flatMap fun e => coloObj e.1 e.2
  let sizes := match scope with
    | none => s.devSizes 4
    | some p => s.partSizes p 4
  leBytes 4 0x4F394C49 ++ leBytes 2 1 ++ [BitVec.ofNat 8 (b2n scope.isSome), BitVec.ofNat 8 (scope.getD 63)] ++ leBytes 8 gen
    ++ leBytes 4 (64 + body.length) ++ leBytes 2 s.devState ++ leBytes 2 0 ++ leBytes 4 sizes ++ leBytes 4 0
    ++ leBytes 8 (tget 0 s.sent (scope.getD 64)) ++ [BitVec.ofNat 8 parts.length, 0, 0, 0] ++ leBytes 4 ctxs.length
    ++ leBytes 4 queues.length ++ leBytes 4 fences.length ++ leBytes 4 objs.length ++ leBytes 4 0 ++ body

/-- What is written of a record, and whether all of it is (R361). -/
def coloCut (maxLen : Nat) (rec : List Byte) : List Byte × Bool :=
  if rec.length ≤ maxLen then (rec, true) else (rec.take 64, false)

/-- SYS_COLOPHON. -/
def sysColophonBody (q : CmdIn) (d : Nat) : M Fin := do
  let p ← look (·.partOf q.src)
  let scope := if isMgmt q.src then none else some p
  -- its own dispatch was before the instant (R360)
  upd fun s => (s.setCmd q.src fun c => { c with stage := .storing 0 0 0 0 }).settleCtxs
  let gen ← look fun s => (s.coloGen + 1).toNat
  let rec' ← look (·.colophon scope gen)
  upd fun s => { s with coloGen := s.coloGen + 1 }
  let (out, whole) := coloCut (field d 16 4) rec'
  if isMgmt q.src then upd (·.hostWrite .data q.src none (field d 8 8) out)
  else egressPut { src := q.src, env := q.env } .copy (field d 8 8) out
  pure (.done (if whole then 0 else 0x1A64) gen rec'.length 0)

/-- SYS_COLOPHON. A MAXLEN below 64 is 0x1A61. -/
def execSysColophon (q : CmdIn) (s : State) : Host.Outcome State Fault Refusal :=
  descriptor { op := 0xD2, issuer := fromCM, fields := fun d => bodyOnly d [(8, 12)] && decide (64 ≤ field d 16 4),
               body := sysColophonBody } q s

/-! ## The register path (R362) -/

/-- A function reaches its registers: PF0 always, a VF while its TDI is in RUN (R314). -/
def State.fnLive (s : State) (fn : Nat) : Bool := fn == 0 || decide (s.tdi (fn - 1) = .run)

/-- A virtual function's registers answer: its TDI is in RUN, and the device is neither HALTED nor in BOOT (R267, R314, R468). -/
def State.fnOpen (s : State) (fn : Nat) : Bool :=
  fn == 0 || (s.fnLive fn && decide (s.pwr.state ≠ .halted) && decide (s.pwr.state ≠ .boot))

/-- The Colophon copy of a function. -/
def State.coloOf (s : State) (fn : Nat) : Colo := tget Colo.reset s.colo fn

/-- Store it. -/
def State.setColo (s : State) (fn : Nat) (x : Colo) : State := { s with colo := tput Colo.reset s.colo fn x }

/-- End a function's request with a STATUS; COLOPHON_DONE is the function's own condition. -/
def State.coloEnd (s : State) (fn st : Nat) : State :=
  (s.setColo fn { busy := false, status := BitVec.ofNat 3 st }).latchInt fn .dev 0 1 fn

/-- Perform a function's request in the present device state; in BRACED it stays pending. -/
def State.coloRun (s : State) (fn : Nat) : State :=
  match s.pwr.state with
  | .braced => s
  | .boot | .halted | .slumber => s.coloEnd fn 3
  | .service | .evacuate =>
    let maxLen := s.reg fn .dev 0 0x12C 0
    if maxLen < 64 then s.coloEnd fn 5
    else
      let t := { s with coloGen := s.coloGen + 1 }
      let (out, whole) := coloCut maxLen (s.colophon (if fn = 0 then none else some (fn - 1)) t.coloGen.toNat)
      let addr := s.reg fn .dev 0 0x124 0 + s.reg fn .dev 0 0x128 0 * 2 ^ 32
      (t.hostPost fn .colophon none none addr out).coloEnd fn (if whole then 1 else 2)

/-- Perform every request that waited through BRACED. -/
def State.coloResume (s : State) : State :=
  s.colo.foldl (fun (t : State) e => if e.2.busy then t.coloRun e.1 else t) s

/-- A 1 is written to START: ignored while BUSY is 1. -/
def State.coloStart (s : State) (fn : Nat) : State :=
  if (s.coloOf fn).busy then s else (s.setColo fn { s.coloOf fn with busy := true }).coloRun fn

/-- DEV_COLOPHON_START: a 1 written to START through a function. -/
def execDevColophonStart (fn : BitVec 6) (s : State) : Host.Outcome State Fault Refusal :=
  .next (if s.fnOpen fn.toNat then s.coloStart fn.toNat else s)

end Sys2Proof.Machine
end

