-- ==== Sys2Proof/Machine/Access.lean ====
section
/-!
DEFINITION. Access to the register window (chapter 2): where pages lie, which accesses are disallowed and how they are recorded
(R43), what a device state hides (R267, R468) and what xx_LOCK holds (R33).
-/

namespace Sys2Proof.Machine

/-- Instances of a block (R29). -/
def Blk.count : Blk → Nat
  | .cl | .sow | .gal | .gln | .vec => 128
  | .mc | .seal | .rdu => 32
  | .scl | .prf => 4
  | .ctn => 8
  | _ => 1

/-- The first base of a block and its page offset in a slot (R29). -/
def Blk.base : Blk → Nat
  | .dev => 0 | .pwr => 0x1000 | .mgt => 0x03C00000 | .sec => 0x03800000
  | .cl => 0x01000000 | .sow => 0x01001000 | .gal => 0x01002000 | .gln => 0x01003000 | .vec => 0x01004000
  | .scl => 0x02E00000 | .prf => 0x03400000 | .hif => 0x00010000 | .iommu => 0x03300000 | .cmdp => 0x00020000
  | .part => 0x03200000 | .mc => 0x02000000 | .seal => 0x02800000 | .rdu => 0x02C00000 | .ctn => 0x03000000
  | .frt => 0x03080000 | .coll => 0x03090000

/-- Block types (R29). -/
def Blk.type : Blk → Nat
  | .dev => 1 | .pwr => 2 | .mgt => 3 | .sec => 4 | .cl => 0x10 | .sow => 0x11 | .gal => 0x12 | .gln => 0x13 | .vec => 0x14
  | .scl => 0x15 | .prf => 0x16 | .hif => 0x18 | .iommu => 0x19 | .cmdp => 0x1A | .part => 0x1B | .mc => 0x20 | .seal => 0x21
  | .rdu => 0x22 | .ctn => 0x28 | .frt => 0x29 | .coll => 0x2A

/-- Every block. -/
def Blk.all : List Blk :=
  [.dev, .pwr, .mgt, .sec, .cl, .sow, .gal, .gln, .vec, .scl, .prf, .hif, .iommu, .cmdp, .part, .mc, .seal, .rdu, .ctn, .frt,
   .coll]

/-- The block, instance and register offset at an offset of the window; none outside every page. -/
def pageAt (off : Nat) : Option (Blk × Nat × Nat) :=
  Blk.all.findSome? fun b =>
    if b.base ≤ off ∧ off < b.base + b.count * 0x10000 ∧ (off - b.base) % 0x10000 < 0x1000 then
      some (b, (off - b.base) / 0x10000, (off - b.base) % 0x10000)
    else none

/-- The offset in the window of a register. -/
def regOff (b : Blk) (inst off : Nat) : Nat := b.base + inst * 0x10000 + off

/-- Record a disallowed access (R43): the first since the count was read is held. SIZE holds the size modulo 16 (log entry 192). -/
def State.badAccess (s : State) (fn : Nat) (write bar2 : Bool) (size off : Nat) : State :=
  let s := s.bump 0 .dev 0 0x68 1
  if s.badacc.valid then s
  else { s with badacc := { valid := true, write := write, vf := fn != 0
                            part := if fn = 0 then 0x3F else BitVec.ofNat 6 (fn - 1)
                            bar := if bar2 then 2 else 0, size := BitVec.ofNat 4 size, off := BitVec.ofNat 32 off } }

/-- How an access to a register stands: performed, reading zero without effect, or disallowed. -/
inductive Gate where
  | go
  | zero
  | bad
  deriving DecidableEq, Repr

/-- The pages that PF0 reaches in a device state (R267, R468, R491). -/
def State.pageShown (s : State) (b : Blk) : Bool :=
  match s.pwr.state with
  | .halted => [Blk.dev, .pwr, .seal, .mgt, .sec].contains b
  | .boot => [Blk.dev, .pwr].contains b || (decide (b = .mgt) && s.mgt.recovery)
  | _ => true

/-- An access through a function to a page, for a register of the given classes (R31, R36, R43): what the class or the page class
forbids is disallowed; a VF outside RUN, and a page that the device state hides, reads zero (R267, R314, R468). -/
def State.gate (s : State) (fn : Nat) (b : Blk) (inst : Nat) (drv par : Bool) : Gate :=
  let owned := b.shared || (b.bound && (s.cluster inst).owner.toNat == fn - 1)
  let allowed := if fn = 0 then drv else par && owned
  if !allowed then .bad
  else if !s.fnOpen fn || !s.pageShown b then .zero
  else .go

/-- The lockable fields of a page ignore writes through a function (R33). -/
def State.lockHolds (s : State) (fn : Nat) (b : Blk) (inst : Nat) : Bool :=
  let l := s.reg 0 b inst 0x30 0
  l.testBit 1 || (l.testBit 0 && fn != 0)

/-- A driver's write to a lockable register: disallowed through a virtual function or under SEALED; without effect where the page
does not show, and disallowed there too where the lock or `other`, another rule, makes it so. -/
def State.driverWrite (s : State) (fn : Nat) (b : Blk) (inst off : Nat) (lockable : Bool) (f : State → State)
    (other : Bool := false) : State :=
  match s.gate fn b inst true false with
  | .zero => if (lockable && s.lockHolds fn b inst) || other then s.badAccess fn true false 4 (regOff b inst off) else s
  | .bad => s.badAccess fn true false 4 (regOff b inst off)
  | .go => if lockable && s.lockHolds fn b inst then s.badAccess fn true false 4 (regOff b inst off) else f s

end Sys2Proof.Machine
end

