-- ==== Sys2Proof/Machine/Reset.lean ====
section
/-!
DEFINITION. Resets of the device (R470, R471): the journal store at BOOT (R483, R487), the image slot that BOOT runs (R489), the
power-on reset, the warm device reset and what each keeps; the end of BOOT (R455, R272).
-/

namespace Sys2Proof.Machine

/-- Move a TDI to ERROR (R314). -/
def State.tdiError (s : State) (p : Nat) : State :=
  match s.tdi p with
  | .locked | .run => { s with hif := { s.hif with tdi := tput Tdi.unlocked s.hif.tdi p .error } }.raise .hif 0 4 63
  | _ => s

/-! ## Journal payloads (R480; log entry 23) -/

/-- The payload of an ERA record of a stack. -/
def State.eraPayload (s : State) (k : Nat) : List Byte :=
  (List.range 16).flatMap fun i =>
    let c := s.chan (k * 16 + i)
    leBytes 2 c.era.toNat ++ leBytes 2 c.complete.toNat

/-- Journal the ERA of a stack (R236). -/
def State.journalEra (s : State) (k : Nat) : State := s.journal .era k (s.eraPayload k)

/-- A slot in an IMAGE record: 0 for A, 1 for B, 0xFF for none. -/
def slotByte (b : Option Bool) : Byte :=
  match b with
  | some true => 1
  | some false => 0
  | none => 0xFF

/-- The slot that a byte of an IMAGE record names. -/
def slotOf (b : Byte) : Option Bool := if b = 0xFF then none else some (b == 1)

/-- The payload of the IMAGE record. -/
def Mgt.imagePayload (m : Mgt) : List Byte :=
  [slotByte (some m.activeB), slotByte m.stagedB, slotByte m.tryB, BitVec.ofNat 8 (b2n m.tryUsed)]
    ++ leBytes 2 m.slotA.svn.toNat ++ leBytes 2 m.slotB.svn.toNat

/-- Journal the image state. -/
def State.journalImage (s : State) : State := s.journal .image 0 s.mgt.imagePayload

/-! ## The journal store at BOOT -/

/-- Every committed record whose TAG verifies. -/
def Mgt.good (m : Mgt) : List Rec := (m.sectors.flatMap fun e => e.2.recs).filter (·.ok)

/-- The committed record of a type and key with the highest SEQ (R483). -/
def newest (l : List Rec) (ty : RecType) (key : Nat) : Option Rec :=
  l.foldl (fun (b : Option Rec) r =>
    if r.type = ty ∧ r.key.toNat = key then
      match b with
      | none => some r
      | some x => if x.seq.toNat ≤ r.seq.toNat then some r else b
    else b) none

/-- Format the journal store (R487). -/
def Mgt.format (m : Mgt) : Mgt :=
  { m with sectors := m.sectors.map fun e => (e.1, { Sector.reset with erases := e.2.erases }), serial := Config.serial,
           reformat := true, nextSeq := 1, queue := [] }

/-- A cluster's health from a HEALTH record of its quadrant. -/
def healthFrom (r : Option Rec) (hours i : Nat) (c : Cluster) : Cluster :=
  match r with
  | none => c
  | some x =>
    let at' := leAt x.payload (6 * i + 2) 4
    let h : Health := match leAt x.payload (6 * i) 1 with
      | 1 => .suspect
      | 2 => .confirmed
      | _ => .normal
    { c with health := h, findings := BitVec.ofNat 8 (leAt x.payload (6 * i + 1) 1)
             hours := if at' = 0xFFFFFFFF then 0xFFFF else BitVec.ofNat 16 (min 0xFFFF (hours - at')) }

/-- A channel's ERA and spare rows from the journal. -/
def chanFrom (l : List Rec) (ch : Nat) : Channel :=
  let c := match newest l .era (ch / 16) with
    | none => Channel.reset
    | some x => { Channel.reset with era := BitVec.ofNat 14 (leAt x.payload (4 * (ch % 16)) 2)
                                     complete := BitVec.ofNat 14 (leAt x.payload (4 * (ch % 16) + 2) 2) }
  -- duplicate records name the same remap (R485); a row that was spared twice has two
  let maps := ((l.filter fun r => decide (r.type = .spare) && r.key.toNat == ch / 16 && leAt r.payload 0 1 == ch % 16).map
    fun r => (leAt r.payload 1 4, leAt r.payload 5 2)).eraseDups
  { c with spared := maps.map (·.1), spares := 256 - maps.length, passEra := c.era }

/-- What BOOT restores from records (R483): health, REPLACE, offline units, ERA, spare rows, hours and the image slots. -/
def State.restore (s : State) (l : List Rec) : State :=
  let hrs := match newest l .hours 0 with
    | some r => leAt r.payload 0 8
    | none => 0
  let h := (List.range 4).map fun q => newest l .health q
  let epoch := h.foldl (fun m r => max m ((r.map fun x => leAt x.payload 194 4).getD 0)) 0
  let flag := h.any fun r => (r.map fun x => leAt x.payload 192 1 == 1).getD false
  let off := (((h.filterMap id).foldl (fun (b : Option Rec) r =>
    match b with
    | none => some r
    | some x => if x.seq.toNat ≤ r.seq.toNat then some r else b) none).map fun x => leAt x.payload 193 1).getD 0
  let m := { s.mgt with hours := hrs, replace := flag || (decide (epoch < s.sec.epoch) && s.lifecycle != 1 && s.lifecycle != 4) }
  let m := match newest l .image 0 with
    | none => { m with activeB := false, stagedB := none, tryB := none, tryUsed := false }
    | some r => { m with activeB := slotOf (r.payload.getD 0 0) == some true, stagedB := slotOf (r.payload.getD 1 0xFF)
                         tryB := slotOf (r.payload.getD 2 0xFF), tryUsed := r.payload.getD 3 0 == 1 }
  { s with
    mgt := m
    clusters := ((List.range 128).map fun c => (c, healthFrom (h[c / 32]?.join) hrs (c % 32) Cluster.reset)).filter
      fun e => e.2 != Cluster.reset
    chans := ((List.range 512).map fun c => (c, chanFrom l c)).filter fun e => e.2 != Channel.reset
    units := ((List.range 4).map fun q => (q, { ProofUnit.reset with online := !off.testBit q })).filter
      fun e => e.2 != ProofUnit.reset }

/-! ## The image that BOOT runs (R489) -/

/-- A slot's bundle. -/
def Mgt.slot (m : Mgt) (b : Bool) : FwSlot := if b then m.slotB else m.slotA

/-- The slot that runs: the one under trial, else the active one. -/
def Mgt.running (m : Mgt) : Bool := if m.tryUsed then m.tryB.getD m.activeB else m.activeB

/-- BOOT's choice of the slot: TRY once, then the previous slot; a fallback is a ROLLBACK. -/
def State.chooseSlot (s : State) : State :=
  let m := s.mgt
  match m.tryB with
  | none => s
  | some _ =>
    if m.tryUsed then
      let s := { s with mgt := { m with tryB := none, tryUsed := false, stagedB := none } }
      ((((s.event evRollback 0 0).errBit .mgt 0 4 63).raise .mgt 0 5 63).raise .mgt 0 4 63).journalImage
    else { s with mgt := { m with tryUsed := true } }.journalImage

/-! ## BOOT begins -/

/-- The slot that staging writes: A in recovery staging, else the inactive one (R488, R491). -/
def Mgt.target (m : Mgt) : Bool := !m.recovery && !m.running

/-- Store a slot. -/
def Mgt.setSlot (m : Mgt) (b : Bool) (x : FwSlot) : Mgt := if b then { m with slotB := x } else { m with slotA := x }

/-- A reset ends the firmware operation: a bundle that was being staged leaves its slot empty (R488). -/
def Mgt.cut (m : Mgt) : Mgt :=
  let m := if m.fwBusy then m.setSlot m.target { (m.slot m.target) with valid := false } else m
  { m with fwBusy := false, recovery := false, fwLen := 0, reformat := false }

/-- A power-on reset's fresh state: OTP, flash contents, what the board supplies and the model's own fields stay; the readings
of rails, sensors and power are 0 until they are next measured (R11). The draws of the boot are fresh (R432), and CKPT_IDs go
on (R189). -/
def State.cold (s : State) (cause : RstCause) : State :=
  let n := s.freeCtr
  let x := s.sec
  { State.reset with
    pending := s.pending
    out := s.out ++ [.reset]
    freeCtr := n + 516
    ckptId := s.ckptId
    lines := s.lines
    ports := if s.pwr.refFab then [] else (List.range 8).map fun p => (p, { Port.reset with reason := 2 })
    pwr := { Pwr.reset with
      rails := s.pwr.rails.map fun r => (0, 0xFFFF, r.2.2), cause := cause, dramHot := s.pwr.dramHot
      held := s.pwr.rails.any (·.2.2), refFab := s.pwr.refFab, refCxl := s.pwr.refCxl, refAon := s.pwr.refAon
      pwrOk := s.pwr.pwrOk, sbSmbus := s.pwr.sbSmbus }
    sec := { Sec.reset with
      lc := x.lc, dus := x.dus, cloaked := x.cloaked, floor := x.floor, epoch := x.epoch
      nonce := (Config.trng n).setWidth 256, seed := (Config.trng (n + 2)).setWidth 256
      bootVal := (Config.trng (n + 3)).setWidth 256, treeKeys := some (n + 4) }
    mgt := { s.mgt.cut with queue := [], fwErr := 0 } }

/-- What a warm device reset keeps beside what a power-on reset keeps (R471): the always-on domain, the trained CXL link, the
halt record, unstamped records and the mailbox STATUS. R471 has no row for SEC_MB_RESP_LEN, which returns to its Reset value, nor
for the readings of rails, sensors and power, which stay (log entry 183). -/
def State.warmKeep (s : State) (cause : RstCause) : State :=
  let t := s.cold cause
  { t with
    pwr := { t.pwr with
      trip := s.pwr.trip, rails := s.pwr.rails.map fun r => (r.1, 0xFFFF, r.2.2), watts := s.pwr.watts
      temps := s.pwr.temps.map fun e => (e.1, (e.2.1, 0, 0)) }
    mgt := { s.mgt.cut with fwErr := 0 }
    hif := { Hif.reset with up := s.hif.up, rate := s.hif.rate, width := s.hif.width, tries := s.hif.tries, stuck := s.hif.stuck }
    halt := s.halt
    egress := (s.egress.map fun e => (e.1, e.2.filter (·.free))).filter fun e => !e.2.isEmpty
    sec := { t.sec with status := if s.sec.busy then 8 else s.sec.status } }

/-- Entry to RETURN, points 3 and 4 (R429): the journal store is erased and the RETURN word burned. -/
def State.returnEntry (s : State) : State :=
  { s with mgt := s.mgt.format, sec := { s.sec with lc := s.sec.lc.map (· ||| 0x3FFF#16) } }

/-- BOOT begins on a fresh state: an interrupted entry to RETURN resumes (R429), the journal store is scanned, formatted or
restored, and the slot is chosen. In RETURN the records of an earlier boot do not verify (R479). `carry` are the current
values of what the journal holds, for a reset that keeps the always-on domain. -/
def State.boot (s : State) (carry : Option State) : State :=
  let s := if s.sec.cloaked ∧ (s.lifecycle = 2 ∨ s.lifecycle = 3) then s.returnEntry else s
  let old := s.mgt.good
  let s := if s.lifecycle = 4 ∧ !old.isEmpty then
      let bad := s.mgt.sectors.map fun e => (e.1, { e.2 with recs := e.2.recs.map fun r => { r with ok := false } })
      ({ s with mgt := { s.mgt with sectors := bad } }.errBit .mgt 0 2 63).raise .mgt 0 3 63
    else s
  let good := s.mgt.good
  let known := !good.isEmpty || (carry.isSome && !s.mgt.queue.isEmpty && s.lifecycle != 4)
  let fresh := decide (s.mgt.serial ≠ Config.serial) || !known
  let s := if fresh && decide (s.mgt.store = 0) then { s with mgt := s.mgt.format }.restore []
    else
      match carry with
      | none => s.restore good
      | some o => { s with
          mgt := { s.mgt with hours := o.mgt.hours, replace := o.mgt.replace }
          clusters := (o.clusters.map fun e => (e.1, { Cluster.reset with
            health := e.2.health, findings := e.2.findings, hours := e.2.hours })).filter fun e => e.2 != Cluster.reset
          chans := (o.chans.map fun e => (e.1, { Channel.reset with
            era := e.2.era, complete := e.2.complete, passEra := e.2.era, spares := e.2.spares, spared := e.2.spared })).filter
              fun e => e.2 != Channel.reset
          units := (o.units.map fun e => (e.1, { ProofUnit.reset with online := e.2.online })).filter
            fun e => e.2 != ProofUnit.reset }
  -- a CONFIRMED cluster stays out of service (R287)
  let out := fun (e : Nat × Cluster) =>
    if e.2.health = .confirmed then (e.1, { e.2 with inService := false, pwr := .fallow }) else e
  let s := { s with clusters := s.clusters.map out }
  let s := s.chooseSlot
  let s := { s with sec := { s.sec with m4 := (s.mgt.slot s.mgt.running).meas } }
  let s := (List.range 4).foldl (fun (t : State) q => if (t.unit q).online then t else t.raise .prf q 5 63) s
  let s := State.maintRise State.reset s
  if s.mgt.stagedB.isSome then s.raise .sec 0 2 63 else s

/-- A power-on reset (R470). -/
def State.powerOn (s : State) (cause : RstCause) : State := (s.cold cause).boot none

/-- A warm device reset, or Seal-halt recovery (R470): points 1 to 4 of R266 without HALT_N, then BOOT. -/
def State.warm (s : State) (cause : RstCause) : State :=
  let c := if s.pwr.sealHalt then .sealHalt else if s.pwr.state = .halted then .trip else cause
  (s.warmKeep c).boot (some s)

/-! ## The end of BOOT -/

/-- A line as an erase pass meets it (R235): a stale or uncorrectable one is rewritten EMPTY under the current ERA. -/
def State.eraseLine (s : State) (ch line : Nat) (env : Env) : State :=
  let (r, t) := s.mcRead ch line env
  let era := (s.chan ch).era.toNat
  if (r.map fun l => l.state.toNat % 2 ^ 14) = some era then t else t.setLine (lidOf ch line) (Line.make 0 0 0 era)

/-- The erase pass of a channel has reached its last object line (R235, R236). -/
def State.eraseDone (s : State) (ch : Nat) : State :=
  let c := s.chan ch
  ((s.setChan ch { c with front := none, complete := c.passEra }).journalEra (ch / 16)).raise .mc (ch / 16) 5 63

/-- The last `n` object lines of a channel, erased in ascending order. -/
def State.eraseRest (ch : Nat) : Nat → State → State
  | 0, s => s
  | n + 1, s => State.eraseRest ch n (s.eraseLine ch (objectLines - (n + 1)) Env.quiet)

/-- Before an advance of the ERA that would leave COMPLETE_ERA 16,383 behind, the current erase pass runs to its end (R236). -/
def State.eraFinish (s : State) (ch : Nat) : State :=
  let c := s.chan ch
  if c.era + 1 - c.complete = 16383 then
    (State.eraseRest ch (objectLines - (c.front.getD 0).toNat) s).eraseDone ch
  else s

/-- ERA advances by one, and an erase pass starts (R235, R236). -/
def Channel.advance (c : Channel) : Channel :=
  { c with era := c.era + 1, passEra := c.era + 1, front := some 0 }

/-- Every channel's ERA advances during BOOT (R272), and the ERA records are journaled. -/
def State.advanceAll (s : State) : State :=
  let s := (List.range 512).foldl State.eraFinish s
  let s := { s with chans := (List.range 512).map fun c => (c, (s.chan c).advance) }
  (List.range 32).foldl (fun (t : State) k => t.journalEra k) s

/-- The end of BOOT (R455, R468, R489). -/
def State.bootEnd (s : State) : State :=
  let s := s.advanceAll
  let m := s.mgt
  let s := if m.tryUsed then
      ({ s with mgt := { m with activeB := m.running, stagedB := none, tryB := none, tryUsed := false } }.journalImage).raise
        .mgt 0 4 63
    else s
  let s := { s with pwr := { s.pwr with state := if s.mgt.replace then .evacuate else .service } }
  (s.raise .pwr 0 5 63).coloResume

end Sys2Proof.Machine
end

