-- ==== Sys2Proof/Machine/Partitions.lean ====
section
/-!
DEFINITION. Partitions (chapter 16): bind requests and their checks, the bind, release and reset sequences, cluster removal and
Case way flushes; clusters' power states and flash-clears (R67, R68).
-/

namespace Sys2Proof.Machine

/-! ## Clusters changing hands (R37, R68, R373) -/

/-- CL_CTRL of a cluster. -/
def State.clCtrl (s : State) (c : Nat) : Nat := s.reg 0 .cl c 0x10 0x1401

/-- Clear the interrupt and error registers of a cluster's pages (R37). -/
def State.clearPages (s : State) (c : Nat) : State :=
  [Blk.cl, .sow, .gal, .gln, .vec].foldl (fun (t : State) b =>
    ((t.setReg 0 b c 0x24 0 0).setReg 0 b c 0x28 0 0).setReg 0 b c 0x18 0 0) s

/-- Flash-clear a cluster to its completion: its contents are zero and CLEAR_DONE is raised (R68). -/
def State.flashDone (s : State) (c : Nat) : State :=
  (s.setCluster c { (s.cluster c).flash with clear := false, worked := false }).raise .cl c 4 63

/-- A cluster runs a referee pass (R284). -/
def State.isReferee (s : State) (c : Nat) : Bool :=
  (List.range 4).any fun q => (s.unit q).queue.any fun k => (k.referee.map (·.toNat)) == some c

/-- Give a cluster to an owner: its pages cleared, its counts started anew (R37, R373). -/
def State.handCluster (s : State) (c : Nat) (owner : BitVec 6) (pwr : ClPwr) : State :=
  let s := (s.setReg 0 .gln c 0x40 0 0).setReg 0 .vec c 0x40 0 0
  s.setCluster c { s.cluster c with owner := owner, pwr := pwr, faultCtx := 0, faultCode := 0, sowFault := 0, passes := 0,
                                    rowsDone := 0 }

/-- A cluster leaves its partition for 0x3F: its pages are cleared, then it is flash-cleared; it is IDLE, or FALLOW when that
is requested (R373, point 3). -/
def State.freeCluster (s : State) (c : Nat) : State :=
  ((s.clearPages c).flashDone c).handCluster c 0x3F (if (s.clCtrl c).testBit 1 then .fallow else .idle)

/-- A cluster joins a partition: woken from FALLOW, and else in the power state that it has (R67); flash-cleared, then its pages
are cleared; the shares of the partition's placed contexts lie on it as on the others (R373, point 4; R381). -/
def State.joinCluster (s : State) (p c : Nat) : State :=
  let pwr := (s.cluster c).pwr
  let s := ((s.flashDone c).clearPages c).handCluster c (BitVec.ofNat 6 p) (if pwr = .fallow then .active else pwr)
  let mine := s.ctxs.filterMap fun e => if e.2.bound && e.2.part.toNat == p then e.2.placed.map fun x => (e.1, x) else none
  mine.foldl (fun (t : State) e => t.setCluster c ((t.cluster c).setSlot e.2.slot (some (newSlot e.1 e.2)))) s

/-! ## Requests (R371, R372) -/

/-- The clusters, channels or blocks whose bits a field of the request sets. -/
def reqBits (r off len : Nat) : List Nat := (List.range (8 * len)).filter fun i => (field r off len).testBit i

/-- Channels in the order of an extent (R228). -/
def chanOrder (l : List Nat) : List Nat :=
  ((List.range 512).map fun i => i % 32 * 16 + i / 32).filter fun c => l.contains c

/-- The resources that a partition would hold: whether every slice name that it gives is free. -/
def State.sliceFree (s : State) (p slice : Nat) : Bool :=
  (s.sliceOff slice).isSome && !s.parts.any fun e => e.1 != p && (e.2.slice.map (·.toNat)) == some slice

/-- The request keeps the layout of R371. -/
def reqForm (r : Nat) : Bool :=
  let op := field r 0 1
  let none := (field r 3 1).testBit 6
  (op == 1 || op == 2 || op == 3) && decide (field r 1 1 ≤ 62) &&
    (if op = 1 then
      decide (field r 2 1 < 8) && !(field r 3 1).testBit 7 && (!none || field r 3 1 % 64 == 0) && field r 6 2 == 0
        && field r 113 15 == 0 && field r 192 64 == 0
    else field r 2 254 == 0)

/-- The device is in EVACUATE, or will be when it leaves BRACED (R288). -/
def State.replacing (s : State) : Bool := decide (s.pwr.state = .evacuate) || s.mgt.replace

/-- PART_BIND.ERR of a request: the first check of R372 that fails, 0 for none. -/
def State.bindCheck (s : State) (r : Nat) : Nat :=
  let op := field r 0 1
  let p := field r 1 1
  let x := s.part p
  let flags := field r 2 1
  let slice := field r 3 1
  let adds := reqBits r 16 16
  let drops := reqBits r 32 16
  let chans := reqBits r 48 64
  let exts := reqBits r 112 1
  let owner := fun c => (s.cluster c).owner.toNat
  let total := fun i => s.parts.foldl (fun n e => if e.1 = p then n else n + (e.2.ports.getD i 0).toNat) (field r (8 + i) 1)
  let others := s.parts.foldl (fun (m : BitVec 16) e => if e.1 = p then m else m ||| e.2.ways) 0
  let allowed := match x.state with
    | .free => op == 1
    | .active => true
    | .halted => op != 1
    | _ => false
  if !reqForm r then 1
  else if !allowed || (op == 1 && s.replacing) then 2
  else if op != 1 then (if op = 3 ∧ (s.clustersOf p).isEmpty then 10 else 0)
  else if adds.any (fun c => owner c != 0x3F || !(s.cluster c).inService) || drops.any (fun c => owner c != p) then 3
  else if !chans.isEmpty && (chans.any (fun c => (s.chan c).owner != 0x3F) || decide (8 ≤ x.extents.length)) then 4
  else if exts.any fun e => (tget [] x.extents e).isEmpty ||
      (s.objsOf p).any fun o => !o.2.host && o.2.ext.toNat == e then 5
  else if flags.testBit 0 && (field r 4 2 &&& others.toNat) != 0 then 6
  else if flags.testBit 1 && (List.range 8).any fun i => decide (64 < total i) then 7
  else if (reqBits r 128 32).any (fun b => b == 0 || (s.kid (256 * b)).owner != 0x3F) ||
      (reqBits r 160 32).any fun b => (List.range 256).any fun i =>
        (s.kid (256 * b + i)).owner.toNat != p || decide ((s.kid (256 * b + i)).state ≠ .bound) then 8
  else if flags.testBit 2 && !slice.testBit 6 && !s.sliceFree p (slice % 64) then 9
  else if (s.clustersOf p).length + adds.length = drops.length ∨
      x.extents.length + (if chans.isEmpty then 0 else 1) = exts.length then 10
  else 0

/-! ## Tearing down a partition's contexts (R344, R376, R377) -/

/-- Tear down every bound context of a partition; a reset under way becomes a teardown. -/
def State.tearAll (s : State) (p : Nat) : State :=
  (s.ctxsOf p).foldl (fun (t : State) e =>
    (t.setCtx e.1 { t.ctx e.1 with tdReset := false }).tearStart e.1 false none) s

/-- Every teardown of a partition and every retirement that it started has completed. -/
def State.drained (s : State) (p : Nat) : Bool :=
  (s.ctxsOf p).isEmpty && (s.objsOf p).isEmpty && !s.retiring.any fun e => (s.kid e.1.toNat).owner.toNat == p

/-- Put a partition into RESETTING and tear its contexts down (R377). -/
def State.resetPart (s : State) (p : Nat) : State := (s.partTo p .resetting).tearAll p

/-- A request is refused or done: BUSY clears and BIND_DONE is raised. -/
def State.bindEnd (s : State) (err : Nat) : State :=
  { s with bind := none, bindErr := BitVec.ofNat 4 err }.raise .part 0 0 63

/-- The partition manager works: its clocks run and its page is reachable. -/
def State.partLive (s : State) : Bool :=
  decide (s.pwr.state = .service) || decide (s.pwr.state = .braced) || decide (s.pwr.state = .evacuate)

/-- PART_BIND.START with what the host read returns: the request is checked and, if accepted, begun (R371 to R373, R376,
R377). -/
def State.bindStart (s : State) (b : BindIn) : State :=
  if !s.partLive || s.bind.isSome then s
  else
    match b.req with
    | none => s.bindEnd 15
    | some w =>
      let r := w.toNat
      let p := field r 1 1
      let s := { s with bindPart := BitVec.ofNat 6 p }
      let err := s.bindCheck r
      if err ≠ 0 then s.bindEnd err
      else
        let b : BindReq := { op := BitVec.ofNat 8 (field r 0 1), part := BitVec.ofNat 6 p, req := w, moved := false }
        let s := { s with bindErr := 0, bind := some b }
        match field r 0 1 with
        | 1 => s.partTo p .binding
        | 2 => (s.partTo p .draining).tearAll p
        | _ => s.resetPart p

/-- BIND. -/
def execBind (b : BindIn) (s : State) : Host.Outcome State Fault Refusal := .next (s.bindStart b).settle

/-- RELEASE. -/
def execRelease (b : BindIn) (s : State) : Host.Outcome State Fault Refusal := .next (s.bindStart b).settle

/-- PART_RESET. -/
def execPartReset (b : BindIn) (s : State) : Host.Outcome State Fault Refusal := .next (s.bindStart b).settle

/-! ## Removing and adding resources (R271, R373) -/

/-- The crypto-erase of a channel (R271): the Case drops its lines, its counters are written back, GEN and ERA advance. -/
def cryptoErase (ch : Nat) : M Unit := do
  upd (·.caseKeep fun lid _ => lid / 2 ^ 24 != ch)
  flushChannel Env.quiet ch
  upd fun s =>
    let s := s.eraFinish ch
    let c := s.chan ch
    (s.setChan ch { c with gen := c.gen + 1 }.advance).journalEra (ch / 16)

/-- Remove an extent of a partition. -/
def dropExtent (p e : Nat) : M Unit := do
  let l ← look fun s => tget [] (s.part p).extents e
  l.forM fun ch => do
    cryptoErase ch
    upd fun s => s.setChan ch { s.chan ch with owner := 0x3F }
  upd fun s => s.setPart p { s.part p with extents := tput [] (s.part p).extents e [] }

/-- The KeyIDs of a block. -/
def blockKids (b : Nat) : List Nat := (List.range 256).map (256 * b + ·)

/-- Ways of a mask. -/
def wayList (m : BitVec 16) : List (BitVec 4) := ((List.range 16).filter fun i => m.toNat.testBit i).map (BitVec.ofNat 4)

/-- Point 3 of R373: the leaving resources are removed. A leaving way is flushed by CASE_FLUSH_DONE. -/
def bindRemove (p r : Nat) : M Unit := do
  (reqBits r 32 16).forM fun c => upd (·.freeCluster c)
  (reqBits r 112 1).forM fun e => dropExtent p e
  (reqBits r 160 32).forM fun b => upd fun s => (blockKids b).foldl (fun (t : State) k => t.setKid k KeyId.reset) s
  if (field r 2 1).testBit 0 then
    upd fun s =>
      let x := s.part p
      let old := x.ways
      let keep := old &&& BitVec.ofNat 16 (field r 4 2)
      { (s.setPart p { x with ways := keep }) with flushing := s.flushing ++ wayList (old &&& ~~~ keep) }
  if (field r 2 1).testBit 1 then
    upd fun s =>
      let x := s.part p
      let kept := (List.range 8).map fun i => BitVec.ofNat 7 (min (x.ports.getD i 0).toNat (field r (8 + i) 1))
      s.setPart p { x with ports := kept }

/-- Point 4 of R373: the joining resources are added. -/
def bindAdd (p r : Nat) : M Unit := do
  let flags := field r 2 1
  let slice := field r 3 1
  (reqBits r 16 16).forM fun c => upd (·.joinCluster p c)
  let chans := chanOrder (reqBits r 48 64)
  if !chans.isEmpty then
    upd fun s =>
      let x := s.part p
      let e := ((List.range 8).find? fun e => (tget [] x.extents e).isEmpty).getD 0
      chans.foldl (fun (t : State) ch => t.setChan ch { t.chan ch with owner := BitVec.ofNat 6 p })
        (s.setPart p { x with extents := tput [] x.extents e chans })
  if flags.testBit 0 then
    upd fun s => s.setPart p { s.part p with ways := BitVec.ofNat 16 (field r 4 2) }
  (reqBits r 128 32).forM fun b => upd fun s =>
    (blockKids b).foldl (fun (t : State) k => t.setKid k { KeyId.reset with state := .bound, owner := BitVec.ofNat 6 p }) s
  if flags.testBit 1 then
    upd fun s => s.setPart p { s.part p with ports := (List.range 8).map fun i => BitVec.ofNat 7 (field r (8 + i) 1) }
  if flags.testBit 2 then
    upd fun s => s.setPart p { s.part p with slice := if slice.testBit 6 then none else some (BitVec.ofNat 6 (slice % 64)) }

/-- Points 3 and 4 of R373. A device that has entered EVACUATE since it accepted the request adds nothing (R288; log entry
184). -/
def bindMoves (p r : Nat) : M Unit := do
  bindRemove p r
  if !(← look (·.replacing)) then bindAdd p r

/-- A partition is quiescent: none of its commands is dispatched and not completed (R373, point 2). -/
def State.quiescent (s : State) (p : Nat) : Bool :=
  !s.inflight.any fun c => !isMgmt c.src && c.started && s.partOf c.src == p

/-- What a reset that arrived in BINDING or DRAINING brings when the sequence has ended (R370). -/
def State.lateFlr (s : State) (p : Nat) : State :=
  let x := s.part p
  let s := s.setPart p { x with flrDue := false }
  if x.flrDue ∧ (x.state = .active ∨ x.state = .halted) then s.resetPart p else s

/-- Point 5 of R373. -/
def State.bindFinish (s : State) (p : Nat) : State :=
  let x := s.part p
  let s := (s.setPart p { x with haltDue := false }).stampSizes p
  let s := (s.partTo p .active).bindEnd 0
  let s := if x.haltDue || (s.clustersOf p).isEmpty then s.partHalt p else s
  s.lateFlr p

/-- Point 5 of R376. -/
def State.releaseFinish (s : State) (p : Nat) : State := (s.partTo p .free).bindEnd 0

/-- The resources of a request have moved: its sequence ends, once every leaving way is flushed (R232, R373, R376). -/
def State.movesDone (s : State) (b : BindReq) : State :=
  if s.flushing.isEmpty then (if b.op = 1 then s.bindFinish b.part.toNat else s.releaseFinish b.part.toNat)
  else { s with bind := some { b with moved := true } }

/-- BIND_QUIESCED: the leaving resources are removed, the joining ones added, and the partition returns to ACTIVE (log entry
40). -/
def execBindQuiesced (s : State) : Host.Outcome State Fault Refusal :=
  match s.bind with
  | none => .next s
  | some b =>
    let p := b.part.toNat
    if b.op ≠ 1 ∨ b.moved ∨ !s.partLive ∨ !s.quiescent p ∨ (reqBits b.req.toNat 16 16).any s.isReferee then .next s
    else
      match bindMoves p b.req.toNat s with
      | .ok _ t => .next (t.movesDone b).settle
      | .error (.halt h) t => .next (t.sealHaltNow h)
      | .error _ t => .next (t.movesDone b).settle

/-- A way is empty and zeroed, and its change is over. -/
def State.flushed (s : State) (way : BitVec 4) : State :=
  let s := { s.caseKeep (fun _ c => c.way != way) with flushing := s.flushing.filter (· != way) }.raise .mc 0 6 63
  match s.bind with
  | some b => if b.moved then s.movesDone b else s
  | none => s

/-- CASE_FLUSH_DONE: a way that left a partition is written back, invalidated and zeroed (R232); the last one ends the sequence
that it left in (R373, R376). -/
def execCaseFlushDone (way : BitVec 4) (s : State) : Host.Outcome State Fault Refusal :=
  if !s.flushing.contains way then .next s
  else
    let lids := s.cases.filterMap fun e => match e.2 with
      | some c => if c.way = way then some e.1 else none
      | none => none
    match (lids.forM (writeBack Env.quiet) : M Unit) s with
    | .ok _ t => .next (t.flushed way).settle
    | .error (.halt h) t => .next (t.sealHaltNow h)
    | .error _ t => .next (t.flushed way).settle

/-! ## Release and reset -/

/-- Retire a KEYED KeyID that serves no object (R376, point 3). -/
def State.retireBare (s : State) (k : Nat) : State :=
  let o := (s.kid k).owner
  ((s.caseKeep fun _ c => c.kid.toNat != k).setKid k { KeyId.reset with state := .bound, owner := o }).raise .seal 0 2 63

/-- Points 3 and 4 of R376. -/
def releaseMoves (p : Nat) : M Unit := do
  upd fun s => (s.kids.filter fun e => e.2.owner.toNat == p && decide (e.2.state = .keyed)).foldl
    (fun (t : State) e => t.retireBare e.1) s
  upd fun s => (s.clustersOf p).foldl (fun (t : State) c => t.freeCluster c) s
  (List.range 8).forM fun e => dropExtent p e
  upd fun s => (s.kids.filter fun e => e.2.owner.toNat == p).foldl (fun (t : State) e => t.setKid e.1 KeyId.reset) s
  upd fun s => s.caseKeep fun _ c => c.part.toNat != p
  upd fun s =>
    let x := s.part p
    { (s.setPart p { Partition.reset with state := x.state, sizesGen := x.sizesGen + 1 }) with
      flushing := s.flushing ++ wayList x.ways }

/-- RELEASE_DRAINED. -/
def execReleaseDrained (s : State) : Host.Outcome State Fault Refusal :=
  match s.bind with
  | none => .next s
  | some b =>
    let p := b.part.toNat
    if b.op ≠ 2 ∨ b.moved ∨ !s.partLive ∨ !s.drained p then .next s
    else
      match releaseMoves p s with
      | .ok _ t => .next (t.movesDone b).settle
      | .error (.halt h) t => .next (t.sealHaltNow h)
      | .error _ t => .next (t.movesDone b).settle

/-- Partition-class settings of the shared pages (R377, R471): block, offset. -/
def partSettings : List (Blk × Nat) :=
  [(.dev, 0x124), (.dev, 0x128), (.dev, 0x12C), (.scl, 0x48), (.scl, 0x4C), (.scl, 0x54), (.rdu, 0x48), (.coll, 0x40),
   (.coll, 0x44), (.coll, 0x48), (.mc, 0x40), (.mc, 0x80), (.seal, 0x68), (.prf, 0x40), (.prf, 0x44), (.iommu, 0x54),
   (.part, 0x64), (.frt, 0x60)] ++ (Blk.all.filter (·.shared)).map fun b => (b, 0x24)

/-- Return a partition's partition-class settings to their reset values: its copies in the shared pages, and those of its
clusters' pages, where FALLOW_REQ is the driver's (R471). -/
def State.resetSettings (s : State) (p : Nat) : State :=
  let s := (partSettings.flatMap fun e => (List.range e.1.count).map fun i => (e, i)).foldl (fun (t : State) e =>
    { t with regs := tdel (regKey (p + 1) e.1.1 e.2 e.1.2) t.regs }) s
  (s.clustersOf p).foldl (fun (t : State) c =>
    let t := t.setReg 0 .cl c 0x10 0x1401 (0x1401 + 2 * (t.clCtrl c / 2 % 2))
    let t := t.setReg 0 .sow c 0x10 0x800 0x800
    [Blk.cl, .sow, .gal, .gln, .vec].foldl (fun (u : State) b => u.setReg 0 b c 0x24 0 0) t) s

/-- Points 3 and 4 of R377. -/
def State.resetFinish (s : State) (p : Nat) : State :=
  let s := (s.clustersOf p).foldl (fun (t : State) c => t.flashDone c) s
  let s := (s.caseKeep fun _ c => c.part.toNat != p).resetSettings p
  let x := s.part p
  let s := s.setPart p { x with flrDue := false, holder := none, queueing := [], preemptDue := false, event := false }
  let s := (s.partTo p .active).stampSizes p
  match s.bind with
  | some b => if b.part.toNat = p then s.bindEnd 0 else s.raise .part 0 0 63
  | none => s.raise .part 0 0 63

/-- RESET_DRAINED. -/
def execResetDrained (part : BitVec 6) (s : State) : Host.Outcome State Fault Refusal :=
  let p := part.toNat
  if (s.part p).state ≠ .resetting ∨ !s.partLive ∨ !s.drained p then .next s
  else .next (s.resetFinish p).settle

/-- VF_FLR: a Function Level Reset of a virtual function resets its partition (R302, R370); the function's MSI-X masks and
Bus Master Enable return to their defaults, and its TDI goes to ERROR. -/
def execVfFlr (vf : BitVec 6) (s : State) : Host.Outcome State Fault Refusal :=
  if vf = 0 then .next s
  else
    let p := vf.toNat - 1
    let mine := fun (e : Nat × Bool) => decide (e.1 / 16 ≠ vf.toNat)
    let s := { s with msixOpen := s.msixOpen.filter mine, msixPend := s.msixPend.filter mine
                      hif := { s.hif with masters := tput false s.hif.masters vf.toNat false } }.tdiError p
    if !s.partLive then .next s
    else
      match (s.part p).state with
      | .active | .halted => .next (s.resetPart p).settle
      | .binding | .draining => .next (s.setPart p { s.part p with flrDue := true })
      | _ => .next s

/-! ## Removal of a cluster (R287, R379) -/

/-- A cluster is due to leave its partition outside BINDING. -/
def State.leaves (s : State) (c : Nat) : Bool :=
  let k := s.cluster c
  let p := k.owner.toNat
  k.inService && (decide (k.health = .confirmed) ||
    (k.laggard && (s.reg 0 .part 0 0x10 0).testBit 0 && p != 63 && decide (1 < (s.clustersOf p).length)))

/-- CLUSTER_REMOVE: a CONFIRMED cluster goes out of service into FALLOW; a LAGGARD one returns to 0x3F in service. -/
def execClusterRemove (cl : BitVec 7) (s : State) : Host.Outcome State Fault Refusal :=
  let c := cl.toNat
  let k := s.cluster c
  let p := k.owner.toNat
  if !s.leaves c || !s.atCommand p then .next s
  else if p ≠ 63 ∧ (s.part p).state = .binding then .next s
  else
    let confirmed := decide (k.health = .confirmed)
    let t := if confirmed then
        let t := ((s.clearPages c).flashDone c).handCluster c 0x3F .fallow
        t.setCluster c { t.cluster c with inService := false }
      else (s.freeCluster c).raise .part 0 3 63
    let t := State.trackSizes s t
    if p ≠ 63 ∧ (t.clustersOf p).isEmpty then .next (t.partHalt p).settle else .next t.settle

/-! ## Power states of a cluster (R67, R68) -/

/-- The driver writes FALLOW_REQ: an unbound cluster enters FALLOW, or is woken and flash-cleared. -/
def State.fallow (s : State) (c : Nat) (req : Bool) : State :=
  let v := s.clCtrl c
  let s := s.setReg 0 .cl c 0x10 0x1401 (v - 2 * (v / 2 % 2) + 2 * b2n req)
  let k := s.cluster c
  if k.owner ≠ 0x3F ∨ !k.inService then s
  else if req then
    if k.pwr = .fallow ∨ k.clear ∨ s.isReferee c then s
    else s.setCluster c { k.flash with pwr := .fallow, clear := false, worked := false }
  else if k.pwr = .fallow ∧ s.pwr.state ≠ .slumber then s.setCluster c { k with pwr := .active, clear := true }
  else s

/-- FALLOW_REQ: a write of the field through a function; a virtual function leaves it unchanged. -/
def execFallowReq (fn : BitVec 6) (cl : BitVec 7) (req : Bool) (s : State) : Host.Outcome State Fault Refusal :=
  let c := cl.toNat
  let f := fn.toNat
  match s.gate f .cl c true true with
  | .zero => .next s
  | .bad => .next (s.badAccess f true false 4 (regOff .cl c 0x10))
  | .go => if f ≠ 0 then .next s else .next (s.fallow c req)

/-- IDLE_DELAY_EXPIRY: a cluster without work enters IDLE, while IDLE_EN is 1 and no resident context is RUNNABLE or
RUNNING. -/
def execIdleDelayExpiry (cl : BitVec 7) (s : State) : Host.Outcome State Fault Refusal :=
  let c := cl.toNat
  let k := s.cluster c
  let busy := k.slots.any fun e => match e.2 with
    | some x =>
      let st := (s.ctx x.ctx.toNat).state
      decide (st = .running) || decide (st = .runnable)
    | none => false
  if k.pwr = .active ∧ (s.clCtrl c).testBit 0 ∧ !busy ∧ !k.clear then
    .next (s.setCluster c { k with pwr := .idle, worked := false })
  else .next s

/-- FLASH_CLEAR_DONE: CLEAR_BUSY clears and CLEAR_DONE is raised. An unbound cluster whose FALLOW_REQ is 1 enters FALLOW (R67,
R284). -/
def execFlashClearDone (cl : BitVec 7) (s : State) : Host.Outcome State Fault Refusal :=
  let c := cl.toNat
  if (s.cluster c).clear then
    let s := s.flashDone c
    let k := s.cluster c
    if k.owner = 0x3F ∧ k.inService ∧ (s.clCtrl c).testBit 1 then .next (s.setCluster c { k with pwr := .fallow }) else .next s
  else .next s

end Sys2Proof.Machine
end

