-- ==== Sys2Proof/Machine/Slices.lean ====
section
/-!
DEFINITION. The slice in time (R382 to R386): slice ends, starvation, the switch of a pre-emption, and debug holds.
-/

namespace Sys2Proof.Machine

/-- Charge a span of always-on time to a partition's holder and to those that wait (R386). -/
def State.chargeTime (s : State) (p us : Nat) : State :=
  match (s.part p).holder with
  | some h => s.charge p h us
  | none => s

/-- SLICE_END: the slice of `us` µs is over; the time of a debug hold is no part of it, and while a hold keeps a cluster of the
partition the slice does not count (R385). A ready context of at least the holder's priority makes a pre-emption due, else the
slice is renewed, less what the holder still owes (R382, R384). -/
def execSliceEnd (part : BitVec 6) (us : Nat) (s : State) : Host.Outcome State Fault Refusal :=
  let p := part.toNat
  let x := s.part p
  match x.holder with
  | none => .next s
  | some h =>
    if s.dbgKeeps p then .next s else
    let mine := (s.readyPrio h.toNat).getD 0
    let rival := x.queueing.any fun c => match s.readyPrio c.toNat with
      | some n => decide (mine ≤ n)
      | none => false
    let t := s.chargeTime p us
    if rival then .next (t.setPart p { t.part p with preemptDue := true }).settle
    else
      let k := t.ctx h.toNat
      .next (t.setCtx h.toNat { k with owed := k.owed - t.sliceUs p h.toNat }).settle

/-- STARVE_EXPIRY: a context that has been ready without the slice for STARVE_MS counts as priority 4 (R382). -/
def execStarveExpiry (c : BitVec 12) (s : State) : Host.Outcome State Fault Refusal :=
  let x := s.ctx c.toNat
  if (s.part x.part.toNat).queueing.contains c ∧ (s.readyPrio c.toNat).isSome then
    .next (s.setCtx c.toNat { x with starved := true }).settle
  else .next s

/-- The pre-emption of a context, with its overrun (R383, R384, R386). -/
def State.preempted (s : State) (h : BitVec 12) (overrun : Nat) : State :=
  let k := s.ctx h.toNat
  let busy := s.inflight.any fun c => ctxOf c.src == h.toNat && !isMgmt c.src && sliceBound c.op.toNat && c.started
  s.setCtx h.toNat { k with preempts := k.preempts + 1, overrun := k.overrun + overrun, owed := k.owed + overrun
                            state := if busy ∧ k.state ≠ .faulted ∧ k.state ≠ .teardown then .preempted else k.state }

/-- PREEMPT_SWITCH: every cluster has stopped the holder at a tile boundary and the incoming context runs. `us` is the time
since the last charge, less that of a debug hold (R385), and `overrun` the part of it after the due point for which a
non-pre-emptible unit ran. -/
def execPreemptSwitch (part : BitVec 6) (us overrun : Nat) (s : State) : Host.Outcome State Fault Refusal :=
  let p := part.toNat
  let x := s.part p
  match x.holder with
  | none => .next s
  | some h =>
    if !x.preemptDue || !s.atBoundary h.toNat || s.dbgKeeps p then .next s
    else
      match s.nextHolder x.queueing with
      | none => .next (s.setPart p { x with preemptDue := false })
      | some c =>
        let t := (s.chargeTime p us).preempted h overrun
        let t := t.setPart p { t.part p with queueing := x.queueing ++ [h] }
        .next (t.giveSlice p c).settle

/-- End a debug hold (R385). -/
def State.dbgEnd (s : State) : State := { s with dbg := { s.dbg with hold := false, held := false } }

/-- Begin a debug hold of a cluster: one that stands is held at once. -/
def State.dbgStart (s : State) (cl : BitVec 7) : State :=
  { s with dbg := { hold := true, held := false, cl := cl } }.settleHold

/-- A write of PART_DBG_HOLD: CLUSTER is ignored while HOLD is 1; in confidential mode a HOLD of 1 is disallowed. -/
def State.dbgWrite (s : State) (fn v : Nat) : State :=
  if s.confidential && v.testBit 31 then s.badAccess fn true false 4 (regOff .part 0 0x88)
  else if s.dbg.hold then (if v.testBit 31 then s else s.dbgEnd.settle)
  else if v.testBit 31 then s.dbgStart (BitVec.ofNat 7 v)
  else { s with dbg := { s.dbg with cl := BitVec.ofNat 7 v } }

/-- PART_DBG_HOLD: a write of the register through a function. -/
def execPartDbgHold (w : RegVal) (s : State) : Host.Outcome State Fault Refusal :=
  .next (s.driverWrite w.fn.toNat .part 0 0x88 true (fun t => t.dbgWrite w.fn.toNat w.value.toNat)
    (s.confidential && w.value.toNat.testBit 31))

/-- DEBUG_HOLD_EXPIRY: 250 µs end the hold. -/
def execDebugHoldExpiry (s : State) : Host.Outcome State Fault Refusal :=
  if s.dbg.hold then .next s.dbgEnd.settle else .next s

end Sys2Proof.Machine
end

