-- ==== Sys2Proof/Machine/Proofs.lean ====
section
/-!
DEFINITION. Proof units (chapter 12): the resolution of checks, referee passes, units taken offline, SUSPECT clusters and
laggards.
-/

namespace Sys2Proof.Machine

/-- Remove the first capture that a test admits. -/
def dropFirst (f : Capture → Bool) : List Capture → List Capture
  | [] => []
  | k :: t => if f k then t else k :: dropFirst f t

/-- Take the first capture that a test admits out of a unit's queue: its check has resolved and is counted (PRF_SAMPLED). -/
def State.resolve (s : State) (q : Nat) (f : Capture → Bool) (k : Capture) : State :=
  let s := s.setUnit q { s.unit q with queue := dropFirst f (s.unit q).queue }
  let s := s.bump64 0 .prf q 0x50 1
  if k.part.toNat < 63 then s.bump64 (k.part.toNat + 1) .prf q 0x50 1 else s

/-- A sampled pass without a finding (R286). -/
def State.passGood (s : State) (cl : Nat) : State :=
  s.setCluster cl { s.cluster cl with sampled := (s.cluster cl).sampled + 1 }

/-- Take a Proof unit offline (R283, R285, R487): the unit that serves its quadrant takes its captures over, and without a unit
the device is to be replaced. -/
def State.unitOffline (s : State) (q : Nat) : State :=
  let left := (s.unit q).queue
  let t := s.setUnit q { online := false, queue := [] }
  let t := match t.unitFor q with
    | some u => t.setUnit u { t.unit u with queue := (t.unit u).queue ++ left }
    | none => t
  let t := ((t.errBit .prf q 1 63).raise .prf q 1 63).raise .prf q 5 63
  let t := t.burnEpoch
  let t := (List.range 4).foldl (fun (u : State) i => u.journalHealth i) t
  let t := State.maintRise s t
  if (t.unitFor q).isNone then t.setReplace else t

/-- A PRF_MISMATCH (R283, R284, R289): the command faults if it runs, else the context's next STEP_MARK does; a finding against
the cluster, of kind 2 resolved or 3 unresolved, and a detection event. -/
def State.mismatch (s : State) (q kind : Nat) (k : Capture) : State :=
  let c := k.ctx.toNat
  let s := if k.found then s else s.finding k.cl.toNat kind c k.part.toNat k.id.toNat
  let s := s.detect k.part.toNat
  if k.void then s
  else
    match s.inflight.find? fun x => !isMgmt x.src && ctxOf x.src == c && x.seq == k.cmd with
    | some x => s.fail x.src 0x1601 0 q
    | none => s.setCtx c { s.ctx c with prfPend := some (BitVec.ofNat 2 q) }

/-- The clusters that may serve as referee for a pass of a cluster (R284). -/
def State.referees (s : State) (cl : Nat) : List Nat :=
  (List.range 128).filter fun c =>
    let k := s.cluster c
    c / 32 != cl / 32 && k.inService && k.owner == 0x3F && decide (k.health = .normal)

/-- The CRC-64 of each chunk of a pass, computed from operand blocks (R280, R281). -/
def passCrcs (fa fb : Nat) (l : List (Nat × Nat)) : List Word64 := l.map fun b => chunkCrc fa fb b.1 b.2

/-- CRCs with what errors change in them. -/
def withErrs (l e : List Word64) : List Word64 := (List.range l.length).map fun i => l.getD i 0 ^^^ e.getD i 0

/-- The bytes of the operand blocks of a pass, chunk after chunk. -/
def Capture.bytesOf (k : Capture) : List Byte :=
  k.blocks.flatMap fun b => leBytes (blockBytes k.fa.toNat) b.1 ++ leBytes (blockBytes k.fb.toNat) b.2

/-- The operand blocks of a pass that lie in a cluster's Forme store from its first byte on. -/
def Cluster.blocksOf (c : Cluster) (k : Capture) : List (Nat × Nat) :=
  let a := blockBytes k.fa.toNat
  let b := blockBytes k.fb.toNat
  (List.range k.blocks.length).map fun i =>
    (ofLe (c.formeRead (i * (a + b)) a), ofLe (c.formeRead (i * (a + b) + a) b))

/-- Call a referee for a capture (R284): the cluster is woken and the captured operands are loaded into its Forme store; the
capture keeps the CRCs of both sides. -/
def State.callReferee (s : State) (q : Nat) (mine : Capture → Bool) (k : Capture) (array own : List Word64) (r : Nat) : State :=
  let s := s.setCluster r (({ s.cluster r with pwr := .active }).formeWrite 0 k.bytesOf)
  let l := (s.unit q).queue
  s.setUnit q { s.unit q with queue := l.modify (l.findIdx mine) fun x =>
    { x with referee := some (BitVec.ofNat 7 r), crcs := array, own := own } }

/-- PROOF_CHUNK_CHECK: the Proof unit computes the chunk CRCs of the oldest captured pass of a cluster from the captured operands
and compares them with the array's; the check resolves, or calls for a referee (R280, R281, R283, R284). While every cluster that
may serve is at another referee pass, the check waits. -/
def execProofChunkCheck (p : ProofIn) (s : State) : Host.Outcome State Fault Refusal :=
  let q := p.q.toNat
  let mine := fun (k : Capture) => k.cl == p.cl && k.referee.isNone
  match (s.unit q).queue.find? mine with
  | none => .next s
  | some k =>
    let done := s.resolve q mine k
    let cl := p.cl.toNat
    let array := withErrs k.crcs p.arrayErr
    let own := withErrs (passCrcs k.fa.toNat k.fb.toNat k.blocks) p.proofErr
    if array = own then .next (done.passGood cl).settle
    else if !k.wide then
      if p.selfBad then .next ((done.passGood cl).unitOffline q).settle
      else .next (done.mismatch q 2 k).settle
    else
      let can := s.referees cl
      if can.isEmpty then
        .next (((done.errBit .prf q 2 63).raise .prf q 2 63).mismatch q 3 k).settle
      else
        let (pick, t) := s.choose (can.filter fun c => !s.isReferee c && !(s.cluster c).clear)
        match pick with
        | none => .next s
        | some r => .next (t.callReferee q mine k array own r)

/-- REFEREE_PASS_DONE: the oldest referee pass of a unit decides, and the referee is flash-cleared (R284). Its CRCs are those of
the pass over the operands in its Forme store, with what errors change in them. -/
def execRefereePassDone (q : BitVec 2) (err : List Word64) (s : State) : Host.Outcome State Fault Refusal :=
  let u := q.toNat
  let mine := fun (k : Capture) => k.referee.isSome
  match (s.unit u).queue.find? mine with
  | none => .next s
  | some k =>
    let r := (k.referee.getD 0).toNat
    let crcs := withErrs (passCrcs k.fa.toNat k.fb.toNat ((s.cluster r).blocksOf k)) err
    let s := s.resolve u mine k
    let s := s.setCluster r { (s.cluster r).flash with clear := true }
    if crcs = k.own then .next (s.mismatch u 2 k).settle
    else if crcs = k.crcs then .next ((s.passGood k.cl.toNat).unitOffline u).settle
    else .next (((s.errBit .prf u 2 63).raise .prf u 2 63).mismatch u 3 k).settle

/-- SUSPECT_CLEAR: 2^SUSPECT_LOG2 sampled passes without a finding make a SUSPECT cluster NORMAL (R286). -/
def execSuspectClear (cl : BitVec 7) (s : State) : Host.Outcome State Fault Refusal :=
  let c := cl.toNat
  let k := s.cluster c
  if k.health = .suspect ∧ 2 ^ bits s.prfCtrl 20 16 ≤ k.sampled then
    .next ((s.setCluster c { k with health := .normal, sampled := 0 }).journalHealth (c / 32))
  else .next s

/-- Put rates in ascending order. -/
def sortRates (l : List ℚ) : List ℚ :=
  l.foldr (fun x acc => (acc.takeWhile (· < x)) ++ x :: acc.dropWhile (· < x)) []

/-- The median of at least one rate; of an even count, the mean of the middle two (log entry 41). -/
def medianRate (l : List ℚ) : ℚ :=
  let t := sortRates l
  let n := t.length
  if n % 2 = 1 then t.getD (n / 2) 0 else (t.getD (n / 2 - 1) 0 + t.getD (n / 2) 0) / 2

/-- A cluster's rate in a window. -/
def rateOf (r : RateIn) : ℚ := (r.ideal : ℚ) / (r.busy : ℚ)

/-- The laggards of one partition after a window (R293): the reference takes in the clusters that completed a pass, and every
cluster is held to it. -/
def State.lagPart (s : State) (p : Nat) (rates : List RateIn) : State :=
  let pct := bits (s.reg 0 .prf 0 0x78 0x550A) 15 8
  let mine := rates.filter fun r => r.busy != 0 && (s.cluster r.cl.toNat).owner.toNat == p
  let l := mine.filter fun r => r.ideal != 0
  if l.length < 4 then s
  else
    let ref := medianRate (l.map rateOf)
    mine.foldl (fun (t : State) r =>
      let c := r.cl.toNat
      let k := t.cluster c
      if rateOf r * 100 < pct * ref then
        if k.laggard then t else (t.setCluster c { k with laggard := true }).raise .cl c 3 63
      else if (pct + 5) * ref ≤ rateOf r * 100 then t.setCluster c { k with laggard := false }
      else t) s

/-- LAG_WINDOW. -/
def execLagWindow (rates : List RateIn) (s : State) : Host.Outcome State Fault Refusal :=
  .next ((List.range 63).foldl (fun (t : State) p => t.lagPart p rates) s)

end Sys2Proof.Machine
end

