-- ==== Sys2Proof/Machine/Lines.lean ====
section
/-!
DEFINITION. Accesses to one line (chapters 10 and 11): the Seal engine's reads, verification and writes, counter evictions and
key-cache fills, Case accesses, and Harrow's two passes. The rows stand for what commands' own accesses do line by line; they
have no command that a fault could fall on.
-/

namespace Sys2Proof.Machine

/-- Memory works: the device is in SERVICE, BRACED or EVACUATE. -/
def State.memLive (s : State) : Bool := s.partLive

/-- The access of a row. -/
def accOf (l : LineAcc) : Acc where
  ch := l.ch.toNat
  line := l.line.toNat
  kid := l.kid.toNat
  part := l.part.toNat
  agent := l.agent

/-- Run an access to one object line: beyond the object lines there is none (R216), and an access on behalf of another partition
than the channel's owner does not reach it (R217; log entry 182); a fault is marked in the stack's page, and nothing else is done
of an access that faults (R225, R242). -/
def State.lineRun (s : State) (l : LineAcc) (body : M Unit) : Host.Outcome State Fault Refusal :=
  if objectLines ≤ l.line.toNat then .fault .noSuchLine
  else if !s.memLive then .next s
  else if (s.chan l.ch.toNat).owner ≠ l.part then .next { s with delivered := none }
  else
    match body { s with delivered := none } with
    | .ok _ t => .next t
    | .error (.halt h) t => .next (t.sealHaltNow h)
    | .error (.part p) t => .next (t.partHalt p).settle
    | .error (.fault c _ i) t => .next (t.markCode c i l.part.toNat)
    | .error .hold _ => .next s

/-- Hand a line's data to the agent. -/
def handOver (d : LineData) : M Unit := upd fun s => { s with delivered := some d }

/-- SEAL_LINE_READ (R230, R242, R248, R253): a line that the Case holds is delivered from there. -/
def execSealLineRead (l : LineAcc) (s : State) : Host.Outcome State Fault Refusal :=
  s.lineRun l (do
    let d ← readLine l.env (accOf l)
    handOver d)

/-- The line of a Case after the Seal engine has written it: the same data, clean. -/
def State.caseWritten (s : State) (lid : Nat) (d : LineData) : State :=
  match s.caseLine lid with
  | some c => s.setCaseLine lid (some { c with data := d, dirty := false, stamp := none })
  | none => s

/-- SEAL_LINE_WRITE (R243, R244, R249, R255). -/
def execSealLineWrite (l : LineAcc) (data : LineData) (s : State) : Host.Outcome State Fault Refusal :=
  s.lineRun l (do
    keyCheck l.kid.toNat l.part.toNat l.agent (l.ch.toNat / 16)
    sealStore l.env (accOf l) data
    upd (·.caseWritten (lidOf l.ch.toNat l.line.toNat) data))

/-- SEAL_PARTIAL_WRITE (R255, R256): the bytes of the line that it keeps are verified before they are written. -/
def execSealPartialWrite (l : LineAcc) (mask : Word64) (data : LineData) (s : State) : Host.Outcome State Fault Refusal :=
  s.lineRun l (do
    keyCheck l.kid.toNat l.part.toNat l.agent (l.ch.toNat / 16)
    let lid := lidOf l.ch.toNat l.line.toNat
    let old ← match ← look (·.caseLine lid) with
      | some c => do
        settleLine lid
        pure c.data
      | none => if mask = BitVec.allOnes 64 then pure 0 else sealVerified l.env (accOf l)
    let new := mergeBytes old data mask
    if mask ≠ 0 then
      sealStore l.env (accOf l) new
      upd (·.caseWritten lid new))

/-- Record a verification latency in always-on cycles; more than 5 µs raises VERIFY_SLOW (R254, R275). -/
def State.latency (s : State) (k n : Nat) : State :=
  let v := tget VLat.reset s.vlat k
  let s := { s with vlat := tput VLat.reset s.vlat k { max := max v.max n, sum := v.sum + n, count := v.count + 1 } }
  if 250 < n then s.raise .seal k 3 63 else s

/-- Take the first entry that a test admits out of a list. -/
def takeFirst {α : Type} (f : α → Bool) : List α → Option (α × List α)
  | [] => none
  | a :: t => if f a then some (a, t) else (takeFirst f t).map fun x => (x.1, a :: x.2)

/-- SEAL_CTRL.VERIFY_LIMIT of a stack, in always-on cycles of 20 ns: from 10 to 255 µs (R254, R274). -/
def State.verifyLimit (s : State) (k : Nat) : Nat := 50 * max 10 (bits (s.reg 0 .seal k 0x10 0x140000) 23 16)

/-- The halt of a read that stays unverified for too long (R254, R265). -/
def PendRead.late (r : PendRead) : HaltAt := haltAt .verifyTimeout (r.lid / 2 ^ 24) 0 (r.lid % 2 ^ 24)

/-- SEAL_VERIFY_DONE: the oldest pending read of a quadrant, after `latency` always-on cycles (R253, R254, R258, R265). One that
ends past VERIFY_LIMIT has halted the device before. -/
def execSealVerifyDone (q : BitVec 2) (latency : Nat) (s : State) : Host.Outcome State Fault Refusal :=
  match takeFirst (fun (r : PendRead) => r.q == q) s.reads with
  | none => .next s
  | some (r, rest) =>
    if s.verifyLimit r.stack.toNat < latency then .next (s.sealHaltNow r.late)
    else
      match r.bad with
      | some h => .next (s.sealHaltNow h)
      | none => .next (({ s with reads := rest }.readDone r).latency r.stack.toNat latency).lateDone

/-- VERIFY_TIMEOUT: the oldest pending read of a quadrant has stayed unverified past VERIFY_LIMIT (R254, R265). -/
def execVerifyTimeout (q : BitVec 2) (s : State) : Host.Outcome State Fault Refusal :=
  match s.reads.find? fun r => r.q == q with
  | none => .next s
  | some r => .next (s.sealHaltNow r.late)

/-- COUNTER_EVICT (R252): a dirty block is written back, and the block leaves the cache. -/
def execCounterEvict (ch : BitVec 9) (level : BitVec 2) (blk : BitVec 18) (s : State) : Host.Outcome State Fault Refusal :=
  let c := ch.toNat
  let l := level.toNat
  let b := blk.toNat
  if l = 0 ∨ !s.memLive ∨ (s.ctr c l b).isNone then .next s
  else
    match flushCtr Env.quiet c l b s with
    | .ok _ t => .next (t.setCtr c l b none)
    | .error (.halt h) t => .next (t.sealHaltNow h)
    | .error _ t => .next t

/-- KEY_CACHE_FILL (R241, R242): an entry for a KEYED KeyID that misses. A blob that cannot be unwrapped, or a quota of 0,
fills nothing: the access that misses faults. -/
def execKeyCacheFill (kid : BitVec 16) (s : State) : Host.Outcome State Fault Refusal :=
  let k := s.kid kid.toNat
  if k.state ≠ .keyed ∨ k.cached ∨ !s.memLive then .next s
  else
    match fillKey kid.toNat s with
    | .ok _ t => .next t
    | .error _ _ => .next s

/-- CASE_LINE_ACCESS (R230, R231, R233, R257): a read, or a write of all 64 bytes, whose Case words check as given. -/
def execCaseLineAccess (l : LineAcc) (write : Option LineData) (ecc : Ecc) (s : State) : Host.Outcome State Fault Refusal :=
  s.lineRun l (do
    keyCheck l.kid.toNat l.part.toNat l.agent (l.ch.toNat / 16)
    let lid := lidOf l.ch.toNat l.line.toNat
    match ← look (·.caseLine lid), ecc with
    | some _, .single => upd (·.ceAt l.ch.toNat l.line.toNat 0)
    | some c, .double =>
      upd (·.setCaseLine lid none)
      if c.dirty then fun t => .error (.part c.part.toNat) t
    | _, _ => pure ()
    match write with
    | some d => putLine l.env (accOf l) (BitVec.allOnes 64) d
    | none =>
      let d ← readLine l.env (accOf l)
      handOver d)

/-! ## Harrow (R234 to R236) -/

/-- The counter-tree level of a channel-local line (R250). -/
def treeLevel (line : Nat) : Nat :=
  if line < 12386304 then 0 else if line < 12579840 then 1 else if line < 12582864 then 2 else 3

/-- HARROW_PATROL_READ: an uncorrectable object line is counted and reported to its owner, one of a tenant's counter tree
Seal-halts (R225, R234). -/
def execHarrowPatrolRead (ch : BitVec 9) (line : BitVec 24) (err : BitVec 640) (s : State) :
    Host.Outcome State Fault Refusal :=
  let c := ch.toNat
  let k := c / 16
  let n := line.toNat
  if channelLines ≤ n then .fault .noSuchLine
  else if !s.memLive ∨ (s.reg 0 .mc k 0x10 0x180421).testBit 0 = false then .next s
  else
    match s.mcRead c n (Env.onLine (lidOf c n) err) with
    | (some _, t) => .next t
    | (none, t) =>
      let p := (t.chan c).owner.toNat
      if treeLevel n = 0 then .next ((t.errBit .mc k 2 p).raise .mc k 2 p)
      else if p = 63 then .next t
      else .next (t.sealHaltNow (haltAt .treeUE c (treeLevel n) n))

/-- HARROW_ERASE_LINE: the next line of a running erase pass. -/
def execHarrowEraseLine (ch : BitVec 9) (err : BitVec 640) (s : State) : Host.Outcome State Fault Refusal :=
  let c := ch.toNat
  match (s.chan c).front with
  | none => .next s
  | some n =>
    if !s.memLive then .next s
    else
      let t := s.eraseLine c n.toNat (Env.onLine (lidOf c n.toNat) err)
      if n.toNat + 1 = objectLines then .next (t.eraseDone c)
      else .next (t.setChan c { t.chan c with front := some (n + 1) })

end Sys2Proof.Machine
end

