-- ==== Sys2Proof/Machine/Egress.lean ====
section
/-!
DEFINITION. The egress gate (chapter 11): epochs, samples, the watermark, enqueuing and release, and what becomes of a released
entry (R304, R309, R312, R416); the Seal halt as a row.
-/

namespace Sys2Proof.Machine

/-- EPOCH_ADVANCE (R258). In SLUMBER the core clock stands. -/
def execEpochAdvance (q : BitVec 2) (s : State) : Host.Outcome State Fault Refusal :=
  if s.pwr.state = .slumber then .next s
  else .next { s with epochs := tput 0 s.epochs q.toNat (s.epoch q.toNat + 1) }

/-- The watermark W_q, one above which is the smallest stamp that pends in the quadrant, or its epoch (R258). It is −1 while no
epoch lies below. -/
def State.wmark (s : State) (q : Nat) : Int :=
  (s.reads.filter fun r => r.q.toNat == q).foldl (fun (m : Int) r => min m ((r.stamp.toNat : Int) - 1))
    ((s.epoch q).toNat - 1 : Int)

/-- EGRESS_SAMPLE (R259): the path's new entries take the epochs of the four quadrants. -/
def execEgressSample (p : Path) (s : State) : Host.Outcome State Fault Refusal :=
  let now := (List.range 4).map s.epoch
  let one := fun (e : Egress) => if e.stamp.isNone && !e.free then { e with stamp := some now } else e
  .next { s with egress := tput [] s.egress (pathNum p) ((tget [] s.egress (pathNum p)).map one) }

/-! ## Forming entries -/

/-- EGRESS_ENQUEUE: an agent's entry, once its buffer has room; stamped entries are not formed in HALTED (R263, R266). -/
def execEgressEnqueue (p : Path) (stamped : Bool) (payload : List Byte) (s : State) : Host.Outcome State Fault Refusal :=
  let (l, cap) := gateBuffer p
  if cap < s.gateUsed l + payload.length ∨ (stamped ∧ s.pwr.state = .halted) then .next s
  else
    let ev : OutEv := match p with
      | .port k => .packet k payload
      | _ => .record payload
    .next (s.emit (pathNum p) (!stamped) none ev)

/-! ## Released entries -/

/-- The CXL paths carry entries: the link is up and, in confidential mode, IDE is secure (R300, R312). -/
def State.hostOpen (s : State) : Bool := s.hif.up && (!s.confidential || s.ideSecure)

/-- The set of a host line: of 1,024 sets of 16 lines (R304; log entry 190). -/
def hostSet (k : Nat) : Nat := k % 1024

/-- The order of the next use of the HIF cache. -/
def Hif.nextUse (h : Hif) : Nat := h.hostCache.foldl (fun n e => max n (((e.2.map (·.used)).getD 0) + 1)) 0

/-- Room for a host line in its set: from a full set the least recently used line leaves, with its data when it is modified
(R304, R305). -/
def State.hostRoom (s : State) (k : Nat) : State :=
  let l := s.hif.hostCache.filterMap fun e => if hostSet e.1 = hostSet k then e.2.map fun x => (e.1, x) else none
  if l.length < 16 then s
  else
    match l.foldl (fun (b : Option (Nat × HostLine)) e => match b with
        | none => some e
        | some x => if e.2.used < x.2.used then some e else b) none with
    | none => s
    | some (v, x) =>
      { s with hif := { s.hif with hostCache := tput none s.hif.hostCache v none } }.say
        (if x.modified then .cacheReq .dirtyEvict (64 * v) (some x.data) else .cacheReq .cleanEvict (64 * v) none)

/-- A value for a host line enters the HIF cache as modified; the line's other bytes are the host's, which the request for
ownership brings (R304, R305; log entry 190). -/
def State.cacheLine (s : State) (pasid : Option (BitVec 20)) (addr : Nat) (d : List Byte) : State :=
  let at' := hostSpace pasid * 2 ^ 64 + addr
  let k := at' / 64
  let (old, s) := match tget none s.hif.hostCache k with
    | some l => (l.data, if l.modified then s else s.say (.cacheReq .rdOwnNoData (64 * k) none))
    | none =>
      let (v, t) := ((s.hostRoom k).say (.cacheReq .rdOwn (64 * k) none)).fresh
      (v.setWidth 512, t)
  let new := mergeBytes old (lineAt (at' % 64) d) (lineMask (at' % 64) d.length)
  { s with hif := { s.hif with
    hostCache := tput none s.hif.hostCache k (some { data := new, modified := true, used := s.hif.nextUse }) } }

/-- A refused write that the device learns of (R523). -/
def State.writeRefused (s : State) (fn : Nat) (w : RefusedWrite) : State :=
  let s := (s.errBit .hif 0 4 63).aerReport fn 20
  match w with
  | .record (.mgmt m) => s.mqStop m.toNat 3
  | .record (.ctx c _) => s.failCtx c.toNat 0x1A07
  | .forCmd q => if (s.cmdOf q).isSome then s.fail q 0x1804 0 0 else s
  | .colophon fn => s.setColo fn.toNat { s.coloOf fn.toNat with status := 4 }
  | .mailbox => { s with sec := { s.sec with status := 7 } }

/-- A write that cannot be issued because Bus Master Enable of its function is clear (R523): for a command that has completed it is
dropped. -/
def State.unissued (s : State) (e : Egress) (fn : BitVec 6) (kind : WriteKind) : State :=
  match kind, e.src with
  | .record, some q => s.writeRefused fn.toNat (.record q)
  | .colophon, _ => s.writeRefused fn.toNat (.colophon fn)
  | .mailbox, _ => s.writeRefused fn.toNat .mailbox
  | _, some q =>
    if (s.cmdOf q).map (·.seq) = e.seq then s.writeRefused fn.toNat (.forCmd q)
    else (s.errBit .hif 0 4 63).aerReport fn.toNat 20
  | _, none => (s.errBit .hif 0 4 63).aerReport fn.toNat 20

/-- A released line of device memory is written while its KeyID still serves the partition (R261, R309). What the write meets
falls on the command that formed it, if it still runs. -/
def State.writeOut (s : State) (src : Option QSrc) (lid : Nat) (kid part : Nat) (mask : Word64) (d : LineData) : State :=
  let k := s.kid kid
  if k.state ≠ .keyed ∨ k.owner.toNat ≠ part then s
  else
    let body : M Unit := do
      if !k.cached then fillKey kid
      putLine Env.quiet { ch := lid / 2 ^ 24, line := lid % 2 ^ 24, kid := kid, part := part, agent := .copy } mask d
    match body s with
    | .ok _ t => t
    | .error (.halt h) t => t.sealHaltNow h
    | .error (.part p) t => t.partHalt p
    | .error (.fault c dt i) t => match src with
      | some q => t.fail q c dt i
      | none => t
    | .error .hold t => t

/-- What a released entry does: a completion or fence record goes through the HIF cache while that is in use (R304); a staging line
is owned before it is written (R309); a write of a function whose Bus Master Enable is clear is refused (R523). -/
def State.deliver (s : State) (e : Egress) : State :=
  match e.ev with
  | .hostWrite fn kind pasid addr d =>
    if (kind = .record ∨ kind = .fence) ∧ s.cacheUsed then s.cacheLine pasid addr.toNat d
    else if !tget false s.hif.masters fn.toNat then s.unissued e fn kind
    else s.say e.ev
  | .msix fn _ =>
    if tget false s.hif.masters fn.toNat then s.say e.ev else (s.errBit .hif 0 4 63).aerReport fn.toNat 20
  | .memWrite st lid kid part mask d =>
    (if st then s.say (.ownLine lid) else s).writeOut e.src lid kid.toNat part.toNat mask d
  | .packet p d => s.transmit p.toNat { src := e.src, data := d }
  | ev => s.say ev

/-- Contexts with an entry that is discarded after the grace period fault with 0x1801 (R312). -/
def State.discardTx (s : State) (l : List Egress) : State :=
  let cs := (l.filterMap fun e => match e.src with
    | some (.ctx c _) => some c.toNat
    | _ => none).eraseDups
  cs.foldl (fun (t : State) c =>
    if (t.ctx c).bound then (t.failCtx c 0x1801).markCode 0x1801 0 (t.ctx c).part.toNat else t) s

/-- An entry that a CXL path has released: it leaves, waits in the host transmit queue, or after the grace period is discarded
(R300, R312). -/
def State.toHost (s : State) (e : Egress) : State :=
  if s.hostOpen then s.deliver e
  else if s.hif.graceOut then s.discardTx [e]
  else { s with hif := { s.hif with txQueue := s.hif.txQueue ++ [e] } }

/-- The host transmit queue drains in order (R312). -/
def State.drainTx (s : State) : State :=
  if s.hostOpen then s.hif.txQueue.foldl (fun (t : State) e => t.deliver e) { s with hif := { s.hif with txQueue := [] } }
  else s

/-- The gate releases an entry (R260, R261, R263): an unstamped record always, a stamped entry once every watermark covers its
stamp, and not in BRACED, in HALTED (R266) or after PWR_OK has fallen (R469). -/
def State.passes (s : State) (e : Egress) : Bool :=
  e.free ||
    match e.stamp with
    | none => false
    | some st => decide (s.pwr.state ≠ .braced) && decide (s.pwr.state ≠ .halted) && !s.pwr.offHold
        && (List.range 4).all fun q => decide (((st.getD q 0).toNat : Int) ≤ s.wmark q)

/-- A port takes packets of this device: it is UP. -/
def State.pathOpen (s : State) (p : Path) : Bool :=
  match p with
  | .port k => decide ((s.port k.toNat).state = .up)
  | _ => true

/-- The entry that a path releases next, and what stays: its oldest, where the gate releases that, else its oldest unstamped record,
which no closure and no stamp holds up (R260, R261). -/
def State.nextOut (s : State) (l : List Egress) : Option (Egress × List Egress) :=
  match l with
  | [] => none
  | e :: rest =>
    if s.passes e then some (e, rest)
    else
      match l.find? (·.free) with
      | some x => some (x, l.eraseIdx (l.findIdx (·.free)))
      | none => none

/-- EGRESS_RELEASE. -/
def execEgressRelease (p : Path) (s : State) : Host.Outcome State Fault Refusal :=
  match s.nextOut (tget [] s.egress (pathNum p)) with
  | none => .next s
  | some (e, rest) =>
    if !s.pathOpen p then .next s
    else
      let t := { s with egress := tput [] s.egress (pathNum p) rest }
      match p with
      | .cxl | .cache | .staging => .next (t.toHost e).settle
      | _ => .next (t.deliver e).settle

/-- SEAL_HALT (R265, R266). -/
def execSealHalt (h : HaltAt) (s : State) : Host.Outcome State Fault Refusal :=
  .next (s.sealHaltNow h)

end Sys2Proof.Machine
end

