-- ==== Sys2Proof/Machine/Doorbells.lean ====
section
/-!
DEFINITION. Doorbells and management queues (R28, R325, R327, R524): QDB_TAIL, MQ_ENABLE and the stop of a management queue.
-/

namespace Sys2Proof.Machine

/-- A TAIL lies beyond the ring (R325). -/
def tailBeyond (tail head : Word32) (size : Nat) : Bool := decide (size < (tail - head).toNat)

/-- A doorbell page of a virtual function does not respond: its context is not bound to the function's partition (R28). -/
def State.bellBad (s : State) (fn off : Nat) : Bool :=
  fn != 0 && !((s.ctx (off / 4096)).bound && (s.ctx (off / 4096)).part.toNat == fn - 1)

/-- A doorbell write of a context's queue. -/
def State.ctxTail (s : State) (fn c q : Nat) (tail : Word32) : State :=
  let x := s.ctx c
  if s.bellBad fn (c * 4096) then s.badAccess fn true true 4 (c * 4096 + q * 16)
  else if x.state = .teardown then s
  else
    match s.queue c q with
    | none => s
    | some k =>
      if tailBeyond tail k.head k.size then s.failCtx c 0x1A0F
      else s.setQueue c q (some { k with tail := tail })

/-- A doorbell write of a management queue. -/
def State.mqTail (s : State) (m : Nat) (tail : Word32) : State :=
  let x := s.mq m
  if tailBeyond tail x.head (2 ^ x.log2) then (if x.enable then s.mqStop m 1 else s)
  else s.setMq m { x with tail := tail }

/-- Doorbells act: not in HALTED, BOOT or SLUMBER, and a VF's only while its TDI is in RUN (R267, R314, R466, R468). -/
def State.bellsLive (s : State) (fn : Nat) : Bool := s.partLive && s.fnLive fn

/-- QDB_TAIL: a doorbell write through a function's BAR2, on a page, for one of its queues. An unbound page is disallowed whatever
else makes doorbells ignored (R28, R267). -/
def execQdbTail (fn : BitVec 6) (page : BitVec 12) (q : BitVec 4) (tail : Word32) (s : State) :
    Host.Outcome State Fault Refusal :=
  let f := fn.toNat
  if !s.bellsLive f && !s.bellBad f (page.toNat * 4096) then .next s
  else if f = 0 then
    if page.toNat < 16 ∧ q = 0 then .next (s.mqTail page.toNat tail).settle else .next s
  else .next (s.ctxTail f page.toNat q.toNat tail).settle

/-- A write of CMDP_MQ_CTRL of the selected management queue. -/
def State.mqCtrl (s : State) (v : Nat) : State :=
  let m := s.reg 0 .cmdp 0 0x40 0 % 16
  let x := s.mq m
  let en := v.testBit 31
  let x := { x with irq := v.testBit 30, log2 := if x.enable then x.log2 else max 4 (min 16 (v % 32)) }
  s.setMq m (if en && !(s.mq m).enable then { x with enable := true, head := 0, tail := 0, done := 0, stop := 0 }
             else { x with enable := en })

/-- MQ_ENABLE: a write of CMDP_MQ_CTRL through a function. -/
def execMqEnable (w : RegVal) (s : State) : Host.Outcome State Fault Refusal :=
  .next (s.driverWrite w.fn.toNat .cmdp 0 0x54 true fun t => t.mqCtrl w.value.toNat)

end Sys2Proof.Machine
end

