-- ==== Sys2Proof/Machine/HostIf.lean ====
section
/-!
DEFINITION. The host interface (chapter 13): the link, IDE and TSP, CXL.mem windows, snoops, host errors and staging mappings.
-/

namespace Sys2Proof.Machine

/-! ## The link (R298 to R300) -/

/-- Add to a half of a register of two saturating 16-bit counters. -/
def State.bumpHalf (s : State) (b : Blk) (inst off : Nat) (high : Bool) : State :=
  let v := s.reg 0 b inst off 0
  let lo := v % 65536
  let hi := v / 65536
  s.setReg 0 b inst off 0 (if high then min 65535 (hi + 1) * 65536 + lo else hi * 65536 + min 65535 (lo + 1))

/-- IDE_INSECURE of the HIF page: the link is up and IDE is not secure (R318). -/
def State.ideLow (s : State) : Bool := s.hif.up && !s.ideSecure

/-- Raise IDE_INSECURE where its level rises, and let the host transmit queue drain when the CXL paths are open again
(R312, R318). -/
def State.ideMoved (old s : State) : State :=
  let s := if !old.ideLow && s.ideLow then s.raise .hif 0 2 63 else s
  let s := if s.ideSecure then { s with hif := { s.hif with graceOut := false } } else s
  s.drainTx

/-- CXL_LINK_UP (R298). The host enables CXL.cache as the link comes up (log entry 42). -/
def execCxlLinkUp (rate : BitVec 3) (width : BitVec 5) (s : State) : Host.Outcome State Fault Refusal :=
  let good := decide (1 ≤ rate.toNat ∧ rate.toNat ≤ 4) && [4, 8, 16].contains width.toNat
  if s.hif.up ∨ s.hif.stuck ∨ !good ∨ s.pwr.offHold ∨ !s.pwr.refCxl then .next s
  else
    let t := { s with hif := { s.hif with up := true, rate := rate, width := width, tries := 0, cacheOn := true } }
    .next (State.ideMoved s t).settle

/-- CXL_RETRAIN (R300). -/
def execCxlRetrain (rate : BitVec 3) (width : BitVec 5) (s : State) : Host.Outcome State Fault Refusal :=
  let good := decide (1 ≤ rate.toNat ∧ rate.toNat ≤ 4) && [4, 8, 16].contains width.toNat
  if !s.hif.up ∨ !good then .next s
  else
    let t := { s with hif := { s.hif with rate := rate, width := width } }.bumpHalf .hif 0 0x40 true
    .next (if s.hif.rate = rate ∧ s.hif.width = width then t else t.raise .hif 0 1 63)

/-- LINK_TRAIN_FAIL (R299): the failure is journaled, and the eighth leaves the link in Detect. -/
def execLinkTrainFail (s : State) : Host.Outcome State Fault Refusal :=
  if s.hif.up ∨ s.hif.stuck ∨ s.pwr.offHold then .next s
  else
    let n := s.hif.tries + 1
    .next ({ s with hif := { s.hif with tries := n, stuck := decide (8 ≤ n) } }.event evLink 0 n)

/-- The link goes down (R300, R314): every IDE stream is Insecure, CACHE_ACTIVE is cleared, TDIs go to ERROR. -/
def State.cxlDown (s : State) : State :=
  if !s.hif.up then s
  else
    let s := { s with hif := { s.hif with up := false, rate := 0, width := 0, ide := 0, cacheOn := false } }
    let s := (s.bumpHalf .hif 0 0x40 false).raise .hif 0 0 63
    (List.range 63).foldl (fun (t : State) p => t.tdiError p) s

/-- LINK_DOWN. -/
def execLinkDown (s : State) : Host.Outcome State Fault Refusal := .next s.cxlDown

/-- PF0_FLR is a warm device reset (R302). -/
def execPf0Flr (s : State) : Host.Outcome State Fault Refusal :=
  if s.pwr.offHold then .next s else .next (s.warm .flr)

/-! ## IDE, SPDM and TSP (R311 to R314) -/

/-- Set an IDE stream Secure or Insecure. -/
def State.setIde (s : State) (n : Nat) (on : Bool) : State :=
  let v := s.hif.ide.toNat
  let v := if v.testBit n = on then v else v ^^^ 2 ^ n
  State.ideMoved s { s with hif := { s.hif with ide := BitVec.ofNat 6 v } }

/-- IDE_RX_FAIL: an integrity failure sets the stream Insecure and is counted. -/
def execIdeRxFail (stream : BitVec 3) (s : State) : Host.Outcome State Fault Refusal :=
  let n := stream.toNat
  if n < 6 ∧ s.hif.ide.toNat.testBit n then
    .next (({ s with hif := { s.hif with fails := min 65535 (s.hif.fails + 1) } }).setIde n false).settle
  else .next s

/-- IDE_GRACE_EXPIRY: the host transmit queue is discarded (R312). -/
def execIdeGraceExpiry (s : State) : Host.Outcome State Fault Refusal :=
  if s.confidential && !s.ideSecure then
    let l := s.hif.txQueue
    .next (({ s with hif := { s.hif with txQueue := [], graceOut := true } }).discardTx l).settle
  else .next s

/-- The SPDM 1.3 request codes of R313 (log entry 43). -/
def spdmCodes : List Nat := [0x81, 0x82, 0x83, 0x84, 0xE0, 0xE1, 0xE3, 0xE4, 0xE5, 0xE8, 0xE9, 0xEC]

/-- Answer an SPDM request with ERROR (R313; log entry 43). -/
def State.spdmErr (s : State) (code : Nat) : State := s.say (.spdm false (BitVec.ofNat 8 code) .none)

/-- Answer an SPDM request with its response. -/
def State.spdmOk (s : State) (code : Nat) (d : SpdmData := .none) : State := s.say (.spdm true (BitVec.ofNat 8 code) d)

/-- What the response to a request carries (R313; log entry 43): version 1.3; Ed448, SHA-384, secp384r1 and AES-256-GCM by their
SPDM bit numbers; the digest of the chain in slot 0, or the chain; the responder's signature; the measurements of the running
image. -/
def State.spdmData (s : State) (c : BitVec 8) : SpdmData × State :=
  let sign := fun (f : List Byte → SpdmData) => let x := s.draw; (f (Config.spdmSign c x.1), x.2)
  match c.toNat with
  | 0x84 => (.version 1 3, s)
  | 0xE3 => (.algorithms 11 1 4 1, s)
  | 0x81 => (.digest (Config.sha384 Config.certChain), s)
  | 0x82 => (.chain Config.certChain, s)
  | 0x83 | 0xE4 => sign .signature
  | 0xE0 => sign (.measurements ((List.range 3).map (fun i => Config.meas s.sec.m4 (i + 1)) ++ [s.sec.m4]))
  | _ => (.none, s)

/-- A TSP message that moves a VF's TDI from one state to another. A VF that is not enabled takes none (R301). -/
def State.tdiMove (s : State) (vf : Nat) (before after : Tdi) : State :=
  if !s.hif.session then s.spdmErr 0x0B
  else if vf = 0 ∨ s.hif.numVfs.toNat < vf ∨ s.tdi (vf - 1) ≠ before then s.spdmErr 0x04
  else ({ s with hif := { s.hif with tdi := tput Tdi.unlocked s.hif.tdi (vf - 1) after } }).spdmOk 0x7E

/-- An IDE_KM message on a stream: keys are set only in a secured session. -/
def State.ideKm (s : State) (stream : Nat) (on : Bool) : State :=
  if !s.hif.session then s.spdmErr 0x0B
  else if 6 ≤ stream then s.spdmErr 0x01
  else (s.setIde stream on).spdmOk 0x7E

/-- A standard SPDM request (R313): KEY_EXCHANGE begins a session, which FINISH opens; a FINISH without one is unexpected. -/
def State.spdmStandard (s : State) (c : BitVec 8) : State :=
  if !spdmCodes.contains c.toNat then s.spdmErr 0x07
  else if c = 0xE5 ∧ !s.hif.keyEx then s.spdmErr 0x04
  else
    let (d, t) := s.spdmData c
    let t := if c = 0xE4 then { t with hif := { t.hif with keyEx := true } }
      else if c = 0xE5 then { t with hif := { t.hif with session := true, keyEx := false } }
      else if c = 0xEC then { t with hif := { t.hif with session := false } } else t
    t.spdmOk (c.toNat - 0x80) d

/-- SPDM_REQUEST: DOE Discovery names the three data object types, DOE Discovery, CMA/SPDM and Secured CMA/SPDM (R313). -/
def execSpdmRequest (r : SpdmReq) (s : State) : Host.Outcome State Fault Refusal :=
  if !s.hif.up then .next s
  else
    match r with
    | .discovery i =>
      .next (if 2 < i.toNat then s.spdmErr 0x01 else s.spdmOk 0 (.objectType 1 i.toNat (if i = 2 then 0 else i.toNat + 1)))
    | .standard c => .next (s.spdmStandard c)
    | .endSession => .next ({ s with hif := { s.hif with session := false } }.spdmOk 0x6C)
    | .keySet n => .next (s.ideKm n.toNat true).settle
    | .keyStop n => .next (s.ideKm n.toNat false).settle
    | .tdiLock vf => .next (s.tdiMove vf.toNat .unlocked .locked)
    | .tdiStart vf => .next (s.tdiMove vf.toNat .locked .run).settle

/-- A write to a function's configuration space (R301 to R303, R523); only PF0 has VF Enable and the DVSEC Range 1. A VF that is
disabled leaves LOCKED and RUN for ERROR (R314). -/
def State.cfgWrite (s : State) (fn : Nat) (w : CfgWrite) : State :=
  match w with
  | .busMaster on => { s with hif := { s.hif with masters := tput false s.hif.masters fn on } }
  | .vfEnable on n =>
    if fn ≠ 0 then s
    else
      let k : BitVec 6 := if on then n else 0
      (List.range 63).foldl (fun (t : State) p => if k.toNat ≤ p then t.tdiError p else t)
        { s with hif := { s.hif with numVfs := k } }
  | .hdmRange base =>
    if fn ≠ 0 then s else { s with hif := { s.hif with hdm := base.map fun b => b &&& 0xFFFFFFFFF0000000 } }
  | .aerClear bits =>
    { s with hif := { s.hif with aer := tput 0 s.hif.aer fn (tget 0 s.hif.aer fn &&& ~~~ bits) } }
  | .other => s

/-- TDI_CONFIG_CHANGE: a write to a function's configuration space; a change to a VF that is locked or runs moves its TDI to ERROR
(R314), which the clearing of an error status is not. -/
def execTdiConfigChange (c : CfgIn) (s : State) : Host.Outcome State Fault Refusal :=
  let t := s.cfgWrite c.fn.toNat c.w
  match c.w with
  | .aerClear _ => .next t
  | _ => .next (if c.fn = 0 then t else t.tdiError (c.fn.toNat - 1))

/-- STOP_INTERFACE: the TDI goes to CONFIG_UNLOCKED. -/
def execStopInterface (vf : BitVec 6) (s : State) : Host.Outcome State Fault Refusal :=
  if vf = 0 then .next s
  else .next { s with hif := { s.hif with tdi := tput Tdi.unlocked s.hif.tdi (vf.toNat - 1) .unlocked } }

/-! ## CXL.mem (R306 to R308, R315) -/

/-- Count a rejected access; the first since the count was read is recorded (R307). -/
def State.memRej (s : State) (write : Bool) (cause : Nat) (off : BitVec 36) : State :=
  let s := (s.bump 0 .hif 0 0x64 1).errBit .hif 0 0 63
  let s := if s.hif.rejInfo.isSome then s
    else { s with hif := { s.hif with
      rejInfo := some (write, BitVec.ofNat 3 cause, BitVec.ofNat 8 (off.toNat / 2 ^ 28), off &&& 0xFFFFFFFC0) } }
  s.raise .hif 0 3 63

/-- Where a CXL.mem access to a line lies: the object's KeyID, partition, channel and line, or the cause of its rejection, the
lowest that holds (R307; log entry 44). -/
def State.windowAt (s : State) (off : BitVec 36) : Nat ⊕ Acc :=
  let n := off.toNat / 2 ^ 28
  let x := s.stg n
  if !x.mapped then .inl 0
  else
    match s.obj (x.handle.toNat % 2 ^ 20) with
    | none => .inl 0
    | some o =>
      let b := x.off4k * 4096 + off.toNat % 2 ^ 28 / 64 * 64
      if o.len ≤ b then .inl 1
      else if s.confidential && !s.ideSecure then .inl 3
      else if s.tdi x.part.toNat ≠ .run then .inl 4
      else
        match s.objLoc o b with
        | none => .inl 1
        | some (ch, line, _) => .inr { ch := ch, line := line, kid := o.kid.toNat, part := o.part.toNat, agent := .host }

/-- The host writes bytes of a mapped line: a collective that names them counts as touched (R163). -/
def State.touchWindow (s : State) (off : BitVec 36) (mask : Word64) : State :=
  let x := s.stg (off.toNat / 2 ^ 28)
  match s.obj (x.handle.toNat % 2 ^ 20) with
  | none => s
  | some o =>
    let b := x.off4k * 4096 + off.toNat % 2 ^ 28 / 64 * 64
    (List.range 64).foldl (fun (t : State) i => if mask.getLsbD i then t.touch (o.place 0 (b + i) 1) else t) s

/-- The verification of a delivered read of a line is completed (R308). -/
def readVerified (lid : Nat) : M Unit := do
  match ← look fun s => s.reads.find? fun r => r.lid == lid && r.bad.isSome with
  | some r => match r.bad with
    | some h => sealStop h
    | none => pure ()
  | none => pure ()

/-- The line of a CXL.mem read: its own verification is complete. -/
def memReadBody (env : Env) (a : Acc) : M LineData := do
  keyCheck a.kid a.part a.agent (a.ch / 16)
  match ← look (·.caseLine (lidOf a.ch a.line)) with
  | some c =>
    readVerified (lidOf a.ch a.line)
    pure c.data
  | none => sealVerified env a

/-- All ones, which answers a rejected read. -/
def allOnesLine : LineData := BitVec.allOnes 512

/-- The offset of a host address in the HDM range of 64 GiB (R303, R306); none where the range does not hold it. -/
def State.hdmOff (s : State) (addr : Word64) : Option (BitVec 36) :=
  match s.hif.hdm with
  | some b => if b.toNat ≤ addr.toNat ∧ addr.toNat < b.toNat + 2 ^ 36 then some (BitVec.ofNat 36 (addr.toNat - b.toNat)) else none
  | none => none

/-- CXL_MEM_READ: an address outside the HDM range is not this device's. -/
def execCxlMemRead (addr : Word64) (env : Env) (s : State) : Host.Outcome State Fault Refusal :=
  match s.hdmOff addr with
  | none => .next s
  | some off =>
    if !s.hif.up then .next s
    else
      match s.windowAt off with
      | .inl c => .next ((s.memRej false c off).say (.memRead allOnesLine))
      | .inr a =>
        if !s.memLive then .next (s.say (.memRead allOnesLine))
        else
          match memReadBody env a s with
          | .ok d t => .next (t.say (.memRead d))
          | .error (.halt h) t => .next ((t.sealHaltNow h).say (.memRead allOnesLine))
          | .error (.fault 0x2001 _ _) t =>
            .next (((t.setPart a.part (s.part a.part)).memRej false 2 off).say (.memRead allOnesLine))
          | .error (.fault c _ i) t => .next ((t.markCode c i a.part).say (.memRead allOnesLine))
          | .error _ t => .next (t.say (.memRead allOnesLine))

/-- CXL_MEM_WRITE: what is rejected or poisoned is discarded, and poison is reported through AER; every write completes with NDR
Cmp. -/
def execCxlMemWrite (addr : Word64) (mask : Word64) (data : LineData) (poison : Bool) (env : Env) (s : State) :
    Host.Outcome State Fault Refusal :=
  match s.hdmOff addr with
  | none => .next s
  | some off =>
    if !s.hif.up then .next s
    else
      let s := if poison then s.aerReport 0 12 else s
      match s.windowAt off with
      | .inl c => .next ((s.memRej true c off).say .memCmp)
      | .inr a =>
        if !s.memLive || poison then .next (s.say .memCmp)
        else
          match writeLine env a mask data (s.touchWindow off mask) with
          | .ok _ t => .next (t.say .memCmp)
          | .error (.halt h) t => .next ((t.sealHaltNow h).say .memCmp)
          | .error (.fault 0x2001 _ _) t => .next (((t.setPart a.part (s.part a.part)).memRej true 2 off).say .memCmp)
          | .error (.fault c _ i) t => .next ((t.markCode c i a.part).say .memCmp)
          | .error _ t => .next (t.say .memCmp)

/-! ## Snoops and host errors (R305, R315, R523) -/

/-- HOST_SNOOP: answered from the HIF cache, whose lines hold released data only. A modified line is forwarded; SnpInv
invalidates, SnpData leaves the line shared, SnpCur leaves it as it is. -/
def execHostSnoop (kind : Snoop) (addr : Nat) (s : State) : Host.Outcome State Fault Refusal :=
  if !s.hif.up then .next s
  else
    let k := addr / 64
    match tget none s.hif.hostCache k with
    | none => .next (s.say (.snoop none))
    | some l =>
      let ans : OutEv := .snoop (if l.modified then some l.data else none)
      let new := match kind with
        | .inv => none
        | .data => some { l with modified := false }
        | .cur => some l
      .next ({ s with hif := { s.hif with hostCache := tput none s.hif.hostCache k new } }.say ans)

/-- A queue holds a descriptor that the command processor would fetch. -/
def State.wouldFetch (s : State) (q : QSrc) : Bool := (s.cmdOf q).isNone && (s.fetch q).isSome

/-- HOST_READ_ERROR: a ring fetch fails, or a host read of a queue's dispatched command; it is reported through AER. -/
def execHostReadError (src : QSrc) (err : HostErr) (ring : Bool) (s : State) : Host.Outcome State Fault Refusal :=
  let t := s.aerReport (fnOf (s.partOf src)) (hostErrBit err)
  if ring then
    if !s.wouldFetch src then .next s
    else
      match src with
      | .mgmt m => .next (t.mqStop m.toNat 2).settle
      | .ctx c _ => .next (t.failCtx c.toNat 0x1A07).settle
  else
    match s.cmdOf src with
    | some c => if c.started then .next (t.fail src (hostErrCode err) 0 0).settle else .next s
    | none => .next s

/-- The function through which a refused write went. -/
def State.refusedFn (s : State) : RefusedWrite → Nat
  | .record q => fnOf (s.partOf q)
  | .forCmd q => fnOf (s.partOf q)
  | .colophon fn => fn.toNat
  | .mailbox => 0

/-- HOST_WRITE_REFUSED: a CXL.cache request for the line has an error response, or another refusal that the device learns of. -/
def execHostWriteRefused (w : RefusedWrite) (s : State) : Host.Outcome State Fault Refusal :=
  .next (s.writeRefused (s.refusedFn w) w).settle

/-! ## Staging windows (R306, R310) -/

/-- HIF_STG_ERR of a mapping: the first check that fails (log entry 44). -/
def State.stgCheck (s : State) (n p h off : Nat) : Nat :=
  match s.handle p h with
  | .inl _ => 1
  | .inr (_, o) =>
    if p = 63 ∨ o.part.toNat ≠ p then 1
    else if !o.staging then 2
    else if o.len ≤ off * 4096 then 3
    else if (s.stg n).mapped then 4
    else if (s.part p).state ≠ .active then 5
    else 0

/-- A write of HIF_STG_MAP of the selected slot. -/
def State.stgWrite (s : State) (v : Nat) : State :=
  let n := s.reg 0 .hif 0 0x44 0 % 256
  let x := s.stg n
  let p := v % 64
  if v.testBit 31 then
    let h := s.reg (64 + n) .hif 0 0x48 0
    let off := s.reg (64 + n) .hif 0 0x4C 0
    let e := s.stgCheck n p h off
    if e = 0 then
      (s.addHold (h % 2 ^ 20) 1).setStg n
        { mapped := true, part := BitVec.ofNat 6 p, handle := BitVec.ofNat 32 h, off4k := off, err := 0 }
    else s.setStg n { x with err := BitVec.ofNat 3 e, part := if x.mapped then x.part else BitVec.ofNat 6 p }
  else
    let s := if x.mapped then s.dropHold (x.handle.toNat % 2 ^ 20) else s
    s.setStg n { mapped := false, part := BitVec.ofNat 6 p, handle := 0, off4k := 0, err := 0 }

/-- STAGING_MAP: a write of HIF_STG_MAP with VALID 1. -/
def execStagingMap (w : RegVal) (s : State) : Host.Outcome State Fault Refusal :=
  if w.value.toNat.testBit 31 then .next (s.driverWrite w.fn.toNat .hif 0 0x50 true fun t => t.stgWrite w.value.toNat)
  else .next s

/-- STAGING_UNMAP: a write of HIF_STG_MAP with VALID 0. -/
def execStagingUnmap (w : RegVal) (s : State) : Host.Outcome State Fault Refusal :=
  if w.value.toNat.testBit 31 then .next s
  else .next (s.driverWrite w.fn.toNat .hif 0 0x50 true fun t => (t.stgWrite w.value.toNat).settle)

end Sys2Proof.Machine
end

