-- ==== Sys2Proof/Machine/Fabric.lean ====
section
/-!
DEFINITION. Cuton Link ports and the router (chapter 17): the states of a port, the plan check, packets, pair sessions, the
Imposition plan and open mode.
-/

namespace Sys2Proof.Machine

/-! ## Ports come up and go down (R393, R417, R418) -/

/-- Ports work: SERVICE, BRACED or EVACUATE, with the fabric reference clock (R393, R504). -/
def State.portsLive (s : State) : Bool := s.partLive && s.pwr.refFab

/-- Begin training a port that may train (R393). -/
def State.train (s : State) (p : Nat) : State :=
  let x := s.port p
  if x.state = .down ∧ s.ctnEnabled p ∧ !(s.ctnCtrl p).testBit 2 ∧ x.retryOk ∧ s.portsLive then
    (s.setPort p { x with idOk := false, attested := false, retrain := false }).portMove p .training 0
  else s

/-- Take a port that is not DOWN to DOWN; it trains again where it may. -/
def State.portFail (s : State) (p reason : Nat) : State :=
  if (s.port p).state = .down then s else (s.portDown p reason).train p

/-- Put a port into FENCED. -/
def State.fence' (s : State) (p reason : Nat) : State := s.portMove p .fenced reason

/-- A write of CTN_CTRL of a port (R393, R420, R470): the fields are stored, then RESET, LOOPBACK and ENABLE act. -/
def State.ctnWrite (s : State) (p v : Nat) : State :=
  let old := s.ctnCtrl p
  let new := bits v 15 8 * 256 + v % 16 / 8 * 8 + v / 4 % 2 * 4 + v % 2
  let t := s.setReg 0 .ctn p 0x10 0x6408 new
  let t := if new.testBit 0 && !old.testBit 0 && decide ((t.port p).state ≠ .up) then t.raise .ctn p 1 63 else t
  let t := if v.testBit 1 && decide ((t.port p).state ≠ .down) then t.portDown p 12 else t
  let t := if (!new.testBit 0 || new.testBit 2) && decide ((t.port p).state ≠ .down) then t.portDown p 1 else t
  t.train p

/-- CTN_ENABLE. -/
def execCtnEnable (fn : BitVec 6) (port : BitVec 3) (enable : Bool) (s : State) : Host.Outcome State Fault Refusal :=
  let p := port.toNat
  .next (s.driverWrite fn.toNat .ctn p 0x10 true fun t =>
    (t.ctnWrite p (t.ctnCtrl p / 2 * 2 + b2n enable)).settle)

/-- A link reset (R470). -/
def State.linkReset (s : State) (p : Nat) : State :=
  ((if (s.port p).state = .down then s else s.portDown p 12).train p).settle

/-- LINK_RESET: a 1 written to CTN_CTRL.RESET. -/
def execLinkReset (fn : BitVec 6) (port : BitVec 3) (s : State) : Host.Outcome State Fault Refusal :=
  .next (s.driverWrite fn.toNat .ctn port.toNat 0x10 false fun t => t.linkReset port.toNat)

/-- TRAIN_RETRY_EXPIRY. -/
def execTrainRetryExpiry (port : BitVec 3) (s : State) : Host.Outcome State Fault Refusal :=
  let p := port.toNat
  .next ((s.setPort p { s.port p with retryOk := true }).train p).settle

/-- TRAINING_TIMEOUT: 200 ms have passed in TRAINING. -/
def execTrainingTimeout (port : BitVec 3) (s : State) : Host.Outcome State Fault Refusal :=
  let p := port.toNat
  let x := s.port p
  if x.state = .training ∧ !x.retrain then .next ((s.errBit .ctn p 1 63).portDown p 2).settle else .next s

/-- RETRAIN_TIMEOUT: a retrain is not back in UP within 10 ms. -/
def execRetrainTimeout (port : BitVec 3) (s : State) : Host.Outcome State Fault Refusal :=
  let p := port.toNat
  let x := s.port p
  if x.state = .training ∧ x.retrain then .next ((s.errBit .ctn p 1 63).portDown p 2).settle else .next s

/-- PORT_RETRAIN: a lane is lost, or 64 uncorrectable codewords have come within 1 ms. -/
def execPortRetrain (port : BitVec 3) (fecBurst : Bool) (s : State) : Host.Outcome State Fault Refusal :=
  let p := port.toNat
  if (s.port p).state ≠ .up then .next s
  else
    let s := if fecBurst then ((s.bump 0 .ctn p 0x64 64).errBit .ctn p 2 63).raise .ctn p 3 63 else s
    let s := s.setPort p { s.port p with retrain := true, idOk := false }
    .next ((s.portMove p .training 0).raise .ctn p 4 63).settle

/-- REASON 8: HOP_AUTH (R417). -/
def State.hopAuth (s : State) (p : Nat) : State := ((s.errBit .ctn p 3 63).raise .ctn p 2 63).portFail p 8

/-- HOP_AUTH_FAIL: 16 hop-tag failures within 1 ms. -/
def execHopAuthFail (port : BitVec 3) (s : State) : Host.Outcome State Fault Refusal :=
  let p := port.toNat
  if (s.port p).state ≠ .up then .next s else .next (s.hopAuth p).settle

/-- REPLAY_EXHAUSTED: one packet replayed 8 times. -/
def execReplayExhausted (port : BitVec 3) (s : State) : Host.Outcome State Fault Refusal :=
  let p := port.toNat
  if (s.port p).state ≠ .up then .next s
  else .next (((s.bump 0 .ctn p 0x68 8).errBit .ctn p 4 63).portFail p 9).settle

/-- HOP_REKEY: at 2^31 packets in one direction the ends agree new keys (R414). -/
def execHopRekey (port : BitVec 3) (ok : Bool) (s : State) : Host.Outcome State Fault Refusal :=
  let p := port.toNat
  let x := s.port p
  let due := decide (2 ^ 31 ≤ x.txSeq.toNat ∨ 2 ^ 31 ≤ x.rxSeq.toNat)
  if x.state ≠ .up ∨ x.session.isNone ∨ !due then .next s
  else if ok then
    let (d, t) := s.draw
    .next (t.setPort p { x with session := some (d ++ Config.trng s.freeCtr), txSeq := 0, rxSeq := 0 })
  else .next (s.hopAuth p).settle

/-- HALT_FRAME: the partner halts. -/
def execHaltFrame (port : BitVec 3) (s : State) : Host.Outcome State Fault Refusal :=
  .next (s.portFail port.toNat 11).settle

/-! ## The plan check (R400, R401) -/

/-- A field of the plan's neighbour entry of a port. -/
def State.nbr (s : State) (p off len : Nat) : Nat := s.planAt (64 + 16 * p + off) len

/-- The entry of a port is PRESENT. -/
def State.nbrPresent (s : State) (p : Nat) : Bool := (s.nbr p 11 1).testBit 0

/-- A port's partner is the neighbour of the entry of role r. -/
def State.isNbr (s : State) (x : Port) (r : Nat) : Bool :=
  s.nbrPresent r && s.nbr r 0 8 == x.serial.toNat && s.nbr r 8 2 % 1024 == x.peerDev.toNat

/-- The opposite role of a torus role. -/
def opposite (r : Nat) : Nat := r ^^^ 1

/-- The role that as-found mode gives a port: the partner is the neighbour expected there and its port the opposite; a role
that another port has is taken. -/
def State.foundRole (s : State) (p : Nat) : Option Nat :=
  let x := s.port p
  (List.range 6).find? fun r => s.isNbr x r && x.peerPort.toNat == opposite r &&
    !(List.range 6).any fun p' => p' != p && (s.port p').role == some (BitVec.ofNat 3 r)

/-- The plan check of a torus port: its role, or the REASON of its failure. -/
def State.torusCheck (s : State) (p : Nat) : Nat ⊕ Nat :=
  let x := s.port p
  let roleFits := fun (r : Nat) => x.peerRole == 0xFF || x.peerRole.toNat == opposite r
  if x.planId.toNat ≠ s.planAt 8 8 then .inl 5
  else if !s.nbrPresent p then .inl 7
  else if s.isNbr x p && s.nbr p 10 1 == x.peerPort.toNat then (if roleFits p then .inr p else .inl 6)
  else if s.planAt 6 1 % 2 = 1 then
    match s.foundRole p with
    | some r => if roleFits r then .inr r else .inl 6
    | none => .inl 6
  else .inl 6

/-- The plan check of an uplink with a switch partner. -/
def State.upCheck (s : State) (p : Nat) : Nat ⊕ Nat :=
  if !s.nbrPresent p then .inl 7 else if (s.port p).peerPort.toNat % 2 = p - 6 then .inr p else .inl 6

/-- The check that an identified partner has to pass: none in open mode. -/
def State.partnerCheck (s : State) (p : Nat) : Nat ⊕ Nat :=
  if s.openMode then .inr p else if p < 6 then s.torusCheck p else s.upCheck p

/-- Bring a port whose partner is settled to UP or FENCED. -/
def State.place' (s : State) (p : Nat) : State :=
  let s := s.setPort p { s.port p with role := none, retrain := false }
  match s.partnerCheck p with
  | .inr r =>
    let s := s.setPort p { s.port p with role := if r = p then none else some (BitVec.ofNat 3 r) }
    s.portMove p .up 0
  | .inl why => s.fence' p why

/-- A port's partner could carry packets: an attested device on a torus port, a switch on an uplink; version 2. -/
def partnerFit (p : Nat) (x : Port) : Bool := x.version == 2 && (if p < 6 then x.attested && !x.switch else x.switch)

/-- Check every settled port again: a plan was loaded or OPEN changed (R393). -/
def State.recheck (s : State) : State :=
  let s := (List.range 8).foldl (fun (t : State) p => t.setPort p { t.port p with role := none }) s
  (List.range 8).foldl (fun (t : State) p =>
    let x := t.port p
    if (x.state = .up ∨ x.state = .fenced) ∧ partnerFit p x then t.place' p else t) s

/-! ## Identity and attestation (R395 to R397) -/

/-- What a port's record takes from an identity record. -/
def Port.identified (x : Port) (rec : Nat) (version : Nat) (lanes : BitVec 8) : Port :=
  { x with
    idOk := true
    serial := BitVec.ofNat 64 (field rec 8 8)
    peerDev := BitVec.ofNat 10 (field rec 6 2)
    peerPort := BitVec.ofNat 3 (field rec 5 1)
    planId := BitVec.ofNat 64 (field rec 16 8)
    peerRole := BitVec.ofNat 8 (field rec 24 1)
    version := BitVec.ofNat 4 version
    switch := decide (field rec 0 4 = 0x53394C49)
    lanes := lanes
    x4 := lanes != 0xFF }

/-- The hop session and the packets of a partner that is not there any more are gone. -/
def State.dropSession (s : State) (p : Nat) : State :=
  let x := s.port p
  let s := s.setPort p { x with session := none, attested := false, retrain := false, replay := [], txq := [], credits := [], meas := 0 }
  (x.replay ++ x.txq).foldl (fun (t : State) k => t.discard (some p) k 0) s

/-- IDENTITY_RECORD: the exchange of a training port completes. -/
def execIdentityRecord (port : BitVec 3) (rec : BitVec 512) (lanes : BitVec 8) (s : State) : Host.Outcome State Fault Refusal :=
  let p := port.toNat
  let x := s.port p
  let r := rec.toNat
  let magic := field r 0 4
  let laneOk := lanes == 0xFF || ((s.ctnCtrl p).testBit 3 && (lanes == 0x0F || lanes == 0xF0))
  if x.state ≠ .training ∨ (magic ≠ 0x44394C49 ∧ magic ≠ 0x53394C49) ∨ !laneOk then .next s
  else
    let v := field r 4 1 % 8 / 2 * 2
    let version := if v.testBit 2 then 2 else if v.testBit 1 then 1 else 0
    let t := s.setPort p (x.identified r version lanes)
    if version = 0 then .next ((t.errBit .ctn p 1 63).portDown p 3).settle
    else if version = 1 then .next (((t.dropSession p).errBit .ctn p 1 63).fence' p 3).settle
    else
      let switch := decide (magic = 0x53394C49)
      if switch ≠ decide (6 ≤ p) then .next ((t.dropSession p).fence' p 6).settle
      else if switch then .next (t.place' p).settle
      else if x.retrain ∧ x.session.isSome ∧ x.serial.toNat = field r 8 8 then .next (t.place' p).settle
      else .next ((t.dropSession p).portMove p .attesting 0).settle

/-- Evidence of a fabric partner passes (R441): it verifies, from a device in confidential mode, in PROVISIONED or FIELD, for
the nonce. -/
def evidencePasses (e : PeerEvidence) : Bool :=
  e.verifies && e.confidential && (e.lifecycle == 2 || e.lifecycle == 3) && e.nonceOk

/-- REASON 4 of an attestation. -/
def State.attestFail (s : State) (p : Nat) : State := (s.errBit .ctn p 0 63).fence' p 4

/-- ATTESTATION_EVIDENCE: on a pass the ends derive the hop session. -/
def execAttestationEvidence (port : BitVec 3) (ev : PeerEvidence) (s : State) : Host.Outcome State Fault Refusal :=
  let p := port.toNat
  let x := s.port p
  if x.state ≠ .attesting then .next s
  else if evidencePasses ev && ev.serial == x.serial then
    let (d, t) := s.draw
    .next ((t.setPort p { x with attested := true, meas := ev.meas, session := some (Config.sessionKeys d ev), txSeq := 0
                                 rxSeq := 0 }).place' p).settle
  else .next (s.attestFail p).settle

/-- ATTEST_TIMEOUT: 50 ms have passed in ATTESTING. -/
def execAttestTimeout (port : BitVec 3) (s : State) : Host.Outcome State Fault Refusal :=
  let p := port.toNat
  if (s.port p).state = .attesting then .next (s.attestFail p).settle else .next s

/-! ## Credits (R404, R413) -/

/-- The place of a packet in a port's arbitration: VC0, VC1, then the others. -/
def pktRank (k : Pkt) : Nat := min 2 (pktVc k.data)

/-- The first packet of a rank that waits on a port and has credits, with none of its VC and class before it. -/
def nextOf (credits : Tab Nat) (p rank : Nat) : List Nat → List Pkt → Option Nat
  | _, [] => none
  | seen, k :: t =>
    let key := pktVc k.data * 2 + pktClass k.data
    if pktRank k = rank ∧ !seen.contains key ∧
        tget 0 credits key + pktUnits k.data ≤ creditCap p (pktVc k.data) then some 0
    else (nextOf credits p rank (key :: seen) t).map (· + 1)

/-- Send the packets that wait on a port, as far as credits allow. -/
def State.drainPort (p : Nat) : Nat → State → State
  | 0, s => s
  | fuel + 1, s =>
    let x := s.port p
    match [0, 1, 2].findSome? fun r => nextOf x.credits p r [] x.txq with
    | none => s
    | some i =>
      match x.txq[i]? with
      | none => s
      | some k => ((s.setPort p { x with txq := x.txq.eraseIdx i }).sendNow p k).drainPort p fuel

/-- The receiver has taken packets of a VC and class with the given credits: they leave the replay buffer. -/
def acked (key : Nat) : Nat → List Pkt → List Pkt
  | _, [] => []
  | units, k :: t =>
    if pktVc k.data * 2 + pktClass k.data = key ∧ pktUnits k.data ≤ units then acked key (units - pktUnits k.data) t
    else k :: acked key units t

/-- CREDIT_RETURN. -/
def execCreditReturn (port : BitVec 3) (vc : BitVec 2) (cls : BitVec 1) (units : Nat) (s : State) :
    Host.Outcome State Fault Refusal :=
  let p := port.toNat
  let x := s.port p
  let key := vc.toNat * 2 + cls.toNat
  if x.state ≠ .up then .next s
  else
    let s := s.setPort p { x with credits := tput 0 x.credits key (tget 0 x.credits key - units), replay := acked key units x.replay }
    .next (s.drainPort p x.txq.length)

/-- VC0_CREDIT_TIMEOUT: the oldest VC0 packet that waits on a port for credits is discarded. -/
def execVc0CreditTimeout (port : BitVec 3) (s : State) : Host.Outcome State Fault Refusal :=
  let p := port.toNat
  let x := s.port p
  match takeFirst (fun (k : Pkt) => pktVc k.data == 0) x.txq with
  | none => .next s
  | some (k, rest) => .next ((s.setPort p { x with txq := rest }).discard (some p) k 0).settle

/-! ## Packets (R403 to R415) -/

/-- PACKET_INJECT: a packet of a dispatched command. -/
def execPacketInject (w : InjectIn) (s : State) : Host.Outcome State Fault Refusal :=
  match s.cmdOf w.src with
  | none => .next s
  | some c =>
    if !c.started ∨ 1024 < w.payload.length then .next s
    else
      match s.inject w with
      | .inl code => .next (s.fail w.src code 0 0).settle
      | .inr t => .next t.settle

/-- The partition that holds a slice. -/
def State.sliceOwner (s : State) (k : Nat) : Option Nat :=
  (s.parts.find? fun e => (e.2.slice.map (·.toNat)) == some k).map (·.1)

/-- A packet's bytes on from its header, with HOP as given. -/
def withHop (d : List Byte) (hop : Nat) : List Byte := d.set 5 (BitVec.ofNat 8 hop)

/-- Forward a packet on its route; without a next hop it is discarded (R407, R411). -/
def State.forward (s : State) (port : Nat) (d : List Byte) : State :=
  let slice := if pktMgmt d then none else some (leAt d 4 1 % 64)
  match s.torusHop slice (leAt d 0 2 % 1024) (leAt d 5 1 % 16) with
  | .send p hop _ => s.transmit p { src := none, data := withHop d hop }
  | _ => s.discard (some port) { src := none, data := d } 0

/-- A packet of KIND SRCROUTE (R404; log entry 45): byte 0 holds the hops that are left and bytes 1 to 8 the ports, the next one
lowest; a device that takes a port lowers the count and shifts the route. -/
def State.srcRoute (s : State) (port : Nat) (d : List Byte) : State :=
  let left := leAt d 16 1
  if !s.openMode ∨ 16 < left then s.discard (some port) { src := none, data := d } 0
  else if left = 0 then s
  else
    let p := leAt d 17 8 % 16
    let d := d.take 16 ++ [BitVec.ofNat 8 (left - 1)] ++ leBytes 8 (leAt d 17 8 / 16) ++ d.drop 25
    if p < 8 ∧ (s.port p).state = .up then s.transmit p { src := none, data := d }
    else s.discard (some port) { src := none, data := d } 0

/-- Deliver a packet of a slice to this device (R412, R415): to the collective engine, once its tag verifies and its SEQ is
new. -/
def State.deliverPacket (s : State) (d : List Byte) (jobOk : Bool) : State :=
  let slice := leAt d 4 1 % 64
  let src := leAt d 2 2
  let bad := s.discard none { src := none, data := d } 1
  let key := seqKey slice (src % 1024) (src / 1024 % 16) (pktVc d)
  let seq := leAt d 8 8
  if (s.sliceOwner slice).isNone ∨ !s.sliceHas slice (src % 1024) then bad
  else if !jobOk ∨ (tget none s.frt.keys slice).isNone ∨ seq < tget 0 s.frt.seqIn key then bad
  else { s with frt := { s.frt with seqIn := tput 0 s.frt.seqIn key (seq + 1) } }

/-- What becomes of a packet whose hop layer is good. -/
def State.takePacket (s : State) (p : Nat) (d : List Byte) (jobOk : Bool) : State :=
  let dst := leAt d 0 2 % 1024
  let kind := leAt d 6 2 % 16
  let k : Pkt := { src := none, data := d }
  if 4 < kind ∨ (pktMgmt d ∧ pktVc d ≠ 0) then s.discard none k 2
  else if pktMgmt d then
    if kind = 4 then s.srcRoute p d
    else if s.frt.plan.isSome && dst == s.devNum then s      -- LOSS_PACKET, LINK_REPORT, PAIR_ATTEST, PAIR_CLOSE
    else if 6 ≤ p then s.discard (some p) k 0
    else s.forward p d
  else if s.openMode then s.discard (some p) k 0
  else if (s.sliceOff (leAt d 4 1 % 64)).isNone then s.discard none k 1
  else if dst = s.devNum then s.deliverPacket d jobOk
  else if 6 ≤ p then s.discard (some p) k 0
  else s.forward p d

/-- Count a failed hop tag. -/
def State.hopFailed (s : State) (p : Nat) : State := s.bump 0 .ctn p 0x6C 1

/-- PACKET_RECEIVE (R406, R407, R412, R414, R415). -/
def execPacketReceive (w : PacketIn) (s : State) : Host.Outcome State Fault Refusal :=
  let p := w.port.toNat
  let x := s.port p
  let d := leBytes 16 w.header.toNat ++ w.payload
  let whole := pktLen d + (if pktMgmt d then 0 else 16)
  let src := leAt d 2 2 % 1024
  if x.state ≠ .up ∨ w.payload.length ≠ whole then .next s
  else if !w.hopOk then .next (s.hopFailed p)
  else if p < 6 then
    -- a gap is replayed
    if w.hopSeq ≠ x.rxSeq then .next s
    else .next ((s.setPort p { x with rxSeq := x.rxSeq + 1 }).takePacket p d w.jobOk).settle
  else
    match s.pair src with
    | none => if pktMgmt d then .next (s.takePacket p d w.jobOk).settle else .next (s.hopFailed p)
    | some y =>
      let fresh := match y.rxSeq with
        | none => true
        | some n => decide (n.toNat < w.hopSeq.toNat)
      if fresh then .next ((s.setPair src { y with rxSeq := some w.hopSeq, used := s.pairUse }).takePacket p d w.jobOk).settle
      else .next s

/-- LOSS_PACKET: the command that sent the packet faults while it runs (R411). -/
def execLossPacket (l : LossIn) (s : State) : Host.Outcome State Fault Refusal :=
  match s.sliceOwner l.slice.toNat with
  | none => .next s
  | some p =>
    let s := (s.bump2 p .frt 0 0x68 1).raise .frt 0 4 p
    match s.cmdOf l.src with
    | some _ => if s.partOf l.src = p then .next (s.fail l.src 0x2901 0 0).settle else .next s
    | none => .next s

/-- LINK_REPORT: the group's map takes the report; a device of two measurements is remembered (R402, R403). -/
def execLinkReport (r : LinkRep) (s : State) : Host.Outcome State Fault Refusal :=
  let d := r.dev.toNat
  if s.frt.plan.isNone ∨ d = s.devNum ∨ !s.devExists d ∨ !s.sameGroup s.devNum d then .next s
  else
    let two := (match s.reportOf d with
      | some old => old.meas != r.meas
      | none => false) && !s.frt.twoMeas.contains r.dev
    let t := { s with frt := { s.frt with
      map := r :: s.frt.map.filter fun x => x.dev != r.dev
      twoMeas := if two then r.dev :: s.frt.twoMeas else s.frt.twoMeas } }
    .next (t.raise .frt 0 2 63)

/-! ## Pair sessions (R409, R410) -/

/-- The destination of a pair exchange is unreachable: the commands whose packets wait fault. -/
def State.pairDead (s : State) (d : Nat) : State :=
  match s.pair d with
  | none => s
  | some x =>
    let s := { s with frt := { s.frt with pairs := s.frt.pairs.filter fun e => e.1.toNat != d } }
    (x.waiting.map (·.src)).eraseDups.foldl (fun (t : State) q => t.fail q 0x2903 0 0) s

/-- Inject the packets that waited for a session. -/
def State.pairGo (s : State) (d : Nat) : State :=
  match s.pair d with
  | none => s
  | some x =>
    (x.waiting).foldl (fun (t : State) w =>
      if (t.cmdOf w.src).isNone then t
      else
        match t.inject w with
        | .inl code => t.fail w.src code 0 0
        | .inr u => u) (s.setPair d { x with waiting := [] })

/-- A device of another group of the domain. -/
def State.pairPeer (s : State) (d : Nat) : Bool := !s.openMode && s.devExists d && !s.sameGroup s.devNum d

/-- PAIR_ATTEST: the evidence of the other end; a peer that begins the exchange takes a free place. -/
def execPairAttest (dev : BitVec 10) (ev : PeerEvidence) (s : State) : Host.Outcome State Fault Refusal :=
  let d := dev.toNat
  if !s.pairPeer d then .next s
  else
    let (keys, t) := s.draw
    match s.pair d with
    | some x =>
      if !evidencePasses ev then (if x.up then .next s else .next (s.pairDead d).settle)
      else
        .next ((t.setPair d { x with up := true, keys := Config.sessionKeys keys ev, rxSeq := none, closing := false
                                     used := s.pairUse }).pairGo d).settle
    | none =>
      if !evidencePasses ev ∨ 1024 ≤ s.frt.pairs.length then .next s
      else
        .next ((t.setPair d { up := true, keys := Config.sessionKeys keys ev, waiting := [], closing := false
                              used := s.pairUse, rxSeq := none }).mgmtPacket d 3 [])

/-- PAIR_ATTEST_TIMEOUT: 50 ms have passed. -/
def execPairAttestTimeout (dev : BitVec 10) (s : State) : Host.Outcome State Fault Refusal :=
  match s.pair dev.toNat with
  | some x => if x.up then .next s else .next (s.pairDead dev.toNat).settle
  | none => .next s

/-- PAIR_CLOSE: a close request of the peer is acknowledged after this device's last packet; an acknowledgement ends the
session that this device closes. Either discards the session. -/
def execPairClose (dev : BitVec 10) (ack : Bool) (s : State) : Host.Outcome State Fault Refusal :=
  let d := dev.toNat
  match s.pair d with
  | none => .next s
  | some x =>
    let gone := { s with frt := { s.frt with pairs := s.frt.pairs.filter fun e => e.1 != dev } }
    if ack then (if x.closing then .next gone else .next s)
    else if s.pairBusy d then .next s
    else .next (gone.mgmtPacket d 3 [2])

/-! ## The plan and open mode (R398, R399, R404) -/

/-- Bytes of a string in a range are zero. -/
def zeros (l : List Byte) (off len : Nat) : Bool := (slice l off len).all (· == 0)

/-- FRT_PLAN_CTRL.ERR of a plan (R399): the lowest number that applies, 0 when it is accepted. -/
def State.planCheck (s : State) (l : List Byte) : Nat :=
  let at' := fun off len => leAt l off len
  let n := at' 7 1
  let form := decide (192 ≤ l.length) && at' 0 4 == 0x49394C49 && at' 4 2 == 1 && decide (at' 6 1 ≤ 1) && decide (n ≤ 64)
    && l.length == 192 + 144 * n && at' 8 8 != 0 && decide (at' 22 2 < 1024) && zeros l 32 32
    && ((List.range 8).all fun p =>
      let o := 64 + 16 * p
      decide (at' (o + 11) 1 ≤ 1) && zeros l (o + 12) 4 &&
        (if p < 6 then decide (at' (o + 8) 2 < 1024) && decide (at' (o + 10) 1 < 8) else zeros l o 11))
    && ((List.range n).all fun i =>
      let o := 192 + 144 * i
      decide (at' o 1 < 64) && decide (at' (o + 1) 1 < 4) && zeros l (o + 2) 14)
  let dims := [at' 16 1, at' 17 1, at' 18 1]
  let grp := [at' 19 1, at' 20 1, at' 21 1]
  let inDom := fun d => (List.range 3).all fun i => decide (axis d i < dims.getD i 0)
  let geo := ((List.range 3).all fun i =>
      countOk (dims.getD i 0) ([16, 8, 8].getD i 0) && decide (1 ≤ grp.getD i 0) && dims.getD i 0 % grp.getD i 0 == 0)
    && decide (grp.foldl (· * ·) 1 ≤ 128) && inDom (at' 22 2)
    && ((List.range 6).all fun p => at' (64 + 16 * p + 11) 1 == 0 || inDom (at' (64 + 16 * p + 8) 2))
    && ((List.range n).all fun i => (List.range 1024).all fun d => !(at' (192 + 144 * i + 16) 128).testBit d || inDom d)
  let ids := (List.range n).map fun i => at' (192 + 144 * i) 1
  if !form then 2
  else if at' 24 8 ≠ Config.serial.toNat then 3
  else if !geo then 4
  else if ids.eraseDups.length ≠ ids.length then 5
  else if s.parts.any fun e => e.2.slice.isSome then 6
  else 0

/-- What a new plan or another mode brings: every port is checked again, routes and sizes follow (R22, R393, R399). -/
def State.replanned (old s : State) : State :=
  let t := (s.recheck).raise .frt 0 2 63
  let t := if old.missing = 0 ∧ t.missing ≠ 0 then t.raise .frt 0 1 63 else t
  State.trackSizes old t

/-- PLAN_LOAD: a 1 written to FRT_PLAN_CTRL.LOAD, with what the host read returns. -/
def execPlanLoad (fn : BitVec 6) (plan : Option (List Byte)) (s : State) : Host.Outcome State Fault Refusal :=
  .next (s.driverWrite fn.toNat .frt 0 0x48 false fun t =>
    if !t.partLive then t
    else
      let err := match plan with
        | none => 1
        | some l => t.planCheck l
      let u := { t with frt := { t.frt with planErr := BitVec.ofNat 4 err } }
      let u := if err ≠ 0 then u
        else
          let v := { u with frt := { u.frt with plan := plan } }
          let near := fun (d : BitVec 10) => v.devExists d.toNat && v.sameGroup v.devNum d.toNat && d.toNat != v.devNum
          let v := { v with frt := { v.frt with map := v.frt.map.filter fun r => near r.dev, twoMeas := v.frt.twoMeas.filter near } }
          State.replanned t v
      (u.raise .frt 0 0 63).settle)

/-- A write of FRT_CTRL: OPEN stores 0 while a partition holds a slice (R404). -/
def State.frtWrite (s : State) (v : Nat) : State :=
  let open' := v % 2 = 1 ∧ !s.parts.any fun e => e.2.slice.isSome
  let t := s.setReg 0 .frt 0 0x10 0 (if open' then 1 else 0)
  if t.openMode = s.openMode then t else (State.replanned s t).settle

/-- FRT_OPEN: a write of FRT_CTRL through a function. -/
def execFrtOpen (w : RegVal) (s : State) : Host.Outcome State Fault Refusal :=
  .next (s.driverWrite w.fn.toNat .frt 0 0x10 true fun t => t.frtWrite w.value.toNat)

end Sys2Proof.Machine
end

