-- ==== Sys2Proof/Machine/Security.lean ====
section
/-!
DEFINITION. The security controller (chapter 18): KEY_LOAD, the mailbox operations, attestation evidence, the life cycle and
JTAG.
-/

namespace Sys2Proof.Machine

/-! ## Derived keys (R432, R433) -/

/-- BOOT_ID. -/
def State.bootId (s : State) : Nat :=
  ofLe (shakeBytes 8 (ascii [0x49, 0x4C, 0x39, 0x20, 0x62, 0x6F, 0x6F, 0x74, 0x69, 0x64] ++ leBytes 32 s.sec.nonce.toNat))

/-- The identity signing key's seed. -/
def State.identSeed (s : State) : List Byte :=
  shakeBytes 57 (ascii [0x49, 0x4C, 0x39, 0x20, 0x69, 0x64, 0x65, 0x6E, 0x74] ++ s.dusBytes)

/-- The attestation alias key's seed. -/
def State.aliasSeed (s : State) : List Byte :=
  shakeBytes 57 (ascii [0x49, 0x4C, 0x39, 0x20, 0x61, 0x6C, 0x69, 0x61, 0x73] ++ s.dusBytes ++ leBytes 64 s.sec.m4.toNat)

/-- The release private key. -/
def State.releaseKey (s : State) : List Byte :=
  shakeBytes 56 (ascii [0x49, 0x4C, 0x39, 0x20, 0x68, 0x70, 0x6B, 0x65] ++ s.dusBytes ++ leBytes 64 s.sec.m4.toNat
    ++ leBytes 32 s.sec.nonce.toNat)

/-! ## Job records (R443) -/

/-- Owners and allow-list entries of a job record, and its quorum. -/
def jobN (r : List Byte) : Nat := leAt r 6 1
def jobK (r : List Byte) : Nat := leAt r 7 1
def jobAllow (r : List Byte) : Nat := leAt r 17 1

/-- The slice of a job record; none with NO_SLICE. -/
def jobSlice (r : List Byte) : Option Nat := if (leAt r 16 1).testBit 6 then none else some (leAt r 16 1 % 64)

/-- The job digest. -/
def jobDigest (r : List Byte) : BitVec 256 := BitVec.ofNat 256 (ofLe (shakeBytes 32 r))

/-- MEMBER_MEAS. -/
def jobMeas (r : List Byte) : BitVec 512 := BitVec.ofNat 512 (leAt r 64 64)

/-- The allow-list of a job record. -/
def jobAllowList (r : List Byte) : List (BitVec 512) :=
  (List.range (jobAllow r)).map fun j => BitVec.ofNat 512 (leAt r (128 + 64 * (jobN r + j)) 64)

/-- A job record keeps R443. -/
def jobRecOk (r : List Byte) : Bool :=
  decide (128 ≤ r.length) && leAt r 0 4 == 0x4A394C49 && leAt r 4 2 == 1 && countOk (jobN r) 16 && countOk (jobK r) (jobN r)
    && leAt r 8 8 != 0 && decide (leAt r 16 1 < 128) && countOk (jobAllow r) 8 && zeros r 18 46
    && r.length == 128 + 64 * (jobN r + jobAllow r) && (List.range (jobN r)).all fun i => zeros r (128 + 64 * i + 57) 7

/-! ## Blobs (R434 to R436) -/

/-- A Frisket mask without a reserved bit and with WORLD 0 or 1. -/
def maskOk (m : Nat) : Bool := bits m 31 28 == 0 && bits m 23 18 == 0 && bits m 15 8 == 0 && decide (bits m 17 16 < 2)

/-- A blob of this boot under K_WRAP, with an IV from the generator. -/
def State.makeBlob (s : State) (type part kid mask : Nat) (dig28 secret : List Byte) : List Byte × State :=
  let (d, t) := s.draw
  let iv := leBytes 12 d.toNat
  let head := leBytes 4 0x4B394C49 ++ leBytes 2 1 ++ [BitVec.ofNat 8 type, 0] ++ leBytes 8 s.bootId
    ++ [BitVec.ofNat 8 part, 0] ++ leBytes 2 kid ++ leBytes 4 mask ++ iv ++ slice dig28 0 28
  let (ct, tag) := gcmSeal s.kWrap iv head secret
  (head ++ slice ct 0 32 ++ leBytes 16 tag.toNat ++ List.replicate 16 0, t)

/-! ## KEY_LOAD (R438, R445) -/

/-- The form of a blob: check 1 of R438. -/
def blobForm (b : List Byte) : Bool :=
  leAt b 0 4 == 0x4B394C49 && leAt b 4 2 == 1 && (leAt b 6 1 == 1 || leAt b 6 1 == 2) && leAt b 7 1 == 0 && leAt b 17 1 == 0
    && zeros b 112 16

/-- Install a job in a partition: its key and allow-list go to the slice, whose SEQ restarts (R403, R415, R445). -/
def State.installJob (s : State) (p : Nat) (dig : BitVec 256) (key : BitVec 256) (rec : List Byte) : State :=
  let job : Job := { digest := dig, key := key, record := rec }
  let s := s.setPart p { s.part p with job := some dig, shared := jobAllowList rec }
  let s := { s with sec := { s.sec with jobs := tput none s.sec.jobs p (some job) } }
  match jobSlice rec with
  | none => s
  | some k =>
    let other := fun (e : Nat × Nat) => e.1 / 65536 != k
    { s with frt := { s.frt with
      keys := tput none s.frt.keys k (some key), allow := tput [] s.frt.allow k (jobAllowList rec)
      seqOut := s.frt.seqOut.filter other, seqIn := s.frt.seqIn.filter other } }

/-- The body of KEY_LOAD. -/
def keyLoadBody (q : CmdIn) (d : Nat) : M Fin := do
  let kid := field d 8 2
  let len := field d 24 4
  let p ← look (·.partOf q.src)
  let b ← vread { src := q.src, env := q.env } .copy 0x1901 (field d 16 8) (min len 128)
  if len ≠ 128 ∨ !blobForm b then keyFlt q.src 0x0401
  if leAt b 8 8 ≠ (← look (·.bootId)) then keyFlt q.src 0x0402
  match ← look (·.unwrap b) with
  | none => keyFlt q.src 0x0401
  | some secret =>
    let job := leAt b 6 1 == 2
    if leAt b 16 1 ≠ p ∨ (if job then kid ≠ 0 else leAt b 18 2 ≠ kid) then keyFlt q.src 0x0403
    let k ← look (·.kid kid)
    let part ← look (·.part p)
    if (if job then part.job.isSome else k.state != .bound || k.owner.toNat != p) then keyFlt q.src 0x0404
    if job then
      let rec? ← look fun s => s.sec.jobRecs.find? fun r => (r.1.setWidth 224).toNat == leAt b 36 28
      match rec? with
      | none => keyFlt q.src 0x0406
      | some (dig, rec) =>
        let m4 ← look (·.sec.m4)
        let sliceOk := match jobSlice rec with
          | none => true
          | some n => (part.slice.map (·.toNat)) == some n
        if jobMeas rec ≠ m4 ∨ !sliceOk then keyFlt q.src 0x0406
        upd (·.installJob p dig (BitVec.ofNat 256 (ofLe secret)) rec)
        ok
    else
      let life ← look (·.lifecycle)
      if !(decide (1 ≤ life ∧ life ≤ 4) && (leAt b 20 4).testBit (23 + life)) then keyFlt q.src 0x0405
      upd fun s => s.setKid kid { s.kid kid with state := .keyed, blob := BitVec.ofNat 1024 (ofLe b) }
      ok

/-- KEY_LOAD. -/
def execKeyLoad (q : CmdIn) (s : State) : Host.Outcome State Fault Refusal :=
  descriptor { op := 0x71, issuer := fromC, fields := fun d => bodyOnly d [(8, 2), (16, 12)], body := keyLoadBody } q s

/-! ## The mailbox (R450 to R452) -/

/-- How an operation ends: a STATUS that changes nothing, or STATUS 0 or 9 with a response and the new state. -/
inductive MbEnd where
  | refuse (status : Nat)
  | done (status : Nat) (resp : List Byte) (s : State)

/-- Complete an operation: AUTH is set with STATUS 2 and HOST with STATUS 7, BUSY clears and MB_DONE is raised. -/
def State.mbEnd (s : State) (status len : Nat) : State :=
  let s := if status = 2 then s.errBit .sec 0 0 63 else if status = 7 then s.errBit .sec 0 1 63 else s
  { s with sec := { s.sec with busy := false, status := BitVec.ofNat 4 status, respLen := BitVec.ofNat 17 len } }.raise .sec 0 0 63

/-- The buffer's address and length. -/
def State.mbAddr (s : State) : Nat := s.reg 0 .sec 0 0x44 0 + s.reg 0 .sec 0 0x48 0 * 2 ^ 32
def State.mbBuf (s : State) : Nat := s.reg 0 .sec 0 0x50 0

/-- The security controller takes requests. -/
def State.mbLive (s : State) : Bool := decide (s.pwr.state ≠ .boot) && decide (s.pwr.state ≠ .slumber)

/-- Perform a request (R450): the host read, the operation, the response through the gate. -/
def State.mbPerform (s : State) (op : Nat) (m : MbIn) (body : State → List Byte → MbEnd) : State :=
  let s := s.setReg 0 .sec 0 0x40 0 op
  match m.req with
  | none => s.mbEnd 7 0
  | some req =>
    match body s req with
    | .refuse st => s.mbEnd st 0
    | .done st resp t =>
      if s.mbBuf < resp.length then s.mbEnd 1 0
      else ((if resp.isEmpty then t else t.hostPost 0 .mailbox none none s.mbAddr resp).mbEnd st resp.length)

/-- A mailbox row: START is ignored while BUSY is 1. -/
def State.mailbox (s : State) (op : Nat) (m : MbIn) (body : State → List Byte → MbEnd) : State :=
  if !s.mbLive || s.sec.busy then s else s.mbPerform op m body

/-- The life-cycle states that permit an operation, else STATUS 3 (R427). -/
def State.lifeIn (s : State) (l : List Nat) : Bool := l.contains s.lifecycle

/-- A partition binding: the partition is ACTIVE (R452). -/
def State.mbActive (s : State) (p : Nat) : Bool := decide (p < 63) && decide ((s.part p).state = .active)

/-- A KeyID is BOUND to a partition. -/
def State.mbBound (s : State) (p kid : Nat) : Bool :=
  decide ((s.kid kid).state = .bound) && (s.kid kid).owner.toNat == p

/-! ### Evidence (R439, R440) -/

/-- The head of a CBOR item (RFC 8949): its major type and argument. -/
def cborHead (major n : Nat) : List Byte :=
  if n < 24 then [BitVec.ofNat 8 (major * 32 + n)]
  else if n < 256 then [BitVec.ofNat 8 (major * 32 + 24), BitVec.ofNat 8 n]
  else if n < 65536 then BitVec.ofNat 8 (major * 32 + 25) :: beBytes 2 n
  else if n < 2 ^ 32 then BitVec.ofNat 8 (major * 32 + 26) :: beBytes 4 n
  else BitVec.ofNat 8 (major * 32 + 27) :: beBytes 8 n

def cborUint (n : Nat) : List Byte := cborHead 0 n
def cborBytes (l : List Byte) : List Byte := cborHead 2 l.length ++ l
def cborText (l : List Byte) : List Byte := cborHead 3 l.length ++ l
def cborArr (l : List (List Byte)) : List Byte := cborHead 4 l.length ++ l.flatten
def cborBool (b : Bool) : List Byte := [if b then 0xF5 else 0xF4]
def cborNull : List Byte := [0xF6]

/-- The name of a partition state. -/
def PartState.name : PartState → List Byte
  | .free => ascii [0x46, 0x52, 0x45, 0x45]
  | .binding => ascii [0x42, 0x49, 0x4E, 0x44, 0x49, 0x4E, 0x47]
  | .active => ascii [0x41, 0x43, 0x54, 0x49, 0x56, 0x45]
  | .draining => ascii [0x44, 0x52, 0x41, 0x49, 0x4E, 0x49, 0x4E, 0x47]
  | .resetting => ascii [0x52, 0x45, 0x53, 0x45, 0x54, 0x54, 0x49, 0x4E, 0x47]
  | .halted => ascii [0x48, 0x41, 0x4C, 0x54, 0x45, 0x44]

/-- A partition's entry of claim 14. -/
def State.claimPart (s : State) (p : Nat) : List Byte :=
  let x := s.part p
  let keyed := (s.kids.filter fun e => e.2.owner.toNat == p && decide (e.2.state = .keyed)).length
  let slice := match x.slice with
    | some k => cborUint k.toNat
    | none => cborNull
  let head := [cborUint p, cborText x.state.name, slice]
  match x.state with
  | .active | .binding | .draining =>
    let job := match x.job with
      | some d => cborBytes (leBytes 32 d.toNat)
      | none => cborNull
    cborArr (head ++ [job, cborUint keyed])
  | _ => cborArr head

/-- The measurement M_i of the running image (R431). -/
def State.measure (s : State) (i : Nat) : List Byte :=
  if i = 0 then shakeBytes 64 (ascii [0x49, 0x4C, 0x39, 0x20, 0x62, 0x6F, 0x6F, 0x74] ++ Config.romId)
  else if i = 4 then leBytes 64 s.sec.m4.toNat
  else leBytes 64 (Config.meas s.sec.m4 i).toNat

/-- PRF_HEALTH.OFFLINE. -/
def State.offlineMask (s : State) : Nat := (List.range 4).foldl (fun m q => if (s.unit q).online then m else m + 2 ^ q) 0

/-- The silicon stepping (log entry 3). -/
def stepping : Nat := 0x11

/-- The claims of the evidence of a scope: the whole device, or one partition. -/
def State.claims (s : State) (scope : Option Nat) (nonce : List Byte) : List Byte :=
  let aliasPub := Config.ed448Public s.aliasSeed
  let promo := Config.ed448Public s.promoSeed
  let staged := s.mgt.stagedB.map s.mgt.slot
  let claim := fun (k : Nat) (v : List Byte) => cborUint k ++ v
  let parts := match scope with
    | none => List.range 64
    | some p => [p]
  let before := [claim 1 (cborBytes nonce), claim 2 (cborUint Config.serial.toNat), claim 3 (cborUint stepping),
    claim 4 (cborUint s.lifecycle), claim 5 (cborBool s.confidential),
    claim 6 (cborArr ((List.range 5).map fun i => cborBytes (s.measure i))),
    claim 7 (cborArr [cborUint (s.mgt.slot s.mgt.running).svn.toNat, cborUint s.sec.floor.toNat])]
  let pend := match staged with
    | some f => [claim 8 (cborArr [cborBytes (leBytes 64 f.meas.toNat), cborUint f.svn.toNat])]
    | none => []
  let after := [claim 9 (cborArr [cborBytes aliasPub, cborBytes (Config.ed448Sign s.identSeed aliasPub)]),
    claim 10 (cborArr [cborBytes promo, cborBytes (Config.ed448Sign s.identSeed promo)]),
    claim 11 (cborBytes (Config.x448Public s.releaseKey)), claim 12 (cborBytes (leBytes 8 s.bootId)),
    claim 13 (cborArr [cborBool s.mgt.replace, cborUint s.offlineMask]),
    claim 14 (cborArr (parts.map s.claimPart))]
  let all := before ++ pend ++ after
  cborHead 5 all.length ++ all.flatten

/-- A COSE_Sign1 structure (RFC 9052) over a payload: the protected header names EdDSA, −8, and the Ed448 key of a seed signs the
Sig_structure (log entry 65). -/
def coseSign1 (payload seed : List Byte) : List Byte :=
  let header := cborBytes [0xA1, 0x01, 0x27]
  let signed := cborArr [cborText (ascii [0x53, 0x69, 0x67, 0x6E, 0x61, 0x74, 0x75, 0x72, 0x65, 0x31]), header, cborBytes [], cborBytes payload]
  cborArr [header, [0xA0], cborBytes payload, cborBytes (Config.ed448Sign seed signed)]

/-- GET_EVIDENCE as an operation. -/
def evidenceOp (s : State) (r : List Byte) : MbEnd :=
  let n := leAt r 2 1
  if r.length < 8 + n ∨ n < 32 ∨ 64 < n ∨ 1 < leAt r 0 1 ∨ (leAt r 0 1 = 1 ∧ 63 < leAt r 1 1) then .refuse 1
  else if !s.lifeIn [1, 2, 3] ∨ (s.lifecycle = 1 ∧ s.sec.dus.isNone) then .refuse 3
  else
    .done 0 (coseSign1 (s.claims (if leAt r 0 1 = 0 then none else some (leAt r 1 1)) (slice r 8 n)) s.aliasSeed) s

/-- GET_EVIDENCE. One that arrives during BOOT waits with BUSY 1 and completes when it is presented after BOOT (R440; log entry
46). -/
def execGetEvidence (m : MbIn) (s : State) : Host.Outcome State Fault Refusal :=
  if s.pwr.state = .boot then .next { s with sec := { s.sec with busy := true } }
  else if !s.mbLive then .next s
  else .next (s.mbPerform 1 m evidenceOp)

/-! ### Keys -/

/-- KEY_GEN (R434 to R436, R451). -/
def keyGenOp (s : State) (r : List Byte) : MbEnd :=
  let p := leAt r 0 1
  let kid := leAt r 2 2
  let mask := leAt r 4 4
  if r.length < 8 ∨ 62 < p ∨ !maskOk mask ∨ bits mask 17 16 = 1 then .refuse 1
  else if !s.lifeIn [1, 2, 3, 4] then .refuse 3
  else if !s.mbActive p ∨ !s.mbBound p kid then .refuse 4
  else
    let (d, t) := s.draw
    let (b, t) := t.makeBlob 1 p kid mask [] (leBytes 32 d.toNat)
    .done 0 b t

/-- KEY_GEN. -/
def execKeyGen (m : MbIn) (s : State) : Host.Outcome State Fault Refusal := .next (s.mailbox 2 m keyGenOp)

/-- KEY_RELEASE (R442). -/
def keyReleaseOp (s : State) (r : List Byte) : MbEnd :=
  let p := leAt r 0 1
  let kid := leAt r 2 2
  if r.length < 148 ∨ 62 < p then .refuse 1
  else if !s.lifeIn [3] then .refuse 3
  else if !s.mbActive p ∨ !s.mbBound p kid then .refuse 4
  else
    let info := ascii [0x49, 0x4C, 0x39, 0x20, 0x6B, 0x65, 0x79] ++ leBytes 8 s.bootId ++ leBytes 8 Config.serial.toNat
      ++ [BitVec.ofNat 8 p] ++ leBytes 2 kid
    match Config.hpkeOpen s.releaseKey (slice r 8 56) info (slice r 64 84) with
    | none => .refuse 2
    | some x =>
      let mask := leAt x 32 4
      if x.length ≠ 68 ∨ !maskOk mask ∨ (bits mask 17 16 = 0 ∧ !zeros x 36 32) then .refuse 1
      else
        let (b, t) := s.makeBlob 1 p kid mask (slice x 36 28) (slice x 0 32)
        .done 0 b t

/-- KEY_RELEASE. -/
def execKeyRelease (m : MbIn) (s : State) : Host.Outcome State Fault Refusal := .next (s.mailbox 3 m keyReleaseOp)

/-- The job key (R433). -/
def jobKey (dig : BitVec 256) (shares : List (BitVec 256)) (rec : List Byte) : List Byte :=
  shakeBytes 32 (ascii [0x49, 0x4C, 0x39, 0x20, 0x6A, 0x6F, 0x62] ++ leBytes 32 dig.toNat
    ++ shares.flatMap (fun x => leBytes 32 x.toNat) ++ slice rec 64 64)

/-- SHARE_SUBMIT (R442 to R444). -/
def shareSubmitOp (s : State) (r : List Byte) : MbEnd :=
  let p := leAt r 0 1
  let ix := leAt r 1 1
  let rec' := r.drop 128
  let dig := jobDigest rec'
  let x := s.part p
  let sliceOk := match jobSlice rec' with
    | none => true
    | some n => (x.slice.map (·.toNat)) == some n
  if 62 < p ∨ !jobRecOk rec' ∨ jobN rec' ≤ ix then .refuse 1
  else if !s.lifeIn [3] then .refuse 3
  else if !s.mbActive p ∨ x.job.isSome ∨ !sliceOk then .refuse 4
  else
    let info := ascii [0x49, 0x4C, 0x39, 0x20, 0x73, 0x68, 0x61, 0x72, 0x65] ++ leBytes 32 dig.toNat ++ [BitVec.ofNat 8 ix]
      ++ leBytes 8 Config.serial.toNat ++ leBytes 8 s.bootId
    match Config.hpkeOpen s.releaseKey (slice r 8 56) info (slice r 64 48) with
    | none => .refuse 2
    | some sh =>
      let old := s.sec.pend.find? fun e => e.digest == dig
      if sh.length ≠ 32 then .refuse 1
      else if old.isNone ∧ 16 ≤ s.sec.pend.length then .refuse 6
      else
        let shares := tput none ((old.map (·.shares)).getD []) ix (some (BitVec.ofNat 256 (ofLe sh)))
        let rest := s.sec.pend.filter fun e => e.digest != dig
        let count := leBytes 4 shares.length ++ leBytes 4 (jobN rec')
        if shares.length < jobN rec' then
          .done 9 count { s with sec := { s.sec with pend := rest ++ [{ digest := dig, record := rec', shares := shares }] } }
        else
          let key := jobKey dig (shares.filterMap (·.2)) rec'
          let (b, t) := s.makeBlob 2 p 0 0 (leBytes 28 dig.toNat) key
          .done 0 (count ++ b) { t with sec := { t.sec with
            pend := rest, jobRecs := (dig, rec') :: t.sec.jobRecs.filter fun e => e.1 != dig } }

/-- SHARE_SUBMIT. -/
def execShareSubmit (m : MbIn) (s : State) : Host.Outcome State Fault Refusal := .next (s.mailbox 4 m shareSubmitOp)

/-- The distinct owners of a job record whose signature over a message is among the entries. -/
def signers (rec msg : List Byte) (l : List Byte) (m : Nat) : List Nat :=
  ((List.range m).filterMap fun i =>
    let ix := leAt l (128 * i) 1
    if ix < jobN rec ∧ Config.ed448Verify (slice rec (128 + 64 * ix) 57) msg (slice l (128 * i + 8) 114) then some ix
    else none).eraseDups

/-- RELEASE_EXPORT (R446, R447). -/
def releaseExportOp (s : State) (r : List Byte) : MbEnd :=
  let p := leAt r 0 1
  let m := leAt r 1 1
  let rel := slice r 8 160
  let promo := slice r 168 256
  if r.length < 424 + 128 * m ∨ 62 < p ∨ leAt rel 0 4 ≠ 0x52394C49 ∨ leAt rel 4 2 ≠ 1 then .refuse 1
  else if !s.lifeIn [3] then .refuse 3
  else
    match tget none s.sec.jobs p with
    | none => .refuse 3
    | some j =>
      if leAt j.record 8 8 ≠ leAt rel 8 8 then .refuse 3
      else if !Config.ed448Verify (Config.ed448Public s.promoSeed) (slice promo 0 128) (slice promo 128 114)
          ∨ leAt promo 6 1 ≠ 1 ∨ leAt promo 96 8 ≠ leAt rel 24 8 ∨ leAt promo 8 4 ≠ leAt rel 16 4
          ∨ slice promo 32 64 ≠ slice rel 32 64 then .refuse 2
      else if (signers j.record rel (r.drop 424) m).length < jobK j.record then .refuse 5
      else
        let (d, t) := s.draw
        let key := ckptKey j (leAt rel 24 8) (leAt rel 16 4)
        let info := ascii [0x49, 0x4C, 0x39, 0x20, 0x72, 0x65, 0x6C, 0x65, 0x61, 0x73, 0x65] ++ shakeBytes 64 rel
        .done 0 (slice (Config.hpkeSeal d (slice rel 96 56) info (leBytes 32 key.toNat)) 0 104) t

/-- RELEASE_EXPORT. -/
def execReleaseExport (m : MbIn) (s : State) : Host.Outcome State Fault Refusal := .next (s.mailbox 5 m releaseExportOp)

/-- JOB_DROP: a pending job's shares are dropped (R444). -/
def jobDropOp (s : State) (r : List Byte) : MbEnd :=
  let dig := BitVec.ofNat 256 (leAt r 0 32)
  if r.length < 32 then .refuse 1
  else if !s.sec.pend.any fun e => e.digest == dig then .refuse 3
  else .done 0 [] { s with sec := { s.sec with pend := s.sec.pend.filter fun e => e.digest != dig } }

/-- JOB_DROP. -/
def execJobDrop (m : MbIn) (s : State) : Host.Outcome State Fault Refusal := .next (s.mailbox 7 m jobDropOp)

/-- SEC_MB_RESERVED_OPCODE: a reserved OPCODE completes with STATUS 1. -/
def execSecMbReservedOpcode (op : Byte) (m : MbIn) (s : State) : Host.Outcome State Fault Refusal :=
  if (Instr.secMbReservedOpcode op m).wellFormed then .next (s.mailbox op.toNat m fun _ _ => .refuse 1)
  else .refused .otherRow

/-! ## Life cycle (R426 to R429) -/

/-- The OTP word of a life-cycle code. -/
def lifeWord (code : Nat) : BitVec 16 :=
  match code with
  | 0 => 0x0000
  | 1 => 0x000F
  | 2 => 0x00FF
  | 3 => 0x0FFF
  | 4 => 0x3FFF
  | _ => 0xFFFF

/-- A life-cycle token for a target verifies. -/
def tokenOk (t : List Byte) (target : Nat) : Bool :=
  leAt t 0 4 == 0x4C394C49 && leAt t 4 1 == target && leAt t 8 8 == Config.serial.toNat
    && Config.ed448Verify Config.lifeCycleKey (slice t 0 16) (slice t 16 114)

/-- Burn a life-cycle word: fuses only change from 0 to 1. -/
def State.burnLife (s : State) (code : Nat) : State :=
  { s with sec := { s.sec with lc := s.sec.lc.map (· ||| lifeWord code) } }

/-- What a transition of R428 requires: none where it is not listed; a token; something of the device's state. -/
def State.lifeMove (s : State) (target : Nat) : Option (Bool × Bool) :=
  match s.lifecycle, target with
  | 1, 2 => some (true, s.sec.dus.isSome)
  | 2, 3 => some (false, s.parts.all fun e => decide (62 < e.1) || decide (e.2.state = .free))
  | 2, 4 => some (true, true)
  | 3, 4 => some (true, true)
  | 1, 5 => some (false, true)
  | 4, 5 => some (false, true)
  | 2, 5 => some (true, true)
  | 3, 5 => some (true, true)
  | _, _ => none

/-- LC_ADVANCE (R428, R429): for RETURN every key row is burned to all ones and the journal store is erased first. -/
def lcAdvanceOp (s : State) (r : List Byte) : MbEnd :=
  let target := leAt r 0 1
  if r.length < 1 ∨ 5 < target then .refuse 1
  else
    match s.lifeMove target with
    | none => .refuse 3
    | some (token, fit) =>
      if token ∧ r.length < 138 then .refuse 1
      else if !fit then .refuse 3
      else if token ∧ !tokenOk (slice r 8 130) target then .refuse 2
      else if target = 4 then
        .done 0 [] { s with sec := { s.sec with dus := some (BitVec.allOnes 256), cloaked := true } }.returnEntry
      else .done 0 [] (s.burnLife target)

/-- LC_ADVANCE: once the word is burned, the device performs a warm device reset. -/
def execLcAdvance (m : MbIn) (s : State) : Host.Outcome State Fault Refusal :=
  let t := s.mailbox 6 m lcAdvanceOp
  if t.sec.lc = s.sec.lc then .next t else .next (t.warm .lcAdvance)

/-- SB_LC_ADVANCE: BLANK to MANUFACTURE over the sideband (R428, R475). -/
def State.sbLife (s : State) (token : BitVec 1040) : Option State :=
  if s.lifecycle = 0 ∧ tokenOk (leBytes 130 token.toNat) 1 then some (s.burnLife 1) else none

/-- JTAG_ACCESS: the provisioning station writes DUS in MANUFACTURE; in every other state JTAG reaches no key store (R425,
R508). -/
def execJtagAccess (j : JtagOp) (s : State) : Host.Outcome State Fault Refusal :=
  match j with
  | .writeDus v => if s.lifecycle = 1 then .next { s with sec := { s.sec with dus := some v } } else .next s
  | .other => .next s

end Sys2Proof.Machine
end

