-- ==== Sys2Proof/Machine/Power.lean ====
section
/-!
DEFINITION. Power, clocks and resets (chapters 19 and 21): PWR_OK, the supply monitor and BRACED, the thermal and power-cap
governors, thermal trips, SLUMBER, reset triggers, reference clocks and the end of BOOT.
-/

namespace Sys2Proof.Machine

/-- PWR_CTRL. -/
def State.pwrCtrl (s : State) : Nat := s.reg 0 .pwr 0 0x10 0x140000

/-! ## PWR_OK (R468, R469, R502, R505) -/

/-- PWR_OK_RISE: a power-on reset, which lasts until REFCLK_AON is present (R504). SB_MODE is sampled. -/
def execPwrOkRise (sbMode : Bool) (s : State) : Host.Outcome State Fault Refusal :=
  if s.pwr.pwrOk then .next s
  else
    let t := { s with pwr := { s.pwr with pwrOk := true, sbSmbus := sbMode } }
    if t.pwr.refAon then .next (t.powerOn .pwrOk)
    else
      let t := t.cold .pwrOk
      .next { t with pwr := { t.pwr with offHold := true } }

/-- PWR_OK_FALL: no stamped entry leaves, dispatch stops, HALT_N is driven low, and a HOURS record is queued for the commits of
the hold (R469, R482). -/
def execPwrOkFall (s : State) : Host.Outcome State Fault Refusal :=
  if !s.pwr.pwrOk then .next s
  else
    .next ({ s with pwr := { s.pwr with pwrOk := false, offHold := true, haltN := true } }.journal .hours 0
      (leBytes 8 s.mgt.hours))

/-! ## The end of BOOT (R431, R455, R489) -/

/-- The ROM runs images in this life-cycle state (R427). -/
def State.bootsImages (s : State) : Bool := 1 ≤ s.lifecycle && s.lifecycle ≤ 4

/-- A slot's bundle may run: it verifies and its SVN is at or above the floor where the state asks for that (R427). -/
def State.slotOk (s : State) (b : Bool) : Bool :=
  let x := s.mgt.slot b
  x.valid && (!s.confidential || decide (s.sec.floor.toNat ≤ x.svn.toNat))

/-- BOOT runs: nothing holds it, it has not stopped, and images may run. -/
def State.booting (s : State) : Bool :=
  decide (s.pwr.state = .boot) && !s.pwr.bootFail && !s.pwr.held && !s.pwr.offHold && s.bootsImages
    && decide (s.mgt.store ≠ 2)

/-- BOOT_DONE. -/
def execBootDone (s : State) : Host.Outcome State Fault Refusal :=
  if s.booting && s.slotOk s.mgt.running then .next s.bootEnd.settle else .next s

/-- A trial BOOT has failed: with an image to fall back to, a further warm device reset runs it (R489); else the device stops
with BOOT_FAIL and opens recovery staging (R491). -/
def State.trialFail (s : State) : State :=
  let m := s.mgt
  if s.slotOk m.activeB && decide (m.tryB ≠ some m.activeB) then s.warm .sideband
  else
    { s with mgt := { m with tryB := none, tryUsed := false, stagedB := none, recovery := true }
             pwr := { s.pwr with bootFail := true } }.journalImage

/-- BOOT_IMAGE_FAIL: the running slot's image does not verify. The failure is journaled (R431). -/
def execBootImageFail (s : State) : Host.Outcome State Fault Refusal :=
  if !s.booting then .next s
  else
    let m := s.mgt
    let b := m.running
    let t := { s with mgt := m.setSlot b { m.slot b with valid := false } }.event evBoot 0 (b2n b)
    if m.tryUsed then .next t.trialFail
    else
      .next { t with pwr := { t.pwr with bootFail := true }
                     mgt := { t.mgt with recovery := !t.slotOk (!b) } }

/-- ACTIVATION_TIMEOUT: a trial BOOT that has not ended within 600 ms. -/
def execActivationTimeout (s : State) : Host.Outcome State Fault Refusal :=
  if decide (s.pwr.state = .boot) && s.mgt.tryUsed && !s.pwr.bootFail && !s.pwr.offHold then .next s.trialFail else .next s

/-! ## The supply monitor (R459 to R463) -/

/-- UV_WARN of each monitored rail that has one, in mV. -/
def uvWarnMv (rail : Nat) : Option Nat := [660, 740, 690, 990, 740][rail]?

/-- A rail's sense voltage. -/
def State.sense (s : State) (rail mv : Nat) (below : Bool → Bool) : State :=
  match s.pwr.rails[rail]? with
  | none => s
  | some (_, low, b) => { s with pwr := { s.pwr with rails := s.pwr.rails.set rail (mv, min low mv, below b) } }

/-- Some rail is below UV_WARN. -/
def Pwr.low (x : Pwr) : Bool := x.rails.any (·.2.2)

/-- UV_WARN: in SERVICE and EVACUATE the device enters BRACED; elsewhere the warning is counted and journaled, and in BOOT it
holds BOOT's progress. -/
def execUvWarn (rail : Rail) (mv : BitVec 16) (s : State) : Host.Outcome State Fault Refusal :=
  let k := rail.toNat
  match uvWarnMv k with
  | none => .fault .noSuchRail
  | some warn =>
    if warn ≤ mv.toNat then .next (s.sense k mv.toNat id)
    else
      let was := ((s.pwr.rails[k]?).map (·.2.2)).getD false
      let t := s.sense k mv.toNat fun _ => true
      match s.pwr.state with
      | .service | .evacuate =>
        .next (({ t with pwr := { t.pwr with state := .braced } }.errBit .pwr 0 0 63).raise .pwr 0 0 63)
      | .braced => .next t
      | .boot | .halted | .slumber =>
        let t := if was then t else (t.event evUv k mv.toNat).bump 0 .pwr 0 0x50 1
        .next (if s.pwr.state = .boot then { t with pwr := { t.pwr with held := true } } else t)

/-- Leave BRACED (R462): the episode is counted and journaled, and what waited goes on. -/
def State.unbrace (s : State) : State :=
  let s := { s with pwr := { s.pwr with state := if s.mgt.replace then .evacuate else .service } }
  ((((s.bump 0 .pwr 0 0x50 1).raise .pwr 0 1 63).event evBrace 0 0).coloResume).settle

/-- RAIL_RECOVERED: the rail stands 15 mV above UV_WARN. Once every rail has recovered the device leaves BRACED, and BOOT goes
on. -/
def execRailRecovered (rail : Rail) (mv : BitVec 16) (s : State) : Host.Outcome State Fault Refusal :=
  let k := rail.toNat
  match uvWarnMv k with
  | none => .fault .noSuchRail
  | some warn =>
    if mv.toNat < warn + 15 then .next (s.sense k mv.toNat id)
    else
      let t := s.sense k mv.toNat fun _ => false
      if t.pwr.low then .next t
      else
        match s.pwr.state with
        | .braced => .next t.unbrace
        | _ => .next { t with pwr := { t.pwr with held := false } }

/-- UV_RESET: a power-on reset at once. A rail that has a UV_WARN is below it as well and holds BOOT until it has recovered
(R502; log entry 47). -/
def execUvReset (rail : Rail) (s : State) : Host.Outcome State Fault Refusal :=
  let k := rail.toNat
  if 5 < k then .fault .noSuchRail
  else
    let t := match s.pwr.rails[k]? with
      | some (mv, low, _) => { s with pwr := { s.pwr with rails := s.pwr.rails.set k (mv, low, decide (k < 5)) } }
      | none => s
    if s.pwr.pwrOk ∧ s.pwr.refAon then .next (t.powerOn (.uv rail))
    else
      let t := t.cold (.uv rail)
      .next { t with pwr := { t.pwr with offHold := true, haltN := !t.pwr.pwrOk } }

/-- BRACE_MAX_EXPIRY: a warm device reset, which BRACE_TIMEOUT shows (log entry 49). -/
def execBraceMaxExpiry (s : State) : Host.Outcome State Fault Refusal :=
  if s.pwr.state = .braced ∧ !s.pwr.offHold then .next ((s.warm .braceMax).errBit .pwr 0 1 63) else .next s

/-! ## The core clock, temperatures and power (R457, R458, R464) -/

/-- PWR_CAP.WATTS. -/
def State.capWatts (s : State) : Nat := s.reg 0 .pwr 0 0x60 0

/-- PWR_THERM.THROT. -/
def State.throt (s : State) : Nat := s.reg 0 .pwr 0 0x64 0x5F

/-- PWR_STAT.N (R457). -/
def State.coreN (s : State) : Nat :=
  let n := min s.pwr.nTherm (if s.capWatts = 0 then 16 else s.pwr.nCap)
  if s.pwr.state = .braced then min n 8 else n

/-- A sensor's current reading. -/
def State.temp (s : State) (k : Nat) : Nat := (tget (0, 0, 0) s.pwr.temps k).1

/-- Take readings of sensors, keeping the highest of each. -/
def State.read (s : State) (l : List (BitVec 6 × BitVec 8)) : State :=
  { s with pwr := { s.pwr with temps := l.foldl (fun t e =>
      let (_, a, b) := tget (0, 0, 0) t e.1.toNat
      let v := e.2.toNat
      tput (0, 0, 0) t e.1.toNat (v, max a v, max b v)) s.pwr.temps } }

/-- Set the thermal governor's N: THERM_N follows it, and THROTTLED where its level rises (R464, R473). -/
def State.setTherm (s : State) (n : Nat) : State :=
  let tripped := decide (s.pwr.state = .halted) && !s.pwr.sealHalt
  let t := { s with pwr := { s.pwr with nTherm := n, thermN := decide (n < 16) || tripped } }
  if s.pwr.nTherm = 16 ∧ n < 16 then t.raise .pwr 0 2 63 else t

/-- THERMAL_GOVERNOR_TICK. -/
def execThermalGovernorTick (readings : List (BitVec 6 × BitVec 8)) (s : State) : Host.Outcome State Fault Refusal :=
  let t := s.read readings
  let js := (List.range 32).map t.temp
  let n := s.pwr.nTherm
  if js.any fun x => decide (t.throt < x) then .next (t.setTherm (max 8 (n - 1)))
  else if js.all fun x => decide (x + 3 < t.throt) then .next (t.setTherm (min 16 (n + 1)))
  else .next t

/-- POWER_CAP_TICK: the mean package power over the last 10 ms. Without a cap the governor's N is 16 (log entry 51). -/
def execPowerCapTick (watts : BitVec 11) (s : State) : Host.Outcome State Fault Refusal :=
  let cap := s.capWatts
  let w := watts.toNat
  let n := s.pwr.nCap
  let n := if cap = 0 then 16 else if cap < w then max 8 (n - 1) else if w + 40 < cap then min 16 (n + 1) else n
  .next { s with pwr := { s.pwr with watts := watts, nCap := n } }

/-- DRAM_T_HOT: the stack's refresh rate doubles or returns. -/
def execDramTHot (stack : BitVec 5) (hot : Bool) (s : State) : Host.Outcome State Fault Refusal :=
  let bit := 1#32 <<< stack.toNat
  .next { s with pwr := { s.pwr with dramHot := if hot then s.pwr.dramHot ||| bit else s.pwr.dramHot &&& ~~~ bit } }

/-- A sensor reads above its T_THROT or T_HOT (R465). -/
def State.sensorHot (s : State) : Bool :=
  (List.range 32).any (fun k => decide (s.throt < s.temp k)) || s.pwr.dramHot != 0
    || (List.range 32).any fun k => decide (85 < s.temp (32 + k))

/-- THERMAL_TRIP (R465): at 110 °C of a junction sensor or 105 °C of a DRAM sensor (log entry 50). -/
def execThermalTrip (sensor : BitVec 6) (reading : BitVec 8) (s : State) : Host.Outcome State Fault Refusal :=
  let limit := if sensor.toNat < 32 then 110 else 105
  let t := s.read [(sensor, reading)]
  if reading.toNat < limit then .next t
  else if s.pwr.state = .halted then .next { t with pwr := { t.pwr with thermN := true } }
  else
    let t := { t with pwr := { t.pwr with state := .halted, thermN := true, haltN := true, slumWait := false
                                          trip := some (sensor, reading) } }
    let t := (t.portsDown 13).stopAndClear
    let t := (t.errBit .pwr 0 2 63).raise .pwr 0 3 63
    .next (t.event evHalt 0 (sensor.toNat * 256 + reading.toNat))

/-! ## SLUMBER (R466, R467) -/

/-- Store PWR_CTRL.SLUMBER_REQ. -/
def State.setSlumReq (s : State) (on : Bool) : State :=
  s.setReg 0 .pwr 0 0x10 0x140000 (s.pwrCtrl - s.pwrCtrl % 2 + b2n on)

/-- The driver writes 1 to SLUMBER_REQ: the request is refused outside SERVICE and while a partition changes. -/
def State.slumberAsk (s : State) : State :=
  let s := s.setSlumReq true
  let moving := s.parts.any fun e =>
    decide (e.2.state = .binding) || decide (e.2.state = .draining) || decide (e.2.state = .resetting)
  if s.pwr.slumWait then s
  else
    let err := if s.pwr.state ≠ .service then 1 else if moving then 2 else 0
    { s with pwr := { s.pwr with slumErr := BitVec.ofNat 2 err, slumWait := decide (err = 0) } }

/-- SLUMBER_REQ. -/
def execSlumberReq (fn : BitVec 6) (s : State) : Host.Outcome State Fault Refusal :=
  .next (s.driverWrite fn.toNat .pwr 0 0x10 true fun t => t.slumberAsk.settle)

/-- Point 4 of R466: the Case and the counter caches are written back and emptied. -/
def flushAll : M Unit := do
  let lids ← look fun s => s.cases.map (·.1)
  lids.forM (writeBack Env.quiet)
  upd fun s => { s with cases := [] }
  let chs ← look fun s => (s.ctrs.map fun e => e.1 / 2 ^ 20 / 8).eraseDups
  chs.forM (flushChannel Env.quiet)
  upd fun s => { s with ctrs := s.ctrs.filter fun e => e.1 / 2 ^ 20 % 8 == 4 }

/-- A KeyID in SLUMBER: its key cache entry is zeroised, and a KEYED one is BOUND (R268, R471). -/
def KeyId.slumber (k : KeyId) : KeyId :=
  let k := { k with cached := false, seed := 0, mask := 0, jobDig := 0 }
  if k.state = .keyed then { k with state := .bound, blob := 0 } else k

/-- Points 5 to 7 of R466. -/
def State.slumberDown (s : State) : State :=
  let s := s.portsDown 13
  let s := { s with kids := s.kids.map fun (e : Nat × KeyId) => (e.1, e.2.slumber) }
  let s := s.parts.foldl (fun (t : State) e => t.removeJob e.1) s
  let s := { s with clusters := (List.range 128).map fun c =>
    (c, { (s.cluster c).flash with pwr := .fallow, clear := false, worked := false }) }
  { s with pwr := { s.pwr with state := .slumber, slumWait := false } }.raise .pwr 0 4 63

/-- SLUMBER_ENTER: once every dispatched command has completed and every gate buffer is empty. A device that has left SERVICE
for EVACUATE refuses the request (log entry 48). -/
def execSlumberEnter (s : State) : Host.Outcome State Fault Refusal :=
  if !s.pwr.slumWait then .next s
  else if s.pwr.state = .evacuate then
    .next { s with pwr := { s.pwr with slumWait := false, slumErr := 1 } }.settle
  else if s.pwr.state ≠ .service ∨ s.pwr.offHold ∨ s.inflight.any (·.started) ∨ !s.egress.isEmpty then .next s
  else
    match flushAll s with
    | .ok _ t => .next t.slumberDown
    | .error (.halt h) t => .next (t.sealHaltNow h)
    | .error _ t => .next t.slumberDown

/-- A cluster bound to a tenant partition wakes with its flash-clear; the shares of the partition's placed contexts lie on it
again (R381, R467). -/
def State.wakeCluster (s : State) (c : Nat) : State :=
  let p := (s.cluster c).owner.toNat
  if p = 63 then s
  else
    let s := s.flashDone c
    let s := s.setCluster c { s.cluster c with pwr := .active }
    let mine := s.ctxs.filterMap fun e =>
      if e.2.bound && e.2.part.toNat == p then e.2.placed.map fun x => (e.1, x) else none
    mine.foldl (fun (t : State) e => t.setCluster c ((t.cluster c).setSlot e.2.slot (some (newSlot e.1 e.2)))) s

/-- The wake sequence (R467). -/
def State.wakeUp (s : State) : State :=
  if s.pwr.state ≠ .slumber then s
  else
    let s := (List.range 128).foldl (fun (t : State) c => t.wakeCluster c) s
    let s := s.parts.foldl (fun (t : State) e =>
      if e.2.state = .active then t.stampSizes e.1 else t) s
    let s := { s with pwr := { s.pwr with state := .service } }
    ((List.range 8).foldl (fun (t : State) p => t.train p) s).settle

/-- The driver writes 0 to SLUMBER_REQ: a wake, or the end of an entry that has not completed (log entry 48). -/
def State.slumberDrop (s : State) : State :=
  let s := s.setSlumReq false
  if s.pwr.slumWait then { s with pwr := { s.pwr with slumWait := false } }.settle else s.wakeUp

/-- SLUMBER_REQ_CLEAR. -/
def execSlumberReqClear (fn : BitVec 6) (s : State) : Host.Outcome State Fault Refusal :=
  .next (s.driverWrite fn.toNat .pwr 0 0x10 true State.slumberDrop)

/-! ## Resets and reference clocks (R470, R504) -/

/-- A 1 is written to PWR_RESET.WARM: ignored while a sensor is hot (R465). -/
def State.warmAsk (s : State) : State := if s.sensorHot || s.pwr.offHold then s else s.warm .warm

/-- WARM: a write of PWR_RESET.WARM through a function. -/
def execWarm (fn : BitVec 6) (s : State) : Host.Outcome State Fault Refusal :=
  .next (s.driverWrite fn.toNat .pwr 0 0x40 false State.warmAsk)

/-- REFCLK_LOSS. -/
def execRefclkLoss (r : RefClk) (s : State) : Host.Outcome State Fault Refusal :=
  match r with
  | .aon => .next { s with pwr := { s.pwr with refAon := false } }
  | .fab =>
    let s := { s with pwr := { s.pwr with refFab := false } }
    .next (((List.range 8).foldl (fun (t : State) p => t.portDown p 2) s).settle)
  | .cxl => .next { s with pwr := { s.pwr with refCxl := false } }.cxlDown

/-- REFCLK_RETURN: a lost REFCLK_AON brings a power-on reset, as does one that was missing as PWR_OK rose; REFCLK_FAB lets the
ports train, and a disabled port shows its own REASON again. -/
def execRefclkReturn (r : RefClk) (s : State) : Host.Outcome State Fault Refusal :=
  match r with
  | .aon =>
    if s.pwr.refAon then .next s
    else
      let t := { s with pwr := { s.pwr with refAon := true } }
      if t.pwr.pwrOk then .next (t.powerOn .pwrOk) else .next t
  | .fab =>
    if s.pwr.refFab then .next s
    else
      let s := { s with pwr := { s.pwr with refFab := true } }
      let one := fun (t : State) p =>
        if t.ctnEnabled p then t.train p else if (t.port p).reason = 2 then t.setPort p { t.port p with reason := 1 } else t
      .next ((List.range 8).foldl one s)
  | .cxl => .next { s with pwr := { s.pwr with refCxl := true } }

end Sys2Proof.Machine
end

