-- ==== Sys2Proof/Machine/Management.lean ====
section
/-!
DEFINITION. Management (chapter 20): the sideband, the journal store with its compaction and retirement of sectors, firmware
staging and activation.
-/

namespace Sys2Proof.Machine

/-! ## Journal store (R478 to R486) -/

/-- TYPE of a record (R480). -/
def RecType.code : RecType → Nat
  | .health => 1
  | .spare => 2
  | .era => 3
  | .hours => 4
  | .image => 5
  | .event => 6

/-- Records of this type are superseded by later ones of the same KEY. -/
def RecType.isState : RecType → Bool
  | .spare => false
  | .event => false
  | _ => true

/-- Bytes of a record's payload with its padding. -/
def Rec.padded (r : Rec) : Nat := 16 * ((r.payload.length + 15) / 16)

/-- Bytes that a record takes in its sector (R479). -/
def Rec.size (r : Rec) : Nat := 48 + r.padded

/-- A record without TAG and COMMIT (R475, R479). -/
def Rec.bytes (r : Rec) : List Byte :=
  leBytes 2 r.type.code ++ [BitVec.ofNat 8 r.payload.length, r.key] ++ leBytes 8 r.seq.toNat ++ leBytes 4 r.hours.toNat
    ++ r.payload ++ List.replicate (r.padded - r.payload.length) 0

/-- A sector of the journal store. -/
def Mgt.sector (m : Mgt) (i : Nat) : Sector := tget Sector.reset m.sectors i

/-- Store a sector. -/
def Mgt.setSector (m : Mgt) (i : Nat) (x : Sector) : Mgt := { m with sectors := tput Sector.reset m.sectors i x }

/-- Rotation sectors in ERASED. -/
def Mgt.erased (m : Mgt) : List Nat := m.rotation.filter fun i => decide ((m.sector i).state = .erased)

/-- The rotation sector that is OPEN. -/
def Mgt.openSector (m : Mgt) : Option Nat := m.rotation.find? fun i => decide ((m.sector i).state = .openS)

/-- Where a record of a size goes: the OPEN sector where it fits, else the next ERASED one, once the OPEN one is SEALED. -/
def Mgt.room (m : Mgt) (size : Nat) : Option (Nat × Mgt) :=
  let fresh := fun (m : Mgt) => m.erased.head?.map fun i => (i, m.setSector i { m.sector i with state := .openS })
  match m.openSector with
  | some i =>
    if (m.sector i).used + size ≤ 65536 then some (i, m)
    else fresh (m.setSector i { m.sector i with state := .sealedS })
  | none => fresh m

/-- Commit a record in a sector under the next SEQ (R479, R481). -/
def Mgt.commit (m : Mgt) (i : Nat) (r : Rec) : Mgt :=
  let x := m.sector i
  let r := { r with seq := BitVec.ofNat 64 m.nextSeq.toNat }
  { m.setSector i { x with recs := x.recs ++ [r], used := x.used + r.size
                           first := if x.recs.isEmpty then r.seq else x.first } with nextSeq := m.nextSeq + 1 }

/-- Retire a rotation sector (R486): a spare takes its place, or the store becomes read-only and the pending events are
dropped. -/
def State.retireSector (s : State) (i : Nat) : State :=
  let m := s.mgt
  let t := (s.errBit .mgt 0 1 63).raise .mgt 0 2 63
  match m.spares with
  | n :: rest =>
    State.maintRise s { t with mgt := { m with
      rotation := m.rotation.map (fun j => if j = i then n else j), spares := rest } }
  | [] =>
    let t := t.bump 0 .mgt 0 0x50 (m.queue.filter fun r => decide (r.type = .event)).length
    State.maintRise s ({ t with mgt := { m with store := 1, queue := [] } }.errBit .mgt 0 0 63)

/-- The pending record that is written next: after PWR_OK has fallen, state records and kept records come first (R482). -/
def State.nextRecord (s : State) : Option Rec :=
  if s.pwr.pwrOk then s.mgt.queue.head?
  else (s.mgt.queue.find? fun r => decide (r.type ≠ .event)).orElse fun _ => s.mgt.queue.head?

/-- The always-on domain runs (R456). -/
def State.aonRuns (s : State) : Bool := s.pwr.refAon

/-- JOURNAL_WRITE: the next pending record is programmed, verified and committed. A sector whose program fails is retired, and
the record stays pending. -/
def execJournalWrite (f : FlashIn) (s : State) : Host.Outcome State Fault Refusal :=
  if !s.aonRuns || decide (s.mgt.store ≠ 0) then .next s
  else
    match s.nextRecord with
    | none => .next s
    | some r =>
      match s.mgt.room r.size with
      | none => .next s
      | some (i, m) =>
        if f.ok then .next { s with mgt := { m.commit i r with queue := m.queue.erase r } }
        else
          let m := m.setSector i { m.sector i with state := .sealedS }
          .next ({ s with mgt := m }.retireSector i)

/-- The record is still current: no committed record of its type and key has a higher SEQ. -/
def Mgt.current (m : Mgt) (r : Rec) : Bool :=
  !m.good.any fun x => decide (x.type = r.type) && x.key == r.key && decide (r.seq.toNat < x.seq.toNat)

/-- The SEALED rotation sector with the lowest first SEQ. -/
def Mgt.oldest (m : Mgt) : Option Nat :=
  let l := m.rotation.filter fun i => decide ((m.sector i).state = .sealedS)
  l.foldl (fun (b : Option Nat) i =>
    match b with
    | none => some i
    | some j => if (m.sector i).first.toNat < (m.sector j).first.toNat then some i else b) none

/-- Rewrite records under new SEQ values; none when no sector has room. -/
def Mgt.rewrite (m : Mgt) : List Rec → Option Mgt
  | [] => some m
  | r :: l =>
    match m.room r.size with
    | none => none
    | some (i, n) => (n.commit i r).rewrite l

/-- JOURNAL_COMPACTION: the oldest SEALED sector's current state records and kept records are rewritten, its events dropped and
counted, and the sector erased. One that fails to erase, or has reached 90,000 erases, is retired. -/
def execJournalCompaction (f : FlashIn) (s : State) : Host.Outcome State Fault Refusal :=
  let m := s.mgt
  if !s.aonRuns || decide (m.store ≠ 0) || decide (8 ≤ m.erased.length) then .next s
  else
    match m.oldest with
    | none => .next s
    | some i =>
      let recs := (m.sector i).recs.filter (·.ok)
      let keep := recs.filter fun r => decide (r.type = .spare) || (r.type.isState && m.current r)
      match m.rewrite keep with
      | none => .next s
      | some n =>
        let t := s.bump 0 .mgt 0 0x50 (recs.filter fun r => decide (r.type = .event)).length
        let erases := (m.sector i).erases + 1
        if f.ok then
          let t := { t with mgt := n.setSector i { Sector.reset with erases := erases } }
          .next (if 90000 ≤ erases then t.retireSector i else t)
        else
          .next ({ t with mgt := n.setSector i { n.sector i with state := .stale } }.retireSector i)

/-- HOURS_TICK: the always-on hour count, and the hours since each cluster's last finding, advance; a HOURS record is queued. -/
def execHoursTick (s : State) : Host.Outcome State Fault Refusal :=
  if !s.aonRuns then .next s
  else
    let one := fun (c : Cluster) => if c.hours = 0xFFFF then c else { c with hours := c.hours + 1 }
    let t := { s with mgt := { s.mgt with hours := s.mgt.hours + 1 }, clusters := s.clusters.map fun e => (e.1, one e.2) }
    .next ((State.maintRise s t).journal .hours 0 (leBytes 8 t.mgt.hours))

/-! ## Sideband (R474 to R477) -/

/-- The device answers the sideband: MGT_CTRL.SB_EN. -/
def State.sideband (s : State) : Bool := s.aonRuns && (s.reg 0 .mgt 0 0x10 1).testBit 0

/-- Acknowledge with response bytes. -/
def State.sbAck (s : State) (d : List Byte) : State := s.say (.sideband 0 d)

/-- Answer with a NACK. -/
def State.sbNack (s : State) : State := s.say (.sideband 1 [])

/-- A reading that R448 coarsens: as sampled, so free in confidential mode (log entry 54). -/
def State.coarse (s : State) (v : Nat) : Nat × State :=
  if s.confidential then
    let (x, t) := s.fresh
    (x.toNat % 256, t)
  else (v, s)

/-- Mean package power as R448 shows it: in steps of 8 W in confidential mode. -/
def State.coarseWatts (s : State) : Nat × State :=
  if s.confidential then
    let (x, t) := s.fresh
    (x.toNat % 256 * 8, t)
  else (s.pwr.watts.toNat, s)

/-- GET_STATUS. -/
def execGetStatus (s : State) : Host.Outcome State Fault Refusal :=
  if !s.sideband then .next s
  else
    let (w, t) := s.coarseWatts
    let (j, t) := t.coarse ((List.range 32).foldl (fun m k => max m (s.temp k)) 0)
    .next (t.sbAck (leBytes 2 s.devState ++ leBytes 8 Config.serial.toNat
      ++ [BitVec.ofNat 8 s.maint, BitVec.ofNat 8 s.coreN] ++ leBytes 2 w ++ [BitVec.ofNat 8 j, 0]))

/-- GET_SENSOR: the reading, and the highest since the last GET_SENSOR, which then starts anew from the reading. -/
def execGetSensor (sensor : BitVec 8) (s : State) : Host.Outcome State Fault Refusal :=
  let k := sensor.toNat
  if !s.sideband then .next s
  else if 63 < k then .next s.sbNack
  else
    let (v, a, b) := tget (0, 0, 0) s.pwr.temps k
    let t := { s with pwr := { s.pwr with temps := tput (0, 0, 0) s.pwr.temps k (v, a, v) } }
    let (v, t) := t.coarse v
    let (b, t) := t.coarse b
    .next (t.sbAck [BitVec.ofNat 8 v, BitVec.ofNat 8 b])

/-- READ_JOURNAL. -/
def execReadJournal (seq : Word64) (s : State) : Host.Outcome State Fault Refusal :=
  if !s.sideband then .next s
  else
    let l := if s.mgt.store = 2 then [] else s.mgt.good.filter fun r => decide (seq.toNat ≤ r.seq.toNat)
    let least := l.foldl (fun (b : Option Rec) r =>
      match b with
      | none => some r
      | some x => if r.seq.toNat < x.seq.toNat then some r else b) none
    .next (s.sbAck ((least.map Rec.bytes).getD []))

/-- SB_LC_ADVANCE: BLANK to MANUFACTURE, followed by a warm device reset. -/
def execSbLcAdvance (token : BitVec 1040) (s : State) : Host.Outcome State Fault Refusal :=
  if !s.sideband then .next s
  else
    match s.sbLife token with
    | none => .next s.sbNack
    | some t => .next ((t.sbAck []).warm .lcAdvance)

/-- WARM_RESET. -/
def execWarmReset (s : State) : Host.Outcome State Fault Refusal :=
  if !s.sideband || s.pwr.offHold then .next s else .next ((s.sbAck []).warm .sideband)

/-- LINK_RETRY: the link leaves Detect and trains anew (R299); a link that is up retrains (R300). -/
def execLinkRetry (s : State) : Host.Outcome State Fault Refusal :=
  if !s.sideband then .next s
  else
    let t := (s.sbAck [])
    let t := { t with hif := { t.hif with tries := 0, stuck := false } }
    .next (if t.hif.up then t.bumpHalf .hif 0 0x40 true else t)

/-- WAKE. -/
def execWake (s : State) : Host.Outcome State Fault Refusal :=
  if !s.sideband then .next s else .next (s.sbAck []).wakeUp

/-- SIDEBAND_UNKNOWN_COMMAND: an unknown code, or a listed one with a wrong length or a failed PEC, is answered with a NACK. -/
def execSidebandUnknownCommand (_ : Byte) (s : State) : Host.Outcome State Fault Refusal :=
  if !s.sideband then .next s else .next s.sbNack

/-! ## Firmware (R488 to R491) -/

/-- A firmware operation ends with an ERR. -/
def State.fwEnd (s : State) (err : Nat) : State :=
  let s := { s with mgt := { s.mgt with fwBusy := false, fwErr := BitVec.ofNat 4 err } }.raise .mgt 0 4 63
  if err = 0 then s else s.errBit .mgt 0 3 63

/-- STAGE: the device state, the store and the length are checked, and staging begins. -/
def State.fwStage (s : State) : State :=
  let len := s.reg 0 .mgt 0 0x5C 0
  if !s.bootsImages then s.fwEnd 6
  else if s.mgt.store ≠ 0 then s.fwEnd 7
  else if len < 64 ∨ 16777216 < len then s.fwEnd 2
  else { s with mgt := { s.mgt with fwBusy := true, fwErr := 0, fwLen := len } }

/-- ACTIVATE: TRY is set for the staged slot and a warm device reset runs it. -/
def State.fwActivate (s : State) : State :=
  if s.mgt.stagedB.isNone then s.fwEnd 5
  else if s.mgt.store ≠ 0 then s.fwEnd 7
  else if s.pwr.offHold then s.fwEnd 6
  else ({ s with mgt := { s.mgt with tryB := s.mgt.stagedB, tryUsed := false, fwErr := 0 } }.journalImage).warm .sideband

/-- DISCARD. -/
def State.fwDiscard (s : State) : State :=
  if s.mgt.stagedB.isNone then s.fwEnd 5
  else ({ s with mgt := { s.mgt with stagedB := none } }.fwEnd 0).journalImage

/-- COMMIT_SVN: the floor rises to the running SVN; the other slot is erased when it falls below. -/
def State.fwCommit (s : State) : State :=
  if s.pwr.state ≠ .service ∧ s.pwr.state ≠ .evacuate then s.fwEnd 6
  else
    let m := s.mgt
    let svn := (m.slot m.running).svn
    let floor := if s.sec.floor.toNat < svn.toNat then svn else s.sec.floor
    let other := !m.running
    let m := if (m.slot other).svn.toNat < floor.toNat then
        { m.setSlot other { valid := false, svn := 0, meas := 0 } with
          stagedB := if m.stagedB = some other then none else m.stagedB }
      else m
    ({ s with mgt := m, sec := { s.sec with floor := floor } }.fwEnd 0).journalImage

/-- A trigger of MGT_FW_CTRL: ignored while an operation is in progress. -/
def State.fwTrigger (s : State) (fn : Nat) (f : State → State) : State :=
  s.driverWrite fn .mgt 0 0x60 false fun t => if t.mgt.fwBusy then t else f t

/-- STAGE: a 1 written to the trigger through a function. -/
def execStage (fn : BitVec 6) (s : State) : Host.Outcome State Fault Refusal := .next (s.fwTrigger fn.toNat State.fwStage)

/-- STAGE_DONE: the bundle was read, written to the slot and verified, or ERR tells what failed. -/
def execStageDone (b : BundleIn) (s : State) : Host.Outcome State Fault Refusal :=
  if !s.mgt.fwBusy ∨ !s.aonRuns then .next s
  else
    let m := s.mgt
    let err := if !b.hostOk then 1 else if !b.valid then 3
      else if s.confidential && decide (b.svn.toNat < s.sec.floor.toNat) then 4 else 0
    if err = 1 then .next (({ s with mgt := { m with stagedB := none } }.fwEnd 1).journalImage)
    else
      let n := m.setSlot m.target { valid := decide (err = 0), svn := b.svn, meas := b.meas }
      let t := { s with mgt := { n with stagedB := if err = 0 then some m.target else none } }
      let t := (t.fwEnd err).journalImage
      .next (if err = 0 ∧ m.stagedB.isNone then t.raise .sec 0 2 63 else t)

/-- ACTIVATE: a 1 written to the trigger through a function. -/
def execActivate (fn : BitVec 6) (s : State) : Host.Outcome State Fault Refusal :=
  .next (s.fwTrigger fn.toNat State.fwActivate)

/-- DISCARD: a 1 written to the trigger through a function. -/
def execDiscard (fn : BitVec 6) (s : State) : Host.Outcome State Fault Refusal :=
  .next (s.fwTrigger fn.toNat State.fwDiscard)

/-- COMMIT_SVN: a 1 written to the trigger through a function. -/
def execCommitSvn (fn : BitVec 6) (s : State) : Host.Outcome State Fault Refusal :=
  .next (s.fwTrigger fn.toNat State.fwCommit)

end Sys2Proof.Machine
end

