-- ==== Sys2Proof/Machine/RegMap.lean ====
section
/-!
DEFINITION. The register map (chapters 2, 3, 6, 7, 10 to 20): where the block registers lie and who reaches them, the plain
RW registers with their fields and reset values, the capabilities, and the register pairs of R42.
-/

namespace Sys2Proof.Machine

/-! ## Visibility (R12, R32) -/

/-- The classes of a register: Driver and Partition. -/
structure Vis where
  drv : Bool
  par : Bool
  deriving DecidableEq, Repr

def visD : Vis := ⟨true, false⟩
def visP : Vis := ⟨false, true⟩
def visDP : Vis := ⟨true, true⟩

/-- The classes of the block registers, as (first offset, last offset, classes). -/
def Blk.regs : Blk → List (Nat × Nat × Vis)
  | .dev => [(0x40, 0x50, visDP), (0x60, 0x68, visD), (0x100, 0x110, visDP), (0x120, 0x12C, visDP), (0x200, 0x28C, visDP)]
  | .pwr => [(0x40, 0x68, visD)]
  | .mgt => [(0x40, 0x60, visD)]
  | .sec => [(0x40, 0x64, visD)]
  | .cl => [(0x40, 0x40, visDP), (0x48, 0x4C, visP), (0x50, 0x50, visDP)]
  | .sow => [(0x40, 0x4C, visDP), (0x50, 0x54, visP)]
  | .gal => [(0x40, 0x48, visD)]
  | .gln => [(0x40, 0x40, visP), (0x48, 0x4C, visP)]
  | .vec => [(0x40, 0x40, visP)]
  | .scl => [(0x40, 0x44, visD), (0x48, 0x6C, visP)]
  | .prf => [(0x40, 0x48, visP), (0x50, 0x58, visDP), (0x60, 0x68, visD), (0x70, 0x7C, visD), (0x80, 0x84, visDP)]
  | .hif => [(0x40, 0x70, visD)]
  | .iommu => [(0x40, 0x44, visD), (0x48, 0x50, visP), (0x54, 0x58, visDP)]
  | .cmdp => [(0x40, 0x54, visD), (0x60, 0x6C, visD)]
  | .part => [(0x40, 0x40, visD), (0x44, 0x4C, visDP), (0x50, 0x58, visD), (0x60, 0x68, visDP), (0x70, 0x84, visDP),
      (0x88, 0x88, visD)]
  | .mc => [(0x40, 0x44, visDP), (0x48, 0x4C, visD), (0x50, 0x50, visDP), (0x58, 0x58, visD), (0x60, 0x64, visP),
      (0x70, 0x70, visD), (0x74, 0x74, visDP), (0x80, 0x84, visDP)]
  | .seal => [(0x40, 0x58, visD), (0x60, 0x64, visD), (0x68, 0x6C, visDP), (0x70, 0x74, visD)]
  | .rdu => [(0x40, 0x44, visD), (0x48, 0x64, visP)]
  | .ctn => [(0x40, 0x48, visD), (0x50, 0x5C, visD), (0x60, 0x70, visD)]
  | .frt => [(0x40, 0x48, visD), (0x4C, 0x50, visDP), (0x54, 0x54, visD), (0x58, 0x64, visDP), (0x68, 0x68, visP),
      (0x6C, 0x6C, visD)]
  | .coll => [(0x40, 0x58, visP), (0x60, 0x64, visP)]

/-- The classes of the register at an offset; none where the page reserves it, which reads zero and ignores writes. xx_LOCK
may only be read through a virtual function. -/
def regVis (b : Blk) (off : Nat) (write : Bool) : Option Vis :=
  if off < 0x40 then
    if off = 0x2C then some visD
    else if off = 0x30 then some (if write then visD else visDP)
    else if off < 0x1C ∨ (0x20 ≤ off ∧ off < 0x2C) then some visDP
    else none
  else (b.regs.find? fun e => decide (e.1 ≤ off) && decide (off ≤ e.2.1)).map (·.2.2)

/-! ## Capabilities -/

/-- xx_CAPS. -/
def Blk.caps (b : Blk) (inst : Nat) : Nat :=
  match b with
  | .cl => 0x204000FF
  | .sow => 0x4800
  | .gal => 0x10000028
  | .vec => 0x01000400
  | .scl => 0x80401000
  | .rdu => 0x04000800
  | .coll => 0x04000010
  | .mc => 0x10100100
  | .seal => 0x20003200
  | .prf => 0x08100800
  | .hif => 0xFD001044
  | .iommu => 0x14300100
  | .cmdp => 0x10004000
  | .part => 0x40080100
  | .ctn => 0x08E00600 + inst
  | .frt => 0x40040400
  | .sec => 0x10100840
  | .pwr => 0x06400008
  | .mgt => 0x401C0030
  | .dev => 0
  | .gln => 0

/-! ## Block control -/

/-- The RW fields of xx_CTRL below MINOR_SEL that are plain storage: the bits through PF0 and through a virtual function, and
the reset value. -/
def Blk.ctrl (b : Blk) : Nat × Nat × Nat :=
  match b with
  | .cl => (0xFF03, 0xFF01, 0x1401)
  | .sow => (0xFFF, 0xFFF, 0x800)
  | .mc => (0xFF0FF1, 0, 0x180421)
  | .seal => (0xFF0000, 0, 0x140000)
  | .prf => (0x1FF0FF, 0, 0x1080A8)
  | .hif => (0xFFFF01, 0, 0x3E801)
  | .part => (1, 0, 0)
  | .ctn => (0xFF0D, 0, 0x6408)
  | .frt => (1, 0, 0)
  | .pwr => (0xFF0001, 0, 0x140000)
  | .mgt => (1, 0, 1)
  | _ => (0, 0, 0)

/-- The instance that keeps xx_CTRL: PRF_CTRL is the same in all four pages. -/
def ctrlInst (b : Blk) (inst : Nat) : Nat := if b = .prf then 0 else inst

/-- What a written value of xx_CTRL stores. -/
def ctrlFix (b : Blk) (v : Nat) : Nat :=
  match b with
  | .sow => max 64 (min 2048 v)
  | .seal => max 10 (v / 2 ^ 16) * 2 ^ 16
  | .prf => max 8 (min 20 (bits v 20 16)) * 2 ^ 16 + min 12 (bits v 15 12) * 2 ^ 12 + bits v 7 0
  | _ => v

/-! ## Plain RW registers -/

/-- How the plain RW registers store a write: the bits through PF0 and through a virtual function, the reset value, and what a
written value becomes. -/
structure RwReg where
  drv   : Nat
  par   : Nat
  reset : Nat
  fix   : Nat → Nat := id

/-- A driver's register. -/
def rwD (m : Nat) : RwReg := { drv := m, par := 0, reset := 0 }

/-- A register with one copy per function. -/
def rwF (m : Nat) (reset : Nat := 0) (fix : Nat → Nat := id) : RwReg := { drv := m, par := m, reset := reset, fix := fix }

/-- PWR_CAP. -/
def capFix (v : Nat) : Nat := if v = 0 then 0 else max 400 (min 1600 v)

/-- The plain RW registers from 0x040 on. -/
def rwOf (b : Blk) (off : Nat) : Option RwReg :=
  match b, off with
  | .dev, 0x124 => some (rwF 0xFFFFFFC0)
  | .dev, 0x128 => some (rwF 0xFFFFFFFF)
  | .dev, 0x12C => some (rwF 0xFFFFFFFF)
  | .pwr, 0x48 => some (rwD 7)
  | .pwr, 0x54 => some (rwD 0x3F)
  | .pwr, 0x60 => some { rwD 0x7FF with fix := capFix }
  | .pwr, 0x64 => some { rwD 0xFF with reset := 0x5F, fix := fun v => max 70 (min 105 v) }
  | .mgt, 0x54 => some (rwD 0xFFFFFFC0)
  | .mgt, 0x58 => some (rwD 0xFFFFFFFF)
  | .mgt, 0x5C => some (rwD 0x1FFFFFF)
  | .sec, 0x40 => some (rwD 0xFF)
  | .sec, 0x44 => some (rwD 0xFFFFFFC0)
  | .sec, 0x48 => some (rwD 0xFFFFFFFF)
  | .sec, 0x4C => some (rwD 0x1FFFF)
  | .sec, 0x50 => some (rwD 0x1FFFF)
  | .gal, 0x40 => some (rwD 0x0FFF007F)
  | .scl, 0x40 => some (rwD 0x3F)
  | .scl, 0x48 => some (rwF 0xFFFF0F01 0x80400800)
  | .scl, 0x4C => some (rwF 0x0FFF0FFF)
  | .scl, 0x54 => some (rwF 0x0FFF3FFF)
  | .prf, 0x40 => some (rwF 0x7F 0x10 fun v => max 1 (min 64 v))
  | .prf, 0x44 => some (rwF 0xFFF)
  | .prf, 0x70 => some (rwD 0x7F)
  | .prf, 0x78 => some { rwD 0xFFFF with reset := 0x550A, fix := fun v => max 50 (min 94 (v / 256)) * 256 + v % 256 }
  | .hif, 0x44 => some (rwD 0xFF)
  | .hif, 0x6C => some (rwD 0x3F)
  | .iommu, 0x40 => some (rwD 0x3F)
  | .iommu, 0x54 => some (rwF 0xFFF)
  | .cmdp, 0x40 => some (rwD 0xF)
  | .cmdp, 0x60 => some (rwD 0x3F)
  | .part, 0x40 => some (rwD 0x3F)
  | .part, 0x50 => some (rwD 0xFFFFFFC0)
  | .part, 0x54 => some (rwD 0xFFFFFFFF)
  | .part, 0x64 => some (rwF 0xFFF)
  | .mc, 0x40 => some (rwF 0xF)
  | .mc, 0x70 => some (rwD 0x3F)
  | .mc, 0x80 => some { rwF 7 with drv := 0x1FF }
  | .seal, 0x60 => some (rwD 0x3F)
  | .seal, 0x68 => some (rwF 0xFFFF)
  | .rdu, 0x40 => some (rwD 0x3F)
  | .rdu, 0x48 => some (rwF 0x3FF)
  | .frt, 0x40 => some (rwD 0xFFFFFFC0)
  | .frt, 0x44 => some (rwD 0xFFFFFFFF)
  | .frt, 0x58 => some (rwF 0x3F)
  | .frt, 0x60 => some (rwF 0x3FF)
  | .coll, 0x40 => some (rwF 0xFFFF 0x64)
  | .coll, 0x44 => some (rwF 0x80000FFF)
  | .coll, 0x48 => some (rwF 0x3FF)
  | _, _ => none

/-- The copy that a function's access reaches: its own in a shared page (R36, R521). -/
def copyOf (b : Blk) (fn : Nat) : Nat := if b.shared then fn else 0

/-- The instance that keeps a plain RW register: the settings and selects of SCL, PRF, SEAL, RDU and MC are the same in every
page of the block, but for MC_CHAN_SEL (R521). -/
def rwInst (b : Blk) (inst off : Nat) : Nat :=
  match b with
  | .scl | .prf | .seal | .rdu => 0
  | .mc => if off = 0x40 then inst else 0
  | _ => inst

/-- The value of a plain RW register as a function reads it. -/
def State.rw (s : State) (fn : Nat) (b : Blk) (inst off : Nat) : Nat :=
  match rwOf b off with
  | some r => s.reg (copyOf b fn) b (rwInst b inst off) off r.reset
  | none => 0

/-- The quota registers: the select that names the partition, and the bits (R145, R171, R275, R347, R366). -/
def quotaOf (b : Blk) (off : Nat) : Option (Nat × Nat) :=
  match b, off with
  | .scl, 0x44 => some (0x40, 0x7FFF1FFF)
  | .rdu, 0x44 => some (0x40, 0x7FF)
  | .iommu, 0x44 => some (0x40, 0x3FFFF)
  | .seal, 0x64 => some (0x60, 0x3FFF)
  | .cmdp, 0x64 => some (0x60, 0x1FFF7FFF)
  | .cmdp, 0x68 => some (0x60, 0x1FFFFF)
  | .cmdp, 0x6C => some (0x60, 0x1FFFF)
  | _, _ => none

/-! ## Register pairs (R42) -/

/-- The low halves of the pairs. -/
def pairLo (b : Blk) : List Nat :=
  match b with
  | .dev => [0x48, 0x124]
  | .cl => [0x48]
  | .sow => [0x50]
  | .gal => [0x44]
  | .gln => [0x48]
  | .rdu => [0x50, 0x60]
  | .coll => [0x60]
  | .mc => [0x60]
  | .seal => [0x48, 0x50]
  | .prf => [0x50, 0x64, 0x80]
  | .hif => [0x5C]
  | .iommu => [0x4C]
  | .cmdp => [0x44, 0x4C]
  | .part => [0x48, 0x50, 0x70, 0x78]
  | .ctn => [0x40]
  | .frt => [0x40, 0x4C]
  | .sec => [0x44, 0x5C]
  | .mgt => [0x54]
  | _ => []

/-- The key of a latched upper half: function and offset in the window. -/
def latchKey (fn : Nat) (b : Blk) (inst off : Nat) : Nat := fn * 2 ^ 26 + regOff b inst off

/-! ## Interrupts -/

/-- The conditions that a page defines (R70, R145, R171, R173, R239, R275, R297, R318, R347, R364, R366, R390, R421, R423, R454,
R473, R494). Conditions of the controller stack alone lie in every page alike. -/
def Blk.conds : Blk → Nat
  | .dev => 1
  | .cl => 0x1F
  | .sow => 3
  | .gal => 1
  | .gln => 3
  | .vec => 3
  | .scl => 0x3F
  | .rdu => 7
  | .coll => 7
  | .mc => 0x7F
  | .seal => 0xF
  | .prf => 0x3F
  | .hif => 0x3F
  | .iommu => 3
  | .cmdp => 0xF
  | .part => 0x1F
  | .ctn => 0x1F
  | .frt => 0x1F
  | .sec => 7
  | .pwr => 0x3F
  | .mgt => 0x3F

/-- A page's interrupt asserts in a copy (R34). -/
def State.asserts (s : State) (fn : Nat) (b : Blk) (inst : Nat) : Bool :=
  (s.reg fn b inst 0x28 0 &&& s.reg fn b inst 0x24 0) != 0

/-- The function that a page's copy interrupts (R37). -/
def State.intTarget (s : State) (copy : Nat) (b : Blk) (inst : Nat) : Nat :=
  if b.bound then fnOf (s.cluster inst).owner.toNat else copy

/-- An instance of a block asserts an interrupt to a function. -/
def State.assertsTo (s : State) (fn : Nat) (b : Blk) (inst : Nat) : Bool :=
  if b.bound then fnOf (s.cluster inst).owner.toNat == fn && s.asserts 0 b inst
  else if b.shared then s.asserts fn b inst
  else fn == 0 && s.asserts 0 b inst

/-- The bit of an instance in its vector's map of DEV_INTSUM. -/
def sumBit (b : Blk) (inst : Nat) : Nat :=
  match b with
  | .frt => 8
  | .coll => 9
  | _ => inst

/-- Word k of the map of a vector (DEV_INTSUM). -/
def State.intSum (s : State) (fn v k : Nat) : Nat :=
  let bs := Blk.all.filter fun b => b.vector == v
  (List.range 32).foldl (fun n j =>
    let i := 32 * k + j
    if bs.any (fun b => (List.range b.count).any fun x => sumBit b x == i && s.assertsTo fn b x) then n + 2 ^ j else n) 0

/-- The level conditions of a page that hold, in a function's copy: each belongs to the device, but for a cluster's (R34). -/
def State.levels (s : State) (fn : Nat) (b : Blk) (inst : Nat) : Nat :=
  match b with
  | .cl => 8 * b2n (s.cluster inst).laggard
  | .mc => if fn = 0 then 8 * b2n (s.spareLow inst) else 0
  | .prf => if fn = 0 then 32 * b2n (!(s.unit inst).online) else 0
  | .hif => 4 * b2n s.ideLow
  | .ctn => 2 * b2n (s.ctnEnabled inst && decide ((s.port inst).state ≠ .up))
  | .frt => if fn = 0 then 2 * b2n (s.missing != 0) else 0
  | .sec => 4 * b2n s.mgt.stagedB.isSome
  | .pwr => 4 * b2n (decide (s.pwr.nTherm < 16))
  | .mgt => b2n (s.maint != 0) + 2 * b2n (s.mgt.store == 1)
  | _ => 0

end Sys2Proof.Machine
end

