-- ==== Sys2Proof/Machine/RegRead.lean ====
section
/-!
DEFINITION. What registers read (chapters 2, 3, 6, 7, 10 to 20): the value of each block register in a function's view, the
readings that R448 limits, the fields that a read clears (R9), the latched upper halves (R42), the doorbell pages (R28, R326).
-/

namespace Sys2Proof.Machine

/-! ## Views (R36) -/

/-- The partition of a function's view; 63 for the device. -/
def viewOf (fn : Nat) : Nat := if fn = 0 then 63 else fn - 1

/-- A partition's resource counts in a function's view. -/
def sees (fn p : Nat) : Bool := fn == 0 || p == fn - 1

/-- A context is bound to the reading partition, or is read through PF0. -/
def State.seesCtx (s : State) (fn c : Nat) : Bool := (s.ctx c).bound && sees fn (s.ctx c).part.toNat

/-- A 32-bit field of a number. -/
def word (v k : Nat) : Nat := v / 2 ^ (32 * k) % 2 ^ 32

/-- A value saturated to a width. -/
def sat (w v : Nat) : Nat := min (2 ^ w - 1) v

/-- A two's-complement field. -/
def twos (w : Nat) (v : Int) : Nat := (BitVec.ofInt w v).toNat

/-- The selected context of a select register. -/
def State.selCtx (s : State) (fn : Nat) (b : Blk) (off : Nat) : Nat := s.rw fn b 0 off % 4096

/-! ## DEV, PWR, MGT, SEC -/

/-- DEV_BADACC_INFO. -/
def State.badInfo (s : State) : Nat :=
  let r := s.badacc
  b2n r.valid * 2 ^ 31 + b2n r.write * 2 ^ 30 + b2n r.vf * 2 ^ 26 + r.part.toNat * 2 ^ 20 + r.bar.toNat * 2 ^ 18 + r.size.toNat

def State.devReg (s : State) (fn off : Nat) : Nat :=
  match off with
  | 0x40 => 0x1F6C0009
  | 0x44 => stepping * 256 + 1
  | 0x48 => word Config.serial.toNat 0
  | 0x4C => word Config.serial.toNat 1
  | 0x50 => s.devState
  | 0x60 => s.badInfo
  | 0x64 => s.badacc.off.toNat
  | 0x68 => s.reg 0 .dev 0 0x68 0
  | 0x120 => let c := s.coloOf fn; b2n c.busy * 2 ^ 30 + c.status.toNat * 2 ^ 27
  | _ =>
    if 0x200 ≤ off then s.intSum fn ((off - 0x200) / 16) (off % 16 / 4)
    else if 0x100 ≤ off ∧ off ≤ 0x110 then
      (if fn = 0 then s.devSizes ((off - 0x100) / 4) else s.partSizes (fn - 1) ((off - 0x100) / 4))
    else s.rw fn .dev 0 off

/-- PWR_RST_CAUSE. -/
def RstCause.code : RstCause → Nat
  | .pwrOk => 0
  | .uv rail => 2 ^ 28 + rail.toNat * 2 ^ 24
  | .warm => 2 * 2 ^ 28
  | .flr => 3 * 2 ^ 28
  | .sideband => 4 * 2 ^ 28
  | .lcAdvance => 5 * 2 ^ 28
  | .braceMax => 6 * 2 ^ 28
  | .trip => 7 * 2 ^ 28
  | .sealHalt => 8 * 2 ^ 28

/-- PWR_STAT. -/
def State.pwrStat (s : State) : Nat :=
  let low := (List.range 6).foldl (fun n k => if (s.pwr.rails[k]?.map (·.2.2)).getD false then n + 2 ^ k else n) 0
  b2n s.pwr.bootFail * 2 ^ 31 + b2n (decide (s.pwr.nTherm < 16)) * 2 ^ 30
    + b2n (decide (s.capWatts ≠ 0) && decide (s.pwr.nCap < 16)) * 2 ^ 29 + s.pwr.slumErr.toNat * 2 ^ 26 + s.coreN * 2 ^ 16 + low

def State.pwrReg (s : State) (off : Nat) : Nat :=
  match off with
  | 0x44 => s.pwr.cause.code
  | 0x4C => match s.pwr.rails[s.rw 0 .pwr 0 0x48]? with
    | some (mv, low, _) => mv * 2 ^ 16 + low
    | none => 0
  | 0x50 => s.reg 0 .pwr 0 0x50 0
  | 0x58 =>
    let t := tget (0, 0, 0) s.pwr.temps (s.rw 0 .pwr 0 0x54)
    t.2.1 * 2 ^ 16 + t.1
  | 0x5C => if s.confidential then s.pwr.watts.toNat / 8 * 8 else s.pwr.watts.toNat
  | 0x68 => match s.pwr.trip with
    | some (k, v) => 2 ^ 31 + k.toNat * 2 ^ 24 + v.toNat
    | none => 0
  | _ => s.rw 0 .pwr 0 off

def State.mgtReg (s : State) (off : Nat) : Nat :=
  let m := s.mgt
  match off with
  | 0x40 => s.maint
  | 0x44 => m.hours % 2 ^ 32
  | 0x48 => m.spares.length * 2 ^ 24 + m.erased.length
  | 0x4C => m.rotation.foldl (fun n i => max n (m.sector i).erases) 0
  | 0x50 => s.reg 0 .mgt 0 0x50 0
  | 0x60 => b2n m.fwBusy * 2 ^ 27 + m.fwErr.toNat * 2 ^ 23 + (m.stagedB.map fun b => (m.slot b).svn.toNat).getD 0
  | _ => s.rw 0 .mgt 0 off

def State.secReg (s : State) (off : Nat) : Nat :=
  match off with
  | 0x40 => b2n s.sec.busy * 2 ^ 30 + s.sec.status.toNat * 2 ^ 26 + s.rw 0 .sec 0 0x40
  | 0x54 => s.sec.respLen.toNat
  | 0x58 => s.sec.floor.toNat * 2 ^ 16 + (s.mgt.slot s.mgt.running).svn.toNat
  | 0x5C => word s.bootId 0
  | 0x60 => word s.bootId 1
  | 0x64 => s.sec.keyFault.1.toNat * 2 ^ 16 + s.sec.keyFault.2.toNat
  | _ => s.rw 0 .sec 0 off

/-! ## Cluster pages (R69 to R71) -/

/-- A cluster is RUNNING: a context runs and no debug hold has stopped it (R385). -/
def State.clRunning (s : State) (c : Nat) : Bool :=
  (s.cluster c).running.isSome && !(s.dbg.held && s.dbg.cl.toNat == c)

/-- The running slot of a cluster. -/
def Cluster.runSlot (k : Cluster) : Option Slot := k.running.bind k.slot

def ClPwr.code : ClPwr → Nat
  | .active => 0
  | .idle => 1
  | .fallow => 2

/-- CL_STAT. RUN_CTX shows the context of the running slot. -/
def State.clStat (s : State) (c : Nat) : Nat :=
  let k := s.cluster c
  k.pwr.code * 2 ^ 30 + b2n k.laggard * 2 ^ 29 + b2n k.clear * 2 ^ 28 + ((k.runSlot.map (·.ctx.toNat)).getD 0) * 2 ^ 16
    + (k.slots.filter (·.2.isSome)).length * 2 ^ 10 + b2n (s.clRunning c)

/-- A stream of the running slot. -/
def State.clStream (s : State) (c n : Nat) : Option Stream := (s.cluster c).runSlot.bind fun x => x.stream n

/-- The running pass waits for a line of a stream. -/
def State.passWaits (s : State) (c n : Nat) (m : Stream) : Bool :=
  match (s.cluster c).passRun with
  | none => false
  | some p =>
    ((p.srcA.toNat == n) && decide (m.arrived < m.consumed + blockLines p.fa.toNat)) ||
      ((p.srcB.toNat == n) && decide (m.arrived < m.consumed + blockLines p.fb.toNat))

def State.clReg (s : State) (c off : Nat) : Nat :=
  let k := s.cluster c
  match off with
  | 0x40 => k.faultCtx.toNat * 2 ^ 16 + k.faultCode.toNat
  | 0x48 => word k.passes.toNat 0
  | 0x4C => word k.passes.toNat 1
  | 0x50 => s.reg 0 .cl c 0x50 0
  | _ => 0

def State.sowReg (s : State) (c off : Nat) : Nat :=
  match off with
  | 0x50 => word (s.cluster c).sowFault.toNat 0
  | 0x54 => word (s.cluster c).sowFault.toNat 1
  | _ =>
    match s.clStream c ((off - 0x40) / 4) with
    | none => 0
    | some m => (m.fetched - m.consumed) % 4096 * 2 ^ 20 + m.flight.length * 2 ^ 11 + b2n (dTranspose m.desc) * 4
        + b2n (s.passWaits c ((off - 0x40) / 4) m) * 2 + 1

/-- The stored residue of a Galley word: its integer significand modulo 7 (R114). -/
def galResidue (w : Nat) : Nat :=
  let f := w % 2 ^ 31
  (if w / 2 ^ 31 % 256 = 0 then f else 2 ^ 31 + f) % 7

def State.galReg (s : State) (c off : Nat) : Nat :=
  let sel := s.rw 0 .gal c 0x40
  let w := (s.cluster c).galWord (bits sel 27 16) (sel % 128)
  match off with
  | 0x44 => word w 0
  | 0x48 => galResidue w * 2 ^ 8 + word w 1
  | _ => sel

def State.glnReg (s : State) (c off : Nat) : Nat :=
  match off with
  | 0x48 => word (s.cluster c).rowsDone.toNat 0
  | 0x4C => word (s.cluster c).rowsDone.toNat 1
  | _ => s.reg 0 .gln c off 0

/-! ## SCL, RDU, COLL -/

/-- SCL_STAT: the entries of a view. -/
def State.sclStat (s : State) (fn : Nat) : Nat :=
  let t := s.tensors.filter fun e => sees fn (s.ctx (e.1 / 16384)).part.toNat
  let l := s.layers.filter fun e => sees fn (s.ctx (e.1 / 4096)).part.toNat
  t.length * 2 ^ 16 + l.length

/-- The selected layer entry of a function's view. -/
def State.selLayer (s : State) (fn : Nat) : Option (Nat × Nat × Layer) :=
  let sel := s.rw fn .scl 0 0x4C
  let c := bits sel 27 16
  if s.seesCtx fn c then (s.layer c (bits sel 11 0)).map fun l => (c, bits sel 11 0, l) else none

/-- The selected tensor entry of a function's view, from verified data (R39). -/
def State.selTensor (s : State) (fn : Nat) : Option Tensor :=
  let sel := s.rw fn .scl 0 0x54
  let k := bits sel 27 16 * 16384 + bits sel 13 0
  if s.seesCtx fn (bits sel 27 16) then tget none (if s.reads.isEmpty then s.tensors else s.shown.tensors) k else none

/-- A quota register: that of the selected partition. -/
def State.quota (s : State) (b : Blk) (off : Nat) : Nat :=
  match quotaOf b off with
  | some (sel, _) =>
    let p := s.rw 0 b 0 sel
    if p < 63 then s.reg (fnOf p) b 0 off 0 else 0
  | none => 0

def State.sclReg (s : State) (fn q off : Nat) : Nat :=
  match off with
  | 0x44 => s.quota .scl off
  | 0x50 => match s.selLayer fn with
    | some (c, n, l) =>
      let old := if s.reads.isEmpty then l else (tget none s.shown.layers (c * 4096 + n)).getD Layer.fresh
      sat 8 old.run * 2 ^ 24 + (l.kNew.getD l.k).toNat * 2 ^ 16 + sat 16 old.alarms
    | none => 0
  | 0x58 => match s.selTensor fn with
    | some t => twos 8 t.xNow * 2 ^ 24 + sat 8 t.reruns * 2 ^ 16 + b2n t.nonfin * 4 + b2n t.fallback * 2 + 1
    | none => 0
  | 0x5C => ((s.selTensor fn).map (·.last.toNat)).getD 0
  | 0x60 | 0x64 | 0x68 | 0x6C => s.reg fn .scl q off 0
  | _ => s.rw fn .scl q off

/-- The selected region of a function's view, with its counts from verified data (R39). -/
def State.selRegion (s : State) (fn : Nat) : Option Region :=
  let id := s.rw fn .rdu 0 0x48
  ((s.region id).filter fun r => sees fn (s.ctx r.ctx.toNat).part.toNat).map fun r =>
    if s.reads.isEmpty then r
    else
      match tget none s.shown.regions id with
      | some o => { r with shed := o.shed, nonfin := o.nonfin, ovf := o.ovf, ovfExp := o.ovfExp }
      | none => { r with shed := 0, nonfin := 0, ovf := false, ovfExp := 0 }

/-- Open regions of a view. -/
def State.regionsSeen (s : State) (fn : Nat) : Nat :=
  if fn = 0 then (s.regions.filter (·.2.isSome)).length else s.regionsOf (fn - 1)

def State.rduReg (s : State) (fn k off : Nat) : Nat :=
  let r := s.selRegion fn
  match off with
  | 0x44 => s.quota .rdu off
  | 0x4C => (r.map fun r => 2 ^ 31 + b2n r.ovf * 2 ^ 30 + sat 12 r.contrib * 2 ^ 16 + twos 10 r.b).getD 0
  | 0x50 => (r.map fun r => word r.shed 0).getD 0
  | 0x54 => (r.map fun r => word r.shed 1).getD 0
  | 0x58 => (r.map fun r => sat 32 r.nonfin).getD 0
  | 0x5C => (r.map fun r => if r.ovf then 2 ^ 31 + twos 9 r.ovfExp else 0).getD 0
  | 0x60 | 0x64 => s.reg fn .rdu k off 0
  | _ => s.rw fn .rdu k off

/-- Collectives that run in a view. -/
def State.collsSeen (s : State) (fn : Nat) : Nat :=
  (s.colls.filter fun c => c.opt.isNone && sees fn (s.partOf c.src)).length

/-- The phases recorded for the selected peer. -/
def State.skewOf (s : State) (fn : Nat) : List (Nat × Bool) :=
  (tget { phases := [] } s.skews ((fn - 1) * 1024 + s.rw fn .coll 0 0x48)).phases

def State.collReg (s : State) (fn off : Nat) : Nat :=
  let l := s.skewOf fn
  match off with
  | 0x4C => sat 32 (l.foldl (fun m e => max m e.1) 0)
  | 0x50 => sat 32 (l.foldl (fun m e => m + e.1) 0 / l.length)
  | 0x54 => (l.filter (·.2)).length * 2 ^ 16 + l.length
  | 0x58 | 0x60 | 0x64 => s.reg fn .coll 0 off 0
  | _ => s.rw fn .coll 0 off

/-! ## MC, SEAL -/

/-- MC_STAT: the local channels of a view with an erase pass running. -/
def State.mcStat (s : State) (fn k : Nat) : Nat :=
  (List.range 16).foldl (fun n i =>
    let c := s.chan (k * 16 + i)
    if c.front.isSome && sees fn c.owner.toNat then n + 2 ^ i else n) 0

/-- The partition and extent that MC_EXT_STAT shows. -/
def State.selExtent (s : State) (fn : Nat) : Nat × Nat :=
  let v := s.rw fn .mc 0 0x80
  (if fn = 0 then v / 8 else fn - 1, v % 8)

/-- The Case ways of a partition; those that no tenant holds for 0x3F. -/
def State.waysOf (s : State) (p : Nat) : Nat := if p = 63 then (~~~ s.waysHeld).toNat else (s.part p).ways.toNat

/-- MC_UE_PMA of a view, with VALID in bit 63. -/
def State.uePma (s : State) (fn k : Nat) : Nat :=
  match tget none (s.part (viewOf fn)).uePma k with
  | some a => 2 ^ 63 + a % 2 ^ 42
  | none => 0

def State.mcReg (s : State) (fn k off : Nat) : Nat :=
  let c := s.chan (k * 16 + s.rw fn .mc k 0x40)
  match off with
  | 0x44 =>
    if sees fn c.owner.toNat then
      c.owner.toNat * 2 ^ 26 + c.era.toNat * 2 ^ 12 + b2n c.front.isSome * 2 ^ 11 + c.spares
    else 0
  | 0x48 => (c.front.map (·.toNat)).getD objectLines
  | 0x4C | 0x58 => s.reg 0 .mc k off 0
  | 0x50 => s.reg fn .mc k off 0
  | 0x60 => word (s.uePma fn k) 0
  | 0x64 => word (s.uePma fn k) 1
  | 0x74 => if fn = 0 then s.waysOf (s.rw 0 .mc 0 0x70) else s.waysOf (fn - 1)
  | 0x84 =>
    let (p, e) := s.selExtent fn
    let n := (tget [] (s.part p).extents e).length
    b2n (n != 0) * 2 ^ 31 + n
  | _ => s.rw fn .mc k off

/-- SEAL_HALT_CAUSE and SEAL_HALT_LOC. -/
def HaltRec.words (h : HaltRec) : Nat × Nat :=
  (2 ^ 31 + h.stack.toNat * 2 ^ 16 + h.cause.toNat, h.level.toNat * 2 ^ 28 + h.loc.toNat * 2 ^ 24 + h.line.toNat)

def KidState.code : KidState → Nat
  | .free => 0
  | .bound => 1
  | .keyed => 2
  | .retiring => 3

def State.sealReg (s : State) (fn k off : Nat) : Nat :=
  let e := (s.epoch (k / 8)).toNat
  let w := (s.wmark (k / 8)).toNat
  match off with
  | 0x40 => (s.halt.map (·.words.1)).getD 0
  | 0x44 => (s.halt.map (·.words.2)).getD 0
  | 0x48 => word e 0
  | 0x4C => word e 1
  | 0x50 => word w 0
  | 0x54 => word w 1
  | 0x58 => let v := tget VLat.reset s.vlat k; sat 16 v.max * 2 ^ 16 + sat 16 (v.sum / v.count)
  | 0x64 => s.quota .seal off
  | 0x6C =>
    let x := s.kid (s.rw fn .seal 0 0x68)
    if sees fn x.owner.toNat then x.state.code * 2 ^ 30 + b2n x.cached * 2 ^ 29 + x.owner.toNat else 0
  | 0x70 | 0x74 => s.reg 0 .seal k off 0
  | _ => s.rw fn .seal k off

/-! ## PRF -/

/-- PRF_STAT. -/
def State.prfStat (s : State) (u : Nat) : Nat :=
  let serves := (List.range 4).foldl (fun n q => if s.unitFor q = some u then n + 2 ^ q else n) 0
  b2n (s.unit u).online * 2 ^ 31 + serves * 2 ^ 24 + sat 3 (s.unit u).queue.length

/-- Dense sampling of a context is set (R188). -/
def Context.dense (x : Context) : Bool := (x.denseTo.map fun n => decide (x.steps.toNat < n.toNat)).getD false

def State.prfReg (s : State) (fn u off : Nat) : Nat :=
  match off with
  | 0x48 =>
    let c := s.selCtx fn .prf 0x44
    if s.seesCtx fn c then
      b2n (s.ctx c).dense * 2 ^ 31 + min (bits s.prfCtrl 15 12) (if (s.ctx c).dense then 4 else 12)
    else 0
  | 0x50 | 0x54 | 0x58 => s.reg fn .prf u off 0
  | 0x60 =>
    let r := s.prfLast
    r.kind.toNat * 2 ^ 30 + r.cl.toNat * 2 ^ 23 + r.ctx.toNat * 2 ^ 8 + r.part.toNat
  | 0x64 => word s.prfLast.id.toNat 0
  | 0x68 => word s.prfLast.id.toNat 1
  | 0x74 =>
    let k := s.cluster (s.rw 0 .prf 0 0x70)
    k.health.code * 2 ^ 30 + k.findings.toNat * 2 ^ 16 + k.hours.toNat
  | 0x7C => b2n s.mgt.replace * 2 ^ 31 + s.offlineMask * 2 ^ 16
      + (s.clusters.filter fun e => decide (e.2.health = .confirmed) && !e.2.inService).length
  | 0x80 | 0x84 => s.reg fn .prf 0 off 0
  | _ => s.rw fn .prf u off

/-! ## HIF, IOMMU, CMDP, PART -/

/-- HIF_STAT. -/
def State.hifStat (s : State) : Nat :=
  s.hif.rate.toNat * 2 ^ 29 + s.hif.width.toNat * 2 ^ 24 + b2n s.ideSecure * 2 ^ 18 + b2n s.hif.cacheOn * 2 ^ 16 + b2n s.hif.up

def Tdi.code : Tdi → Nat
  | .unlocked => 0
  | .locked => 1
  | .run => 2
  | .error => 3

/-- HIF_STG_LEN of a slot. -/
def State.stgLen (s : State) (x : Staging) : Nat :=
  if x.mapped then ((s.obj (x.handle.toNat % 2 ^ 20)).map fun o => min (2 ^ 28) (o.len - x.off4k * 4096)).getD 0 else 0

def State.hifReg (s : State) (off : Nat) : Nat :=
  let n := s.rw 0 .hif 0 0x44
  let x := s.stg n
  let rej := s.hif.rejInfo
  match off with
  | 0x40 | 0x64 => s.reg 0 .hif 0 off 0
  | 0x48 | 0x4C => s.reg (64 + n) .hif 0 off 0
  | 0x50 => b2n x.mapped * 2 ^ 31 + x.err.toNat * 2 ^ 27 + x.part.toNat
  | 0x54 => s.stgLen x
  | 0x58 => (rej.map fun r => 2 ^ 31 + b2n r.1 * 2 ^ 30 + r.2.1.toNat * 2 ^ 27 + r.2.2.1.toNat).getD 0
  | 0x5C => (rej.map fun r => word r.2.2.2.toNat 0).getD 0
  | 0x60 => (rej.map fun r => word r.2.2.2.toNat 1).getD 0
  | 0x68 =>
    let i := s.hif.ide.toNat
    b2n (i.testBit 0) * 2 ^ 31 + b2n (i.testBit 1) * 2 ^ 30 + bits i 5 2 * 2 ^ 24 + s.hif.fails
  | 0x70 =>
    let t := s.tdi (s.rw 0 .hif 0 0x6C)
    t.code * 2 ^ 30 + b2n (decide (s.rw 0 .hif 0 0x6C < s.hif.numVfs.toNat))
  | _ => s.rw 0 .hif 0 off

def State.iommuReg (s : State) (fn off : Nat) : Nat :=
  match off with
  | 0x44 => s.quota .iommu off
  | 0x48 | 0x4C | 0x50 => s.reg fn .iommu 0 off 0
  | 0x58 =>
    let c := s.selCtx fn .iommu 0x54
    let x := s.ctx c
    if s.seesCtx fn c then
      x.state.code * 2 ^ 29 + b2n x.admin * 2 ^ 28 + x.part.toNat * 2 ^ 20 + x.pasid.toNat
    else if fn = 0 then 63 * 2 ^ 20
    else 0
  | _ => s.rw fn .iommu 0 off

def State.cmdpReg (s : State) (off : Nat) : Nat :=
  let x := s.mq (s.rw 0 .cmdp 0 0x40)
  match off with
  | 0x44 => word x.ring.toNat 0
  | 0x48 => word x.ring.toNat 1
  | 0x4C => word x.cpl.toNat 0
  | 0x50 => word x.cpl.toNat 1
  | 0x54 => b2n x.enable * 2 ^ 31 + b2n x.irq * 2 ^ 30 + x.stop.toNat * 2 ^ 28 + x.log2
  | 0x64 | 0x68 | 0x6C => s.quota .cmdp off
  | _ => s.rw 0 .cmdp 0 off

/-- Bound contexts of a view. -/
def State.ctxsSeen (s : State) (fn : Nat) : Nat := (s.ctxs.filter fun e => e.2.bound && sees fn e.2.part.toNat).length

/-- Ranges in use of a view. -/
def State.rangesSeen (s : State) (fn : Nat) : Nat := if fn = 0 then s.rangesAll else s.rangesOf (fn - 1)

/-- PART_STATE. -/
def State.partState (s : State) (p : Nat) : Nat :=
  let x := s.part p
  let ext := (List.range 8).foldl (fun n e => if (tget [] x.extents e).isEmpty then n else n + 2 ^ e) 0
  x.state.code * 2 ^ 29 + b2n x.slice.isSome * 2 ^ 28 + ((x.slice.map (·.toNat)).getD 0) * 2 ^ 22 + ext * 2 ^ 8

/-- The partition that the PART page shows. -/
def State.selPart (s : State) (fn : Nat) : Nat := if fn = 0 then s.rw 0 .part 0 0x40 else fn - 1

/-- Four port shares. -/
def State.portShares (s : State) (p first : Nat) : Nat :=
  ofLe ((List.range 4).map fun i => (((s.part p).ports.getD (first + i) 0).setWidth 8))

def State.partReg (s : State) (fn off : Nat) : Nat :=
  let p := s.selPart fn
  let c := s.selCtx fn .part 0x64
  let x := s.ctx c
  let mine := fn == 0 || s.seesCtx fn c
  let acct := fun (v : Nat) => if mine then v else 0
  match off with
  | 0x44 => s.partState p
  | 0x48 => s.portShares p 0
  | 0x4C => s.portShares p 4
  | 0x58 => b2n s.bind.isSome * 2 ^ 30 + s.bindErr.toNat * 2 ^ 26 + s.bindPart.toNat
  | 0x60 => s.reg (fnOf p) .part 0 0x60 0x07D06400
  | 0x68 => acct (s.ctxShare c)
  | 0x70 => acct (word x.runUs 0)
  | 0x74 => acct (word x.runUs 1)
  | 0x78 => acct (word x.waitUs 0)
  | 0x7C => acct (word x.waitUs 1)
  | 0x80 => acct (sat 32 x.preempts)
  | 0x84 => acct (sat 32 x.overrun)
  | 0x88 => b2n s.dbg.hold * 2 ^ 31 + b2n s.dbg.held * 2 ^ 30 + s.dbg.cl.toNat
  | _ => s.rw fn .part 0 off

/-! ## CTN, FRT -/

def PortState.code : PortState → Nat
  | .down => 0
  | .training => 1
  | .attesting => 2
  | .fenced => 3
  | .up => 4

/-- CTN_STAT. -/
def State.ctnStat (s : State) (p : Nat) : Nat :=
  let x := s.port p
  x.state.code * 2 ^ 29 + x.reason.toNat * 2 ^ 24 + s.roleOf p * 2 ^ 21 + x.version.toNat * 2 ^ 16 + b2n x.x4 * 2 ^ 15
    + b2n x.switch * 2 ^ 14 + x.lanes.toNat

def State.ctnReg (s : State) (p off : Nat) : Nat :=
  let x := s.port p
  match off with
  | 0x40 => word x.serial.toNat 0
  | 0x44 => word x.serial.toNat 1
  | 0x48 => b2n x.idOk * 2 ^ 31 + b2n x.attested * 2 ^ 30 + x.peerPort.toNat * 2 ^ 23 + x.peerDev.toNat
  | 0x50 | 0x54 | 0x58 | 0x5C => if x.attested then word x.meas.toNat ((off - 0x50) / 4) else 0
  | _ => s.reg 0 .ctn p off 0

/-- The slice that the FRT page shows. -/
def State.selSlice (s : State) (fn : Nat) : Option Nat :=
  let k := if fn = 0 then some (s.rw 0 .frt 0 0x58) else (s.part (fn - 1)).slice.map (·.toNat)
  k.filter fun k => (s.sliceOff k).isSome

/-- FRT_SLICE_STAT of a slice of the plan. -/
def State.sliceStat (s : State) (k : Nat) : Nat :=
  let members := (List.range 1024).filter fun d => s.sliceHas k d
  let hops := (members.filter (· != s.devNum)).map fun d => s.route (some k) d
  let lost := (hops.filter fun h => decide (h = .none)).length
  let long := hops.any fun h => match h with
    | .send _ _ l => l
    | _ => false
  2 ^ 31 + b2n (s.sliceRefused k) * 2 ^ 30 + b2n (long || lost != 0) * 2 ^ 29 + b2n (tget none s.frt.keys k).isSome * 2 ^ 28
    + b2n (s.sliceHas k s.devNum) * 2 ^ 27 + members.length * 2 ^ 16 + lost

/-- FRT_ROUTE. -/
def State.routeStat (s : State) (k d : Nat) : Nat :=
  if d = s.devNum then 2 ^ 31 + 2 ^ 30
  else
    match s.route (some k) d with
    | .send p _ long => 2 ^ 31 + b2n long * 2 ^ 29 + p * 2 ^ 24
    | .deliver => 2 ^ 31 + 2 ^ 30
    | .none => 0

/-- FRT_PORTMAP. -/
def State.portMap (s : State) : Nat :=
  let set := fun (f : Nat → Bool) => (List.range 8).foldl (fun n p => if f p then n + 2 ^ p else n) 0
  set (fun p => (s.port p).role.isSome) * 2 ^ 16
    + set (fun p => decide ((s.port p).state = .fenced) && (s.port p).reason == 7) * 2 ^ 8 + s.missing

def State.frtReg (s : State) (fn off : Nat) : Nat :=
  match off with
  | 0x48 => s.frt.planErr.toNat * 2 ^ 26
  | 0x4C => s.planAt 8 4
  | 0x50 => s.planAt 12 4
  | 0x54 => s.portMap
  | 0x5C => ((s.selSlice fn).map s.sliceStat).getD 0
  | 0x64 => ((s.selSlice fn).map fun k => s.routeStat k (s.rw fn .frt 0 0x60)).getD 0
  | 0x68 => s.reg fn .frt 0 off 0
  | 0x6C => s.reg 0 .frt 0 off 0
  | _ => s.rw fn .frt 0 off

/-! ## A register's value -/

/-- xx_STAT. The block fields of SEAL_STAT, PART_STAT and FRT_STAT have visibility Driver. GLN_STAT.BUSY is 1 while converted rows wait
to be written (log entry 193). -/
def State.statOf (s : State) (fn : Nat) (b : Blk) (inst : Nat) : Nat :=
  match b with
  | .cl => s.clStat inst
  | .sow => (List.range 4).foldl (fun n k => if (s.clStream inst k).isSome then n + 2 ^ k else n) 0
  | .gal => b2n ((s.cluster inst).passRun.isSome || !(s.cluster inst).unsettled.isEmpty)
  | .gln => b2n (!(s.cluster inst).rowsOut.isEmpty)
  | .scl => s.sclStat fn
  | .rdu => s.regionsSeen fn
  | .coll => s.collsSeen fn
  | .mc => s.mcStat fn inst
  | .seal => if fn = 0 then b2n s.pwr.sealHalt * 2 ^ 31 + sat 16 (s.reads.filter fun r => r.stack.toNat == inst).length else 0
  | .prf => s.prfStat inst
  | .hif => s.hifStat
  | .iommu => s.rangesSeen fn
  | .cmdp => s.ctxsSeen fn
  | .part => if fn = 0 then
      b2n s.bind.isSome * 2 ^ 31 + ((s.bind.map (·.part.toNat)).getD 0) else 0
  | .ctn => s.ctnStat inst
  | .frt => if fn = 0 then
      b2n s.frt.plan.isSome * 2 ^ 30 + b2n s.openMode * 2 ^ 29 + s.planAt 6 1 % 2 * 2 ^ 28 + s.devNum else 0
  | .sec => s.lifecycle * 2 ^ 29 + b2n s.confidential * 2 ^ 28 + b2n s.mgt.stagedB.isSome * 2 ^ 27
      + (s.sec.pend.filter fun j => !j.shares.isEmpty).length
  | .pwr => s.pwrStat
  | .mgt => s.mgt.store.toNat * 2 ^ 30 + b2n s.mgt.reformat * 2 ^ 29 + b2n s.mgt.running * 2 ^ 28 + b2n s.mgt.stagedB.isSome * 2 ^ 27
  | .dev | .vec => 0

/-- A common register (R32). -/
def State.commonReg (s : State) (fn : Nat) (b : Blk) (inst off : Nat) : Nat :=
  let own := s.reg (copyOf b fn) b inst off 0
  match off with
  | 0x00 => b.type * 2 ^ 16 + inst
  | 0x04 => 0x01000000 + stepping * 256
  | 0x08 => b.caps inst
  | 0x0C => if b.bound then (s.cluster inst).owner.toNat else 63
  | 0x10 =>
    let (drv, par, reset) := b.ctrl
    s.reg 0 b (ctrlInst b inst) 0x10 reset &&& (if fn = 0 then drv else par)
  | 0x14 => s.statOf fn b inst
  | 0x18 | 0x24 | 0x28 => own
  | 0x20 => s.levels fn b inst
  | 0x30 => s.reg 0 b inst 0x30 0
  | _ => 0

/-- A block register. -/
def State.blockReg (s : State) (fn : Nat) (b : Blk) (inst off : Nat) : Nat :=
  match b with
  | .dev => s.devReg fn off
  | .pwr => s.pwrReg off
  | .mgt => s.mgtReg off
  | .sec => s.secReg off
  | .cl => s.clReg inst off
  | .sow => s.sowReg inst off
  | .gal => s.galReg inst off
  | .gln => s.glnReg inst off
  | .vec => s.reg 0 .vec inst off 0
  | .scl => s.sclReg fn inst off
  | .prf => s.prfReg fn inst off
  | .hif => s.hifReg off
  | .iommu => s.iommuReg fn off
  | .cmdp => s.cmdpReg off
  | .part => s.partReg fn off
  | .mc => s.mcReg fn inst off
  | .seal => s.sealReg fn inst off
  | .rdu => s.rduReg fn inst off
  | .ctn => s.ctnReg inst off
  | .frt => s.frtReg fn off
  | .coll => s.collReg fn off

/-- The value of a register in a function's view. -/
def State.regValue (s : State) (fn : Nat) (b : Blk) (inst off : Nat) : Nat :=
  (if off < 0x40 then s.commonReg fn b inst off else s.blockReg fn b inst off) % 2 ^ 32

/-! ## Open bits -/

/-- The bits that R448 limits in confidential mode: they were sampled earlier, so they are free (log entry 54). -/
def limited (b : Blk) (off : Nat) : Nat :=
  match b, off with
  | .seal, 0x58 => 0xFFFFFFFF
  | .seal, 0x14 => 0xFFFF
  | .cl, 0x14 => 0x0FFF0001
  | .gal, 0x14 => 1
  | .gln, 0x14 => 1
  | .rdu, 0x14 => 0x80000000
  | .coll, 0x14 => 0x1F
  | .pwr, 0x58 => 0x00FF00FF
  | .pwr, 0x5C => 0x7F8
  | _, _ => 0

/-- The bits that the state does not settle (log entry 55): RUN_CTX while nothing runs beside resident contexts, and STALLED
while an instruction may wait for a line. -/
def State.unsettledBits (s : State) (b : Blk) (inst off : Nat) : Nat :=
  match b with
  | .cl => if off = 0x14 && !s.clRunning inst && (s.cluster inst).slots.any (·.2.isSome) then 0x0FFF0000 else 0
  | .sow => if 0x40 ≤ off && off < 0x50 && (s.clStream inst ((off - 0x40) / 4)).isSome &&
        (((s.cluster inst).runSlot.map fun x => x.prog.isSome && !x.ended).getD false) then 2 else 0
  | _ => 0

/-- The open bits of a read. -/
def State.openBits (s : State) (fn : Nat) (b : Blk) (inst off : Nat) : Nat :=
  (if s.confidential && fn == 0 then limited b off else 0) ||| s.unsettledBits b inst off

/-- A value whose open bits are free. -/
def State.withOpen (s : State) (m v : Nat) : Nat × State :=
  if m = 0 then (v, s)
  else
    let (x, t) := s.fresh
    (v - (v &&& m) + (x.toNat &&& m), t)

/-! ## What a read clears (R9, R43, R307, R318) -/

/-- The plain RC counters: the copy and the instance are those of the access. -/
def rcCounter (b : Blk) (off : Nat) : Bool :=
  match b with
  | .cl => off == 0x50
  | .gln => off == 0x40
  | .vec => off == 0x40
  | .scl => 0x60 ≤ off
  | .coll => off == 0x58
  | .mc => off == 0x4C || off == 0x50
  | .seal => off == 0x70 || off == 0x74
  | .prf => off == 0x58
  | .hif => off == 0x40 || off == 0x64
  | .frt => off == 0x68 || off == 0x6C
  | .ctn => 0x60 ≤ off
  | .pwr => off == 0x50
  | .mgt => off == 0x50
  | .dev => off == 0x68
  | _ => false

/-- A read of DEV_BADACC_CNT clears the count and VALID of the record. -/
def State.clearBad (s : State) : State :=
  { s.setReg 0 .dev 0 0x68 0 0 with badacc := { s.badacc with valid := false } }

/-- A read of HIF_MEMREJ_CNT clears the count and the record. -/
def State.clearRej (s : State) : State :=
  { s.setReg 0 .hif 0 0x64 0 0 with hif := { s.hif with rejInfo := none } }

/-- What a read clears: an RC field returns to its reset value. -/
def State.afterRead (s : State) (fn : Nat) (b : Blk) (inst off : Nat) : State :=
  match b, off with
  | .dev, 0x68 => s.clearBad
  | .hif, 0x64 => s.clearRej
  | .seal, 0x58 => { s with vlat := tput VLat.reset s.vlat inst VLat.reset }
  | .pwr, 0x4C =>
    let k := s.rw 0 .pwr 0 0x48
    match s.pwr.rails[k]? with
    | some (mv, _, low) => { s with pwr := { s.pwr with rails := s.pwr.rails.set k (mv, 0xFFFF, low) } }
    | none => s
  | .pwr, 0x58 =>
    let k := s.rw 0 .pwr 0 0x54
    let t := tget (0, 0, 0) s.pwr.temps k
    { s with pwr := { s.pwr with temps := tput (0, 0, 0) s.pwr.temps k (t.1, 0, t.2.2) } }
  | _, _ => if rcCounter b off then s.setReg (copyOf b fn) b inst off 0 0 else s

/-! ## One 4-byte read -/

/-- The read of a register that the function reaches: its value and what it leaves (R9, R42). -/
def State.readReg (s : State) (fn : Nat) (b : Blk) (inst off : Nat) : Nat × State :=
  let key := latchKey fn b inst off
  match (if (pairLo b).contains (off - 4) then tget none s.latch key else none) with
  | some hi => (hi.toNat, { s with latch := tput none s.latch key none })
  | none =>
    let (v, t) := s.withOpen (s.openBits fn b inst off) (s.regValue fn b inst off)
    let hi : Word32 := BitVec.ofNat 32 (s.regValue fn b inst (off + 4))
    let t := if (pairLo b).contains off then
        { t with latch := tput none t.latch (latchKey fn b inst (off + 4)) (some hi) }
      else t
    (v, t.afterRead fn b inst off)

/-- The GAL debug registers are open: outside confidential mode, while the cluster is not RUNNING (R71). -/
def State.galShut (s : State) (b : Blk) (inst off : Nat) : Bool :=
  decide (b = .gal) && decide (0x40 ≤ off) && (s.confidential || s.clRunning inst)

/-- How an access to a register stands (R12, R31, R43, R71, R520); what hides the page makes no other ground go away (R267). A
reserved offset follows its page's class alone. -/
def State.regGate (s : State) (fn : Nat) (b : Blk) (inst off : Nat) (write : Bool) : Gate :=
  match regVis b off write with
  | none => match s.gate fn b inst true true with
    | .bad => .bad
    | _ => .zero
  | some v => match s.gate fn b inst v.drv v.par with
    | .bad => .bad
    | g => if s.galShut b inst off then .bad else g

/-- One 4-byte read in BAR0: its value, whether it is disallowed, and what it leaves. -/
def State.readWord (s : State) (fn off : Nat) : Nat × Bool × State :=
  match pageAt off with
  | none => (0, false, s)
  | some (b, inst, r) =>
    match s.regGate fn b inst r false with
    | .zero => (0, false, s)
    | .bad => (0, true, s)
    | .go => let (v, t) := s.readReg fn b inst r; (v, false, t)

/-! ## Doorbell pages (R28, R325, R326) -/

/-- BAR2 answers: the device is neither HALTED nor in BOOT (R267, R468), and a VF's TDI is in RUN: where it is not, R314 says
that the doorbells are ignored, and a read answers zero (log entry 191). -/
def State.barLive (s : State) (fn : Nat) : Bool :=
  s.fnLive fn && decide (s.pwr.state ≠ .halted) && decide (s.pwr.state ≠ .boot)

/-- A register of a context's doorbell page. -/
def State.bellReg (s : State) (c r : Nat) : Nat :=
  let x := s.ctx c
  if r < 0x100 then
    match s.queue c (r / 16) with
    | none => 0
    | some k => if r % 16 = 0 then k.tail.toNat else if r % 16 = 4 then k.head.toNat else 0
  else if r = 0x100 then x.state.code * 2 ^ 29 + (if x.state = .faulted then x.code.toNat else 0)
  else if r = 0x104 then x.faultQ.toNat * 2 ^ 28 + x.faultIx.toNat % 2 ^ 28
  else 0

/-- One 4-byte read in BAR2. -/
def State.readBell (s : State) (fn off : Nat) : Nat × Bool × State :=
  if s.bellBad fn off then (0, true, s)
  else if !s.barLive fn then (0, false, s)
  else if fn = 0 then
    let x := s.mq (off / 4096)
    let v := if 16 ≤ off / 4096 then 0 else if off % 4096 = 0 then x.tail.toNat else if off % 4096 = 4 then x.head.toNat else 0
    (v, false, s)
  else (s.bellReg (off / 4096) (off % 4096), false, s)

/-- One 4-byte read. -/
def State.readOne (s : State) (fn : Nat) (bar2 : Bool) (off : Nat) : Nat × Bool × State :=
  if bar2 then s.readBell fn off else s.readWord fn off

/-- An access that the device performs: 4 bytes at a multiple of 4, or 8 at a multiple of 8 (R40). -/
def accessOk (off size : Nat) : Bool := (size == 4 && off % 4 == 0) || (size == 8 && off % 8 == 0)

/-- A register read: the answered value, and what it leaves (R40, R43). -/
def State.regRead (s : State) (fn : Nat) (bar2 : Bool) (off size : Nat) : Nat × State :=
  if !accessOk off size then (0, s.badAccess fn false bar2 size off)
  else
    let (v, bad, t) := s.readOne fn bar2 off
    if size = 4 then (v, if bad then t.badAccess fn false bar2 4 off else t)
    else
      let (w, bad', u) := t.readOne fn bar2 (off + 4)
      (v + w * 2 ^ 32, if bad || bad' then u.badAccess fn false bar2 8 off else u)

/-- REGISTER_READ. -/
def execRegisterRead (r : RegRead) (s : State) : Host.Outcome State Fault Refusal :=
  let (v, t) := s.regRead r.fn.toNat r.bar2 r.off.toNat r.size
  .next (t.say (.regRead (BitVec.ofNat 64 v)))

/-- DEV_BADACC_CNT_READ: a 4-byte read of the count through a function. -/
def execDevBadaccCntRead (fn : BitVec 6) (s : State) : Host.Outcome State Fault Refusal :=
  let f := fn.toNat
  match s.gate f .dev 0 true false with
  | .go => .next (s.clearBad.say (.regRead (BitVec.ofNat 64 (s.reg 0 .dev 0 0x68 0))))
  | .zero => .next (s.say (.regRead 0))
  | .bad => .next ((s.badAccess f false false 4 (regOff .dev 0 0x68)).say (.regRead 0))

/-- HIF_MEMREJ_CNT_READ: a 4-byte read of the count through a function. -/
def execHifMemrejCntRead (fn : BitVec 6) (s : State) : Host.Outcome State Fault Refusal :=
  let f := fn.toNat
  match s.gate f .hif 0 true false with
  | .go => .next (s.clearRej.say (.regRead (BitVec.ofNat 64 (s.reg 0 .hif 0 0x64 0))))
  | .zero => .next (s.say (.regRead 0))
  | .bad => .next ((s.badAccess f false false 4 (regOff .hif 0 0x64)).say (.regRead 0))

end Sys2Proof.Machine
end

