-- ==== Sys2Proof/Machine/RegWrite.lean ====
section
/-!
DEFINITION. What register writes do (chapters 2, 3, 6, 7, 10 to 20): the common registers, the lockable registers, the quotas, the
settings of a context, the triggers, the doorbell pages, MSI-X unmasking, and a descriptor with a reserved opcode (R350).
-/

namespace Sys2Proof.Machine

/-- The value of a register of which only the bits of a mask take a write. -/
def merge (old m v : Nat) : Nat := old - (old &&& m) + (v &&& m)

/-! ## Common registers (R32 to R36, R45) -/

/-- Store the plain fields of xx_CTRL. MINOR_SEL holds 0x00 whatever is written (R45). -/
def State.ctrlStore (s : State) (fn : Nat) (b : Blk) (inst v : Nat) : State :=
  let (drv, par, reset) := b.ctrl
  let i := ctrlInst b inst
  let m := if fn = 0 then drv else par
  s.setReg 0 b i 0x10 reset (ctrlFix b (merge (s.reg 0 b i 0x10 reset) m v))

/-- A write of xx_CTRL: whether it is disallowed, and what it does. Under xx_LOCK the fields that are not lockable still take it
(R520): FALLOW_REQ, SB_EN and the link reset (log entry 56). -/
def State.ctrlWrite (s : State) (fn : Nat) (b : Blk) (inst v : Nat) : Bool × State :=
  let held := s.lockHolds fn b inst
  match b with
  | .cl =>
    let t := if held then s else s.ctrlStore fn .cl inst v
    (held && fn != 0, if fn = 0 then t.fallow inst (v.testBit 1) else t)
  | .mgt => (false, s.ctrlStore fn .mgt inst v)
  | .ctn =>
    if s.confidential && v.testBit 2 then (true, s)
    else if held then (if v.testBit 1 then (false, s.linkReset inst) else (true, s))
    else (false, (s.ctnWrite inst v).settle)
  | .frt => if held then (true, s) else (false, if fn = 0 then s.frtWrite v else s)
  | .pwr =>
    if held then (true, s)
    else
      let t := s.ctrlStore fn .pwr inst v
      (false, if v.testBit 0 then t.slumberAsk.settle else t.slumberDrop)
  | _ => if held then (true, s) else (false, s.ctrlStore fn b inst v)

/-- A write of xx_INT_EN: a condition that is latched already asserts at once (R34). -/
def State.intEnWrite (s : State) (fn : Nat) (b : Blk) (inst v : Nat) : State :=
  let k := copyOf b fn
  let t := s.setReg k b inst 0x24 0 v
  if t.asserts k b inst && !s.asserts k b inst then t.msix (t.intTarget k b inst) b.vector none else t

/-- A write of a W1C register. -/
def State.w1c (s : State) (fn : Nat) (b : Blk) (inst off v : Nat) : State :=
  let k := copyOf b fn
  let old := s.reg k b inst off 0
  s.setReg k b inst off 0 (old - (old &&& v))

/-- The bits that xx_INT_FLAG has: those of the block's conditions, since every other bit reads 0, but in the DEV page, whose chapter
does not say so. -/
def Blk.flags (b : Blk) : Nat := if b = .dev then 0xFFFFFFFF else b.conds

/-- A write of xx_INT_SET (R35). -/
def State.intSetWrite (s : State) (fn : Nat) (b : Blk) (inst v : Nat) : Bool × State :=
  if s.confidential then (true, s)
  else (false, s.latchInt (copyOf b fn) b inst (v &&& b.flags) (s.intTarget (copyOf b fn) b inst))

/-- A write of xx_LOCK. -/
def State.lockWrite (s : State) (b : Blk) (inst v : Nat) : Bool × State :=
  if (s.reg 0 b inst 0x30 0).testBit 1 then (true, s) else (false, s.setReg 0 b inst 0x30 0 (v % 4))

/-- A write of a common register. -/
def State.commonWrite (s : State) (fn : Nat) (b : Blk) (inst off v : Nat) : Bool × State :=
  match off with
  | 0x10 => s.ctrlWrite fn b inst v
  | 0x18 => (false, s.w1c fn b inst 0x18 v)
  | 0x24 => (false, s.intEnWrite fn b inst v)
  | 0x28 => (false, s.w1c fn b inst 0x28 v)
  | 0x2C => s.intSetWrite fn b inst v
  | 0x30 => s.lockWrite b inst v
  | _ => (false, s)

/-! ## Block registers -/

/-- The RW registers from 0x040 on that are neither plain storage nor quotas. -/
def rwSpecial (b : Blk) (off : Nat) : Bool :=
  match b with
  | .scl => off == 0x50
  | .hif => decide (0x48 ≤ off) && decide (off ≤ 0x50)
  | .cmdp => decide (0x44 ≤ off) && decide (off ≤ 0x54)
  | .part => off == 0x60 || off == 0x68 || off == 0x88
  | _ => false

/-- A register from 0x040 on has RW fields, which are lockable (R33). -/
def lockable (b : Blk) (off : Nat) : Bool := (rwOf b off).isSome || (quotaOf b off).isSome || rwSpecial b off

/-- A plain RW register ignores writes while the operation that uses it is in progress. -/
def State.busyHolds (s : State) (b : Blk) (off : Nat) : Bool :=
  match b with
  | .mgt => s.mgt.fwBusy
  | .sec => s.sec.busy
  | .part => (off == 0x50 || off == 0x54) && s.bind.isSome
  | _ => false

/-- A write of a plain RW register. -/
def State.rwStore (s : State) (fn : Nat) (b : Blk) (inst off v : Nat) : State :=
  match rwOf b off with
  | none => s
  | some r =>
    if s.busyHolds b off then s
    else
      let k := copyOf b fn
      let i := rwInst b inst off
      let m := if fn = 0 then r.drv else r.par
      s.setReg k b i off r.reset (r.fix (merge (s.reg k b i off r.reset) m v))

/-- The key-cache entries that the quotas of the other partitions leave. -/
def State.kcLeft (s : State) (p : Nat) : Nat :=
  8192 - (List.range 63).foldl (fun n q => if q = p then n else n + s.reg (fnOf q) .seal 0 0x64 0) 0

/-- A write of a quota register of the selected partition. -/
def State.quotaStore (s : State) (b : Blk) (off v : Nat) : State :=
  match quotaOf b off with
  | none => s
  | some (sel, m) =>
    let p := s.rw 0 b 0 sel
    if 63 ≤ p then s
    else
      let n := v &&& m
      s.setReg (fnOf p) b 0 off 0 (if b = .seal then min n (s.kcLeft p) else n)

/-- A write of SCL_LAYER_STAT.K (R142). -/
def State.layerWrite (s : State) (fn v : Nat) : State :=
  match s.selLayer fn with
  | some (c, n, l) => s.setLayer c n (some { l with kNew := some (BitVec.ofNat 4 (v / 2 ^ 16)) })
  | none => s

/-- One half of a 64-bit address. -/
def putHalf (w : Word64) (hi : Bool) (v : Nat) : Word64 :=
  if hi then BitVec.ofNat 64 (w.toNat % 2 ^ 32 + v * 2 ^ 32)
  else BitVec.ofNat 64 (w.toNat / 2 ^ 32 * 2 ^ 32 + v / 64 * 64)

/-- A write of a ring address of the selected management queue. -/
def State.mqRing (s : State) (off v : Nat) : State :=
  let m := s.rw 0 .cmdp 0 0x40
  let x := s.mq m
  if x.enable then s
  else if off < 0x4C then s.setMq m { x with ring := putHalf x.ring (off == 0x48) v }
  else s.setMq m { x with cpl := putHalf x.cpl (off == 0x50) v }

/-- A write of PART_SCHED. -/
def State.schedWrite (s : State) (fn v : Nat) : State :=
  let p := s.selPart fn
  if 63 ≤ p then s
  else s.setReg (fnOf p) .part 0 0x60 0x07D06400 (max 500 (v / 2 ^ 16) * 2 ^ 16 + bits v 15 8 * 2 ^ 8)

/-- What a write through PF0 stores in PART_CTX_SHARE. -/
def shareFix (v : Nat) : Nat :=
  let f := v % 256
  (v &&& 0xBF1F0000) + (if f = 0 ∨ 128 < f then 128 else f)

/-- A write of PART_CTX_SHARE of the selected context. -/
def State.shareWrite (s : State) (fn v : Nat) : State :=
  let c := s.selCtx fn .part 0x64
  let put := fun n => s.setReg (64 + c) .part 0 0x68 0x10040010 n
  if fn = 0 then (put (shareFix v)).refreshSizes
  else if s.seesCtx fn c then put (merge (s.ctxShare c) 0x3F000000 v)
  else s

/-- A write of MGT_FW_CTRL: of several triggers the highest acts (log entry 57). -/
def State.fwWrite (s : State) (v : Nat) : State :=
  if s.mgt.fwBusy then s
  else if v.testBit 31 then s.fwStage
  else if v.testBit 30 then s.fwActivate
  else if v.testBit 29 then s.fwDiscard
  else if v.testBit 28 then s.fwCommit
  else s

/-- A write of a block register that no lock holds. The START and LOAD bits whose operation reads host memory act through rows of
their own (log entry 58). -/
def State.blockWrite (s : State) (fn : Nat) (b : Blk) (inst off v : Nat) : Bool × State :=
  match b, off with
  | .dev, 0x120 => (false, if v.testBit 31 then s.coloStart fn else s)
  | .pwr, 0x40 => (false, if v.testBit 31 then s.warmAsk else s)
  | .mgt, 0x60 => (false, s.fwWrite v)
  | .scl, 0x50 => (false, s.layerWrite fn v)
  | .hif, 0x48 => (false, s.setReg (64 + s.rw 0 .hif 0 0x44) .hif 0 0x48 0 v)
  | .hif, 0x4C => (false, s.setReg (64 + s.rw 0 .hif 0 0x44) .hif 0 0x4C 0 v)
  | .hif, 0x50 => (false, if v.testBit 31 then s.stgWrite v else (s.stgWrite v).settle)
  | .cmdp, 0x54 => (false, s.mqCtrl v)
  | .part, 0x60 => (false, s.schedWrite fn v)
  | .part, 0x68 => (false, s.shareWrite fn v)
  | .part, 0x88 => if s.confidential && v.testBit 31 then (true, s) else (false, s.dbgWrite fn v)
  | _, _ =>
    (false, if rwSpecial b off then s.mqRing off v
      else if (quotaOf b off).isSome then s.quotaStore b off v else s.rwStore fn b inst off v)

/-- A write that xx_LOCK holds: disallowed, but for one of SEC_MB_CMD that sets START, which is not lockable (log entry 56). -/
def heldBad (b : Blk) (off v : Nat) : Bool := !(decide (b = .sec) && off == 0x40 && v.testBit 31)

/-- A write of a register that the function reaches: whether it is disallowed, and what it leaves. -/
def State.writeReg (s : State) (fn : Nat) (b : Blk) (inst off v : Nat) : Bool × State :=
  if off < 0x40 then s.commonWrite fn b inst off v
  else if lockable b off && s.lockHolds fn b inst then (heldBad b off v, s)
  else s.blockWrite fn b inst off v

/-! ## Accesses -/

/-- One 4-byte write in BAR0. One that has no effect because its page is hidden is disallowed where another rule makes it so
(R33, R35, R267, R385, R420). -/
def State.writeWord (s : State) (fn off v : Nat) : Bool × State :=
  match pageAt off with
  | none => (false, s)
  | some (b, inst, r) =>
    match s.regGate fn b inst r true with
    | .zero => ((s.writeReg fn b inst r v).1, s)
    | .bad => (true, s)
    | .go => s.writeReg fn b inst r v

/-- One 4-byte write in BAR2 (R28, R325). -/
def State.writeBell (s : State) (fn off v : Nat) : Bool × State :=
  let page := off / 4096
  let r := off % 4096
  if s.bellBad fn off then (true, s)
  else if !s.bellsLive fn then (false, s)
  else if fn = 0 then (false, if page < 16 ∧ r = 0 then (s.mqTail page (BitVec.ofNat 32 v)).settle else s)
  else (false, if r < 0x100 ∧ r % 16 = 0 then (s.ctxTail fn page (r / 16) (BitVec.ofNat 32 v)).settle else s)

/-- One 4-byte write. -/
def State.writeOne (s : State) (fn : Nat) (bar2 : Bool) (off v : Nat) : Bool × State :=
  if bar2 then s.writeBell fn off v else s.writeWord fn off v

/-- A register write (R40, R43): an 8-byte access is two, the lower address first, and is recorded once. -/
def State.regWrite (s : State) (fn : Nat) (bar2 : Bool) (off size v : Nat) : State :=
  if !accessOk off size then s.badAccess fn true bar2 size off
  else
    let (bad, t) := s.writeOne fn bar2 off (v % 2 ^ 32)
    if size = 4 then (if bad then t.badAccess fn true bar2 4 off else t)
    else
      let (bad', u) := t.writeOne fn bar2 (off + 4) (v / 2 ^ 32 % 2 ^ 32)
      if bad || bad' then u.badAccess fn true bar2 8 off else u

/-- REGISTER_WRITE. -/
def execRegisterWrite (w : RegWrite) (s : State) : Host.Outcome State Fault Refusal :=
  .next (s.regWrite w.fn.toNat w.bar2 w.off.toNat w.size w.value.toNat)

/-- An offset is that of an xx_INT_SET. -/
def isIntSet (off : Nat) : Bool := decide ((pageAt off).map (·.2.2) = some 0x2C)

/-- INT_SET: a write that covers an xx_INT_SET. -/
def execIntSet (w : RegWrite) (s : State) : Host.Outcome State Fault Refusal :=
  if !w.bar2 && (isIntSet w.off.toNat || (w.size == 8 && isIntSet (w.off.toNat + 4))) then
    .next (s.regWrite w.fn.toNat false w.off.toNat w.size w.value.toNat)
  else .next s

/-- MSIX_UNMASK: a vector with a pending bit sends its message (R34). -/
def execMsixUnmask (fn : BitVec 6) (vector : BitVec 4) (s : State) : Host.Outcome State Fault Refusal :=
  let k := fn.toNat * 16 + vector.toNat
  let t := { s with msixOpen := tput false s.msixOpen k true }
  if tget false t.msixPend k then
    .next ({ t with msixPend := tput false t.msixPend k false }.msix fn.toNat vector.toNat none)
  else .next t

/-! ## A reserved opcode (R350) -/

/-- A fetched descriptor with a reserved opcode fails check 1. -/
def State.badOpcode (s : State) (op : Byte) (q : CmdIn) : State :=
  if (s.cmdOf q.src).isSome then s
  else
    match s.fetch q.src with
    | none => s
    | some (idx, t) =>
      { t with inflight := t.inflight ++ [fetchedCmd q op.toNat idx] }.fail q.src 0x1A60 0 0 false

/-- RESERVED_DESCRIPTOR. -/
def execReservedDescriptor (op : Byte) (q : CmdIn) (s : State) : Host.Outcome State Fault Refusal :=
  if (Instr.reservedDescriptor op q).wellFormed then .next (s.badOpcode op q).settle else .refused .otherRow

end Sys2Proof.Machine
end

