-- ==== Sys2Proof/Machine/StepMark.lean ====
section
/-!
DEFINITION. STEP_MARK (R359) with the updates of R133 and R141 and the slice merge of R168, SCALE_DECLARE (R129 to R132) and
the expiry of a peer's time.
-/

namespace Sys2Proof.Machine

/-! ## The updates of a STEP_MARK (R133, R141) -/

/-- f of a format (R133). -/
def fmtTop (c : Nat) : Int :=
  match c with
  | 0 => 8
  | 7 => 127
  | _ => 15

/-- The update of a tensor with the step's maximum: a DELAYED tensor's history and exponent (R133); what a step holds is
cleared. -/
def Tensor.stepped (t : Tensor) (amax : Word32) : Tensor :=
  let t0 := { t with stepMax := 0, nonfin := false, reruns := 0, writer := none }
  if !t.delayed then t0
  else
    let hist := (t.hist.drop 1) ++ [amax]
    let a := hist.foldl maxF 0
    let t1 := { t0 with hist := hist, last := a }
    if a = 0 ∨ t.fallback then t1
    else
      let target := (f32 a).ilog2 - fmtTop t.fmt.toNat + 1 + t.margin
      let target := if t.downMax ≠ 0 ∧ target < t.x then max target (t.x - t.downMax) else target
      { t1 with x := min (max target t.xMin) t.xMax }

/-- UF_FRAC, UF_STEPS, K_MAX and ACTION of a partition. -/
def State.ufCtrl (s : State) (p : Nat) : Nat := s.reg (fnOf p) .scl 0 0x48 0x80400800

/-- The rule of R141 on a layer with its merged counts: the layer, whether an alarm fired, and whether the mark stops. -/
def Layer.watched (l : Layer) (ctrl elems zeros : Nat) : Layer × Bool × Bool :=
  let run := if elems = 0 then l.run else if zeros * 256 > elems * bits ctrl 31 24 then l.run + 1 else 0
  if run < max 1 (bits ctrl 23 16) then ({ l with run := run }, false, false)
  else
    let l := { l with run := 0, alarms := min 0xFFFF (l.alarms + 1) }
    if !ctrl.testBit 0 && decide (l.k.toNat < bits ctrl 11 8) then ({ l with k := l.k + 1 }, true, false)
    else (l, true, true)

/-- What follows the rule: the counts are cleared and a written k takes effect (R142). -/
def Layer.cleared (l : Layer) : Layer := { l with elems := 0, zeros := 0, k := l.kNew.getD l.k, kNew := none }

/-- Update every layer of a context: the state, and whether an alarm stops it. -/
def State.stepLayers (s : State) (c : Nat) (sums : Nat → Nat × Nat) : State × Bool :=
  let p := (s.ctx c).part.toNat
  s.layers.foldl (fun (acc : State × Bool) e =>
    match e.2 with
    | none => acc
    | some l =>
      if e.1 / 4096 ≠ c then acc
      else
        let n := e.1 % 4096
        let watch := (s.tensorsOf c).any fun t => t.2.layer == n && t.2.ufWatch
        let add := sums n
        let (l2, alarm, stop) := if watch then l.watched (s.ufCtrl p) (l.elems + add.1) (l.zeros + add.2) else (l, false, false)
        let t := acc.1.setLayer c n (some l2.cleared)
        let t := if alarm then (List.range 4).foldl (fun (u : State) q => u.fromData [.cond .scl q 3 p]) t else t
        (t, acc.2 || stop)) (s, false)

/-- Update every tensor of a context with the maxima of the slice. -/
def State.stepTensors (s : State) (c : Nat) (most : Nat → Word32) : State :=
  (s.tensorsOf c).foldl (fun (t : State) e =>
    t.setTensor c e.1 (some (e.2.stepped (maxF e.2.stepMax (most e.1))))) s

/-! ## The merge over the slice (R168) -/

/-- The context is the one that COLL_SLICE_CTX names, and its partition has a slice. -/
def State.merges (s : State) (c : Nat) : Bool :=
  let p := (s.ctx c).part.toNat
  let r := s.reg (fnOf p) .coll 0 0x44 0
  r.testBit 31 && r % 4096 == c && (s.part p).slice.isSome

/-- The other devices of a partition's slice. -/
def State.slicePeers (s : State) (p : Nat) : List Nat :=
  match (s.part p).slice with
  | none => []
  | some k => (List.range 1024).filter fun d => s.sliceHas k.toNat d && d != s.devNum

/-- This device's SCOPE 1 tensors and layers. -/
def State.mergeOwn (s : State) (c : Nat) : MergeIn :=
  let t := (s.tensorsOf c).filter fun e => e.2.scope1
  { tensors := t.map fun e => (e.1, e.2.stepMax, e.2.nonfin)
    layers := s.layers.filterMap fun e =>
      match e.2 with
      | some l => if e.1 / 4096 = c ∧ t.any (fun x => x.2.layer == e.1 % 4096) then some (e.1 % 4096, l.elems, l.zeros) else none
      | none => none
    event := (s.part (s.ctx c).part.toNat).event }

/-- A contribution's bytes in its packets (log entry 22). -/
def mergeBytesOf (m : MergeIn) (count : Nat) : List Byte :=
  leBytes 8 count ++ [BitVec.ofNat 8 (b2n m.event)] ++ leBytes 2 m.tensors.length
    ++ (m.tensors.flatMap fun t => leBytes 2 t.1 ++ leBytes 4 t.2.1.toNat ++ [BitVec.ofNat 8 (b2n t.2.2)])
    ++ m.layers.flatMap fun l => leBytes 2 l.1 ++ leBytes 8 l.2.1 ++ leBytes 8 l.2.2

/-- Send this device's contribution to every other device of the slice, on VC1. -/
def sendMerge (q : QSrc) (p : Nat) (l : List Byte) : M Unit := do
  let sl ← look fun s => (s.part p).slice
  let ds ← look (·.slicePeers p)
  ds.forM fun d => do
    match sl with
    | none => pure ()
    | some k =>
      let w : InjectIn := { src := q, vc := 1, dst := BitVec.ofNat 10 d, dstEp := 0, srcEp := 0, slice := k, payload := [] }
      match ← look (·.injectAll w 4100 l) with
      | .inl e => flt e
      | .inr t => upd fun _ => t

/-- The sets of SCOPE 1 tensors and layers agree. -/
def sameSets (a b : MergeIn) : Bool :=
  a.tensors.map (·.1) == b.tensors.map (·.1) && a.layers.map (·.1) == b.layers.map (·.1)

/-- The NONFINITE flags of peers are merged by OR (R168); a flag that becomes set raises the condition of the managers (R135). -/
def State.mergeNonfin (s : State) (c p : Nat) (peers : List MergeIn) : State :=
  (s.tensorsOf c).foldl (fun (t : State) e =>
    if !e.2.nonfin && peers.any fun m => m.tensors.any fun x => x.1 == e.1 && x.2.2 then
      (List.range 4).foldl (fun (u : State) q => u.fromData [.cond .scl q 4 p]) (t.setTensor c e.1 (some { e.2 with nonfin := true }))
    else t) s

/-- The merge: it waits for every device of the slice. Answers the others' maxima and counts. -/
def mergeStep (q : QSrc) (c p : Nat) (peers : List MergeIn) : M ((Nat → Word32) × (Nat → Nat × Nat)) := do
  if !(← look (·.merges c)) then pure (fun _ => 0, fun _ => (0, 0))
  else
    let n ← look fun s => (s.slicePeers p).length
    if peers.length ≠ n then waitHere
    let own ← look (·.mergeOwn c)
    let count ← look fun s => (s.ctx c).steps.toNat
    sendMerge q p (mergeBytesOf own count)
    need (peers.all (sameSets own)) 0x2A07
    upd fun s => s.setPart p { s.part p with event := false }
    if peers.any (·.event) then upd (·.revoke p)
    upd (·.mergeNonfin c p peers)
    pure (fun i => peers.foldl (fun m x => x.tensors.foldl (fun m t => if t.1 = i then maxF m t.2.1 else m) m) 0,
          fun i => peers.foldl (fun m x => x.layers.foldl (fun m l => if l.1 = i then (m.1 + l.2.1, m.2 + l.2.2) else m) m) (0, 0))

/-- Promote the checkpoints whose horizon the new count ends (R194). -/
def State.promote (s : State) (c : Nat) : State :=
  let n := (s.ctx c).steps.toNat
  let due := s.ckpts.filter fun k => k.ctx.toNat == c && k.step + k.h == n
  let s := { s with ckpts := s.ckpts.filter fun k => !(k.ctx.toNat == c && k.step + k.h == n) }
  due.foldl (fun (t : State) k => t.decideCkpt k 1) s

/-- Checks of a context's passes that are not resolved (R282). -/
def State.proofBusy (s : State) (c : Nat) : Bool :=
  (List.range 4).any fun q => (s.unit q).queue.any fun k => k.ctx.toNat == c && !k.gone

/-- STEP_MARK, point by point (R359). -/
def stepMarkBody (peers : List MergeIn) (q : CmdIn) (d : Nat) : M Fin := do
  let c := ctxOf q.src
  let p ← look (·.partOf q.src)
  let x ← look (·.ctx c)
  need (field d 8 8 == 0 || decide (field d 8 8 = (x.steps.toNat + 1) % 2 ^ 64)) 0x1A63
  if ← look (·.proofBusy c) then waitHere
  let (most, sums) ← mergeStep q.src c p peers
  let x ← look (·.ctx c)
  match x.prfPend with
  | some u =>
    upd (·.setCtx c { x with prfPend := none })
    flt 0x1601 0 u.toNat
  | none => pure ()
  upd (·.stepTensors c most)
  let stop ← act fun s => ((s.stepLayers c sums).2, (s.stepLayers c sums).1)
  upd fun s => (s.setCtx c { s.ctx c with steps := (s.ctx c).steps + 1 }.reached).promote c
  need (!stop) 0x1507
  let y ← look (·.ctx c)
  okWith y.steps.toNat 0

/-- STEP_MARK. -/
def execStepMark (m : StepMarkIn) (s : State) : Host.Outcome State Fault Refusal :=
  descriptor { op := 0x51, issuer := fromC, fields := fun d => bodyOnly d [(8, 8)], body := stepMarkBody m.peers } m.cmd s

/-- COLL_TIMEOUT_EXPIRY: a collective that lacks a peer's header, or a STEP_MARK whose merge lacks a contribution. -/
def execCollTimeoutExpiry (q : QSrc) (s : State) : Host.Outcome State Fault Refusal :=
  forCommand q (do
    match ← look (·.coll q), ← look (·.cmdOf q) with
    | some c, _ => if c.stage = .headers then flt 0x2A04 else waitHere
    | none, some k =>
      let due ← look fun s => decide (k.op = 0x51) && decide (k.stage = .ready) && s.merges (ctxOf q) && s.srcDispatches q
        && !s.orderHolds q 0x51 k.desc && !s.proofBusy (ctxOf q) && !(s.slicePeers (s.partOf q)).isEmpty
      if due then flt 0x2A07 else waitHere
    | none, none => waitHere) s

/-! ## SCALE_DECLARE (R129 to R132) -/

/-- The defaults of a kind (R130): DELAYED, HIST, DOWN_MAX, ON_OVF, OVF_RETRIES, UF_WATCH, FALLBACK. The others are MARGIN 0,
X_INIT 0, X_MIN -60, X_MAX 60 and OVF_SHIFT 1. -/
def kindDefault (k : Nat) : Bool × Nat × Int × OnOvf × Nat × Bool × Bool :=
  match k with
  | 0 => (true, 1, 0, .saturate, 1, false, false)
  | 1 => (true, 16, 1, .rerun, 2, false, true)
  | 2 => (true, 16, 1, .rerun, 2, true, true)
  | 3 => (false, 1, 0, .saturate, 1, true, false)
  | _ => (false, 1, 0, .saturate, 1, false, false)

/-- The entry that a record other than RELEASE creates. -/
def recTensor (d : Nat) : Tensor :=
  let k := field d 4 1
  let kind := k % 16
  let dflt := k.testBit 7
  let (dl, hl, dm, oo, rt, uw, fb) := kindDefault kind
  let ovf : OnOvf := match field d 12 1 % 4 with
    | 0 => .saturate
    | 1 => .rerun
    | _ => .stop
  let hl := if dflt then hl else field d 6 1
  let xi := if dflt then 0 else signed (field d 8 1) 8
  { layer := field d 2 2, kind := BitVec.ofNat 4 kind, scope1 := k.testBit 4
    ufWatch := if dflt then uw else k.testBit 5, fallbackOk := if dflt then fb else k.testBit 6
    fmt := BitVec.ofNat 4 (field d 5 1), delayed := if dflt then dl else field d 5 1 / 16 == 0
    histLen := hl, margin := if dflt then 0 else field d 7 1, xInit := xi
    xMin := if dflt then -60 else signed (field d 9 1) 8, xMax := if dflt then 60 else signed (field d 10 1) 8
    downMax := if dflt then dm else field d 11 1, onOvf := if dflt then oo else ovf
    ovfShift := if dflt then 1 else (field d 12 1 / 4 % 8 : Nat), retries := if dflt then rt else field d 13 1
    x := xi, hist := List.replicate hl 0, stepMax := 0, runMax := 0, last := 0, nonfin := false, fallback := false,
    marked := false, cmdRuns := 0, reruns := 0, writer := none }

/-- A record is a RELEASE. -/
def recFrees (d : Nat) : Bool := field d 4 1 % 16 == 15

/-- A record keeps R129 to R131, but for the SCOPE of its layer. -/
def recOk (sliced : Bool) (d : Nat) : Bool :=
  let t := recTensor d
  let dflt := (field d 4 1).testBit 7
  decide (field d 0 2 < 16384) && decide (field d 2 2 < 4096) && field d 14 2 == 0
    && (if recFrees d then field d 2 2 == 0 && field d 4 1 == 15 && field d 5 11 == 0
        else decide (field d 4 1 % 16 ≤ 5) && decide (field d 5 1 % 16 ≤ 9) && decide (field d 5 1 < 32)
          && (if dflt then field d 6 8 == 0 && decide (field d 5 1 < 16) && (field d 4 1) / 32 % 4 == 0
              else countOk (field d 6 1) 32 && decide (field d 7 1 ≤ 7) && decide (field d 11 1 ≤ 60)
                && decide (field d 12 1 < 32) && field d 12 1 % 4 != 3 && countOk (field d 12 1 / 4 % 8) 7
                && countOk (field d 13 1) 7)
          && decide (-60 ≤ t.xMin ∧ t.xMin ≤ t.xInit ∧ t.xInit ≤ t.xMax ∧ t.xMax ≤ 60)
          && (!t.delayed || [0, 1, 7, 8].contains t.fmt.toNat) && (!isMx t.fmt.toNat || !t.delayed)
          && (!t.scope1 || sliced))

/-- The SCOPE of record i agrees with those before it in the table and with the declared tensors of its layer: of two
that differ the later is invalid (log entry 200). -/
def scopeOk (declared : List (Nat × Tensor)) (earlier : List Nat) (d : Nat) : Bool :=
  recFrees d ||
    (let t := recTensor d
     (declared.all fun e => e.2.layer != t.layer || e.2.scope1 == t.scope1)
       && earlier.all fun e => recFrees e || (recTensor e).layer != t.layer || (recTensor e).scope1 == t.scope1)

/-- The first invalid record of a table. -/
def firstBad (sliced : Bool) (declared : List (Nat × Tensor)) (recs : List Nat) : Option Nat :=
  (List.range recs.length).find? fun i =>
    let d := recs[i]?.getD 0
    !(recOk sliced d && scopeOk declared (recs.take i) d)

/-- Apply one record to a context's entries. -/
def State.applyRec (s : State) (c d : Nat) : State :=
  let s := s.setTensor c (field d 0 2) (if recFrees d then none else some (recTensor d))
  let named := fun n => (s.tensorsOf c).any fun e => e.2.layer == n
  let s := { s with layers := s.layers.filter fun e => e.1 / 4096 != c || named (e.1 % 4096) }
  let n := (recTensor d).layer
  if recFrees d ∨ (s.layer c n).isSome then s else s.setLayer c n (some Layer.fresh)

/-- Tensor and layer entries of a partition. -/
def State.scaleUse (s : State) (p : Nat) : Nat × Nat :=
  ((s.tensors.filter fun e => (s.ctx (e.1 / 16384)).part.toNat == p).length,
   (s.layers.filter fun e => (s.ctx (e.1 / 4096)).part.toNat == p).length)

/-- A use above a limit that the command has raised. -/
def overUse (old new limit : Nat) : Bool := decide (old < new) && decide (limit < new)

/-- SCALE_DECLARE. -/
def scaleDeclareBody (q : CmdIn) (d : Nat) : M Fin := do
  let me := ctxOf q.src
  let c := field d 18 2
  let v : Via := { src := q.src, env := q.env }
  let p ← look (·.partOf q.src)
  let x ← look (·.ctx c)
  let admin ← look fun s => (s.ctx me).admin
  need (c == me || (admin && x.bound && x.part.toNat == p)) 0x1A08
  let n := field d 16 2
  let l ← vread v .copy 0x1901 (field d 8 8) (16 * n)
  let recs := (List.range n).map fun i => leAt l (16 * i) 16
  let sliced ← look fun s => (s.part p).slice.isSome
  let declared ← look (·.tensorsOf c)
  match firstBad sliced declared recs with
  | some i => flt 0x1501 i
  | none =>
    let old ← look id
    let new := recs.foldl (fun (t : State) r => t.applyRec c r) old
    let quota := old.reg (fnOf p) .scl 0 0x44 0
    let u := old.scaleUse p
    let w := new.scaleUse p
    need (!(overUse u.1 w.1 (bits quota 30 16) || overUse u.2 w.2 (bits quota 12 0)
      || overUse old.tensors.length new.tensors.length 16384 || overUse old.layers.length new.layers.length 4096)) 0x1502
    upd fun _ => new
    ok

/-- SCALE_DECLARE. -/
def execScaleDeclare (q : CmdIn) (s : State) : Host.Outcome State Fault Refusal :=
  descriptor { op := 0x61, issuer := fromC
               fields := fun d => bodyOnly d [(8, 12)] && countOk (field d 16 2) 16384 && decide (field d 18 2 < 4096)
               body := scaleDeclareBody } q s

end Sys2Proof.Machine
end

