-- ==== Sys2Proof/Machine/Dispatch.lean ====
section
/-!
DEFINITION. The meaning of each command: one arm per constructor.
-/

namespace Sys2Proof.Machine

def exec (i : Instr) (s : State) : Host.Outcome State Fault Refusal :=
  match i with
  | .nop t => Sys2Proof.Machine.execNop t s
  | .jmp t => Sys2Proof.Machine.execJmp t s
  | .beq t => Sys2Proof.Machine.execBeq t s
  | .bne t => Sys2Proof.Machine.execBne t s
  | .bltu t => Sys2Proof.Machine.execBltu t s
  | .loop t => Sys2Proof.Machine.execLoop t s
  | .endProg t => Sys2Proof.Machine.execEndProg t s
  | .add t => Sys2Proof.Machine.execAdd t s
  | .sub t => Sys2Proof.Machine.execSub t s
  | .and t => Sys2Proof.Machine.execAnd t s
  | .or t => Sys2Proof.Machine.execOr t s
  | .xor t => Sys2Proof.Machine.execXor t s
  | .shl t => Sys2Proof.Machine.execShl t s
  | .shr t => Sys2Proof.Machine.execShr t s
  | .sra t => Sys2Proof.Machine.execSra t s
  | .minu t => Sys2Proof.Machine.execMinu t s
  | .maxu t => Sys2Proof.Machine.execMaxu t s
  | .mul t => Sys2Proof.Machine.execMul t s
  | .divu t => Sys2Proof.Machine.execDivu t s
  | .remu t => Sys2Proof.Machine.execRemu t s
  | .addi t => Sys2Proof.Machine.execAddi t s
  | .subi t => Sys2Proof.Machine.execSubi t s
  | .andi t => Sys2Proof.Machine.execAndi t s
  | .ori t => Sys2Proof.Machine.execOri t s
  | .xori t => Sys2Proof.Machine.execXori t s
  | .shli t => Sys2Proof.Machine.execShli t s
  | .shri t => Sys2Proof.Machine.execShri t s
  | .srai t => Sys2Proof.Machine.execSrai t s
  | .minui t => Sys2Proof.Machine.execMinui t s
  | .maxui t => Sys2Proof.Machine.execMaxui t s
  | .muli t => Sys2Proof.Machine.execMuli t s
  | .divui t => Sys2Proof.Machine.execDivui t s
  | .remui t => Sys2Proof.Machine.execRemui t s
  | .li t => Sys2Proof.Machine.execLi t s
  | .lui t => Sys2Proof.Machine.execLui t s
  | .lds t => Sys2Proof.Machine.execLds t s
  | .sts t => Sys2Proof.Machine.execSts t s
  | .rdsize t => Sys2Proof.Machine.execRdsize t s
  | .rdid t => Sys2Proof.Machine.execRdid t s
  | .movg t => Sys2Proof.Machine.execMovg t s
  | .rdg t => Sys2Proof.Machine.execRdg t s
  | .dset t => Sys2Proof.Machine.execDset t s
  | .dseti t => Sys2Proof.Machine.execDseti t s
  | .dld t => Sys2Proof.Machine.execDld t s
  | .dst t => Sys2Proof.Machine.execDst t s
  | .attach t => Sys2Proof.Machine.execAttach t s
  | .detach t => Sys2Proof.Machine.execDetach t s
  | .waitr t => Sys2Proof.Machine.execWaitr t s
  | .consume t => Sys2Proof.Machine.execConsume t s
  | .ringptr t => Sys2Proof.Machine.execRingptr t s
  | .dmov t => Sys2Proof.Machine.execDmov t s
  | .sowLineFetch cl st env => Sys2Proof.Machine.execSowLineFetch cl st env s
  | .sowLineArrive cl st => Sys2Proof.Machine.execSowLineArrive cl st s
  | .passAcc t => Sys2Proof.Machine.execPassAcc t s
  | .passOw t => Sys2Proof.Machine.execPassOw t s
  | .passStart cl up => Sys2Proof.Machine.execPassStart cl up s
  | .rowSettle cl row up => Sys2Proof.Machine.execRowSettle cl row up s
  | .drain t => Sys2Proof.Machine.execDrain t s
  | .drainStart cl up env => Sys2Proof.Machine.execDrainStart cl up env s
  | .drainRowWrite cl env => Sys2Proof.Machine.execDrainRowWrite cl env s
  | .vld t => Sys2Proof.Machine.execVld t s
  | .vst t => Sys2Proof.Machine.execVst t s
  | .vadd t => Sys2Proof.Machine.execVadd t s
  | .vsub t => Sys2Proof.Machine.execVsub t s
  | .vmul t => Sys2Proof.Machine.execVmul t s
  | .vfma t => Sys2Proof.Machine.execVfma t s
  | .vmax t => Sys2Proof.Machine.execVmax t s
  | .vmin t => Sys2Proof.Machine.execVmin t s
  | .vcmplt t => Sys2Proof.Machine.execVcmplt t s
  | .vsel t => Sys2Proof.Machine.execVsel t s
  | .vbcast t => Sys2Proof.Machine.execVbcast t s
  | .vexp2 t => Sys2Proof.Machine.execVexp2 t s
  | .vlog2 t => Sys2Proof.Machine.execVlog2 t s
  | .vrcp t => Sys2Proof.Machine.execVrcp t s
  | .vrsq t => Sys2Proof.Machine.execVrsq t s
  | .vsum t => Sys2Proof.Machine.execVsum t s
  | .vamax t => Sys2Proof.Machine.execVamax t s
  | .vtopkclr t => Sys2Proof.Machine.execVtopkclr t s
  | .vtopk t => Sys2Proof.Machine.execVtopk t s
  | .vtopkrd t => Sys2Proof.Machine.execVtopkrd t s
  | .scget t => Sys2Proof.Machine.execScget t s
  | .scamax t => Sys2Proof.Machine.execScamax t s
  | .chkeq t => Sys2Proof.Machine.execChkeq t s
  | .ptile t => Sys2Proof.Machine.execPtile t s
  | .wait t => Sys2Proof.Machine.execWait t s
  | .tbnd t => Sys2Proof.Machine.execTbnd t s
  | .boundaryLateExpiry cl => Sys2Proof.Machine.execBoundaryLateExpiry cl s
  | .execTile q => Sys2Proof.Machine.execExecTile q s
  | .execLayers q => Sys2Proof.Machine.execExecLayers q s
  | .layerBoundary src => Sys2Proof.Machine.execLayerBoundary src s
  | .bwdRunSelect src => Sys2Proof.Machine.execBwdRunSelect src s
  | .wgradFenceSignal src => Sys2Proof.Machine.execWgradFenceSignal src s
  | .execOptim q => Sys2Proof.Machine.execExecOptim q s
  | .memCopy q => Sys2Proof.Machine.execMemCopy q s
  | .memXwOpen q => Sys2Proof.Machine.execMemXwOpen q s
  | .memXwAdd q up => Sys2Proof.Machine.execMemXwAdd q up s
  | .memXwClose q up => Sys2Proof.Machine.execMemXwClose q up s
  | .objAlloc q => Sys2Proof.Machine.execObjAlloc q s
  | .objFree q => Sys2Proof.Machine.execObjFree q s
  | .objDeferredFree idx => Sys2Proof.Machine.execObjDeferredFree idx s
  | .objMap q => Sys2Proof.Machine.execObjMap q s
  | .objUnmap q => Sys2Proof.Machine.execObjUnmap q s
  | .fenceAlloc q => Sys2Proof.Machine.execFenceAlloc q s
  | .fenceFree q => Sys2Proof.Machine.execFenceFree q s
  | .fenceSignal q => Sys2Proof.Machine.execFenceSignal q s
  | .fenceWait q => Sys2Proof.Machine.execFenceWait q s
  | .fenceGrant q => Sys2Proof.Machine.execFenceGrant q s
  | .fenceAccept q => Sys2Proof.Machine.execFenceAccept q s
  | .stepMark m => Sys2Proof.Machine.execStepMark m s
  | .scaleDeclare q => Sys2Proof.Machine.execScaleDeclare q s
  | .keyLoad q => Sys2Proof.Machine.execKeyLoad q s
  | .collRun q => Sys2Proof.Machine.execCollRun q s
  | .collHeaderExchange src peer h => Sys2Proof.Machine.execCollHeaderExchange src peer h s
  | .collPhase p => Sys2Proof.Machine.execCollPhase p s
  | .collClosingExchange src r env => Sys2Proof.Machine.execCollClosingExchange src r env s
  | .collFinalExchange src up env => Sys2Proof.Machine.execCollFinalExchange src up env s
  | .collAbort src peer => Sys2Proof.Machine.execCollAbort src peer s
  | .collTimeoutExpiry src => Sys2Proof.Machine.execCollTimeoutExpiry src s
  | .optDigest q => Sys2Proof.Machine.execOptDigest q s
  | .digestExchange src others => Sys2Proof.Machine.execDigestExchange src others s
  | .ckptWrite q => Sys2Proof.Machine.execCkptWrite q s
  | .ckptLoad q => Sys2Proof.Machine.execCkptLoad q s
  | .ctxCreate q => Sys2Proof.Machine.execCtxCreate q s
  | .ctxResume q => Sys2Proof.Machine.execCtxResume q s
  | .ctxReset q => Sys2Proof.Machine.execCtxReset q s
  | .ctxTeardown q => Sys2Proof.Machine.execCtxTeardown q s
  | .queueCreate q => Sys2Proof.Machine.execQueueCreate q s
  | .queueDelete q => Sys2Proof.Machine.execQueueDelete q s
  | .sysNop q => Sys2Proof.Machine.execSysNop q s
  | .sysColophon q => Sys2Proof.Machine.execSysColophon q s
  | .qdbTail fn page q tail => Sys2Proof.Machine.execQdbTail fn page q tail s
  | .mqEnable w => Sys2Proof.Machine.execMqEnable w s
  | .devColophonStart fn => Sys2Proof.Machine.execDevColophonStart fn s
  | .registerWrite w => Sys2Proof.Machine.execRegisterWrite w s
  | .intSet w => Sys2Proof.Machine.execIntSet w s
  | .msixUnmask fn vector => Sys2Proof.Machine.execMsixUnmask fn vector s
  | .devBadaccCntRead fn => Sys2Proof.Machine.execDevBadaccCntRead fn s
  | .hifMemrejCntRead fn => Sys2Proof.Machine.execHifMemrejCntRead fn s
  | .fallowReq fn cl req => Sys2Proof.Machine.execFallowReq fn cl req s
  | .idleDelayExpiry cl => Sys2Proof.Machine.execIdleDelayExpiry cl s
  | .flashClearDone cl => Sys2Proof.Machine.execFlashClearDone cl s
  | .bind b => Sys2Proof.Machine.execBind b s
  | .release b => Sys2Proof.Machine.execRelease b s
  | .partReset b => Sys2Proof.Machine.execPartReset b s
  | .resetDrained part => Sys2Proof.Machine.execResetDrained part s
  | .vfFlr vf => Sys2Proof.Machine.execVfFlr vf s
  | .clusterRemove cl => Sys2Proof.Machine.execClusterRemove cl s
  | .caseFlushDone way => Sys2Proof.Machine.execCaseFlushDone way s
  | .sliceEnd part us => Sys2Proof.Machine.execSliceEnd part us s
  | .starveExpiry c => Sys2Proof.Machine.execStarveExpiry c s
  | .preemptSwitch part us overrun => Sys2Proof.Machine.execPreemptSwitch part us overrun s
  | .partDbgHold w => Sys2Proof.Machine.execPartDbgHold w s
  | .sealLineRead l => Sys2Proof.Machine.execSealLineRead l s
  | .sealVerifyDone q latency => Sys2Proof.Machine.execSealVerifyDone q latency s
  | .verifyTimeout q => Sys2Proof.Machine.execVerifyTimeout q s
  | .sealLineWrite l data => Sys2Proof.Machine.execSealLineWrite l data s
  | .sealPartialWrite l mask data => Sys2Proof.Machine.execSealPartialWrite l mask data s
  | .counterEvict ch level blk => Sys2Proof.Machine.execCounterEvict ch level blk s
  | .keyCacheFill kid => Sys2Proof.Machine.execKeyCacheFill kid s
  | .keyidRetireDone kid => Sys2Proof.Machine.execKeyidRetireDone kid s
  | .caseLineAccess l write ecc => Sys2Proof.Machine.execCaseLineAccess l write ecc s
  | .harrowPatrolRead ch line err => Sys2Proof.Machine.execHarrowPatrolRead ch line err s
  | .harrowEraseLine ch err => Sys2Proof.Machine.execHarrowEraseLine ch err s
  | .epochAdvance q => Sys2Proof.Machine.execEpochAdvance q s
  | .egressSample p => Sys2Proof.Machine.execEgressSample p s
  | .egressEnqueue p stamped payload => Sys2Proof.Machine.execEgressEnqueue p stamped payload s
  | .egressRelease p => Sys2Proof.Machine.execEgressRelease p s
  | .sealHalt h => Sys2Proof.Machine.execSealHalt h s
  | .proofChunkCheck p => Sys2Proof.Machine.execProofChunkCheck p s
  | .refereePassDone q err => Sys2Proof.Machine.execRefereePassDone q err s
  | .suspectClear cl => Sys2Proof.Machine.execSuspectClear cl s
  | .lagWindow rates => Sys2Proof.Machine.execLagWindow rates s
  | .spdmRequest r => Sys2Proof.Machine.execSpdmRequest r s
  | .tdiConfigChange c => Sys2Proof.Machine.execTdiConfigChange c s
  | .stopInterface vf => Sys2Proof.Machine.execStopInterface vf s
  | .ideRxFail stream => Sys2Proof.Machine.execIdeRxFail stream s
  | .cxlMemRead addr env => Sys2Proof.Machine.execCxlMemRead addr env s
  | .cxlMemWrite addr mask data poison env => Sys2Proof.Machine.execCxlMemWrite addr mask data poison env s
  | .hostSnoop kind addr => Sys2Proof.Machine.execHostSnoop kind addr s
  | .hostReadError src err ring => Sys2Proof.Machine.execHostReadError src err ring s
  | .hostWriteRefused w => Sys2Proof.Machine.execHostWriteRefused w s
  | .stagingMap w => Sys2Proof.Machine.execStagingMap w s
  | .stagingUnmap w => Sys2Proof.Machine.execStagingUnmap w s
  | .ctnEnable fn port enable => Sys2Proof.Machine.execCtnEnable fn port enable s
  | .linkReset fn port => Sys2Proof.Machine.execLinkReset fn port s
  | .trainRetryExpiry port => Sys2Proof.Machine.execTrainRetryExpiry port s
  | .trainingTimeout port => Sys2Proof.Machine.execTrainingTimeout port s
  | .identityRecord port rec lanes => Sys2Proof.Machine.execIdentityRecord port rec lanes s
  | .attestationEvidence port ev => Sys2Proof.Machine.execAttestationEvidence port ev s
  | .attestTimeout port => Sys2Proof.Machine.execAttestTimeout port s
  | .portRetrain port fecBurst => Sys2Proof.Machine.execPortRetrain port fecBurst s
  | .retrainTimeout port => Sys2Proof.Machine.execRetrainTimeout port s
  | .hopAuthFail port => Sys2Proof.Machine.execHopAuthFail port s
  | .replayExhausted port => Sys2Proof.Machine.execReplayExhausted port s
  | .hopRekey port ok => Sys2Proof.Machine.execHopRekey port ok s
  | .haltFrame port => Sys2Proof.Machine.execHaltFrame port s
  | .creditReturn port vc cls units => Sys2Proof.Machine.execCreditReturn port vc cls units s
  | .packetInject p => Sys2Proof.Machine.execPacketInject p s
  | .packetReceive p => Sys2Proof.Machine.execPacketReceive p s
  | .lossPacket l => Sys2Proof.Machine.execLossPacket l s
  | .linkReport r => Sys2Proof.Machine.execLinkReport r s
  | .vc0CreditTimeout port => Sys2Proof.Machine.execVc0CreditTimeout port s
  | .pairAttest dev ev => Sys2Proof.Machine.execPairAttest dev ev s
  | .pairAttestTimeout dev => Sys2Proof.Machine.execPairAttestTimeout dev s
  | .pairClose dev ack => Sys2Proof.Machine.execPairClose dev ack s
  | .planLoad fn plan => Sys2Proof.Machine.execPlanLoad fn plan s
  | .frtOpen w => Sys2Proof.Machine.execFrtOpen w s
  | .getEvidence m => Sys2Proof.Machine.execGetEvidence m s
  | .keyGen m => Sys2Proof.Machine.execKeyGen m s
  | .keyRelease m => Sys2Proof.Machine.execKeyRelease m s
  | .shareSubmit m => Sys2Proof.Machine.execShareSubmit m s
  | .releaseExport m => Sys2Proof.Machine.execReleaseExport m s
  | .lcAdvance m => Sys2Proof.Machine.execLcAdvance m s
  | .jobDrop m => Sys2Proof.Machine.execJobDrop m s
  | .pwrOkRise sbMode => Sys2Proof.Machine.execPwrOkRise sbMode s
  | .uvWarn rail mv => Sys2Proof.Machine.execUvWarn rail mv s
  | .railRecovered rail mv => Sys2Proof.Machine.execRailRecovered rail mv s
  | .uvReset rail => Sys2Proof.Machine.execUvReset rail s
  | .thermalGovernorTick readings => Sys2Proof.Machine.execThermalGovernorTick readings s
  | .powerCapTick watts => Sys2Proof.Machine.execPowerCapTick watts s
  | .thermalTrip sensor reading => Sys2Proof.Machine.execThermalTrip sensor reading s
  | .slumberReq fn => Sys2Proof.Machine.execSlumberReq fn s
  | .slumberReqClear fn => Sys2Proof.Machine.execSlumberReqClear fn s
  | .warm fn => Sys2Proof.Machine.execWarm fn s
  | .refclkLoss r => Sys2Proof.Machine.execRefclkLoss r s
  | .refclkReturn r => Sys2Proof.Machine.execRefclkReturn r s
  | .getSensor sensor => Sys2Proof.Machine.execGetSensor sensor s
  | .readJournal seq => Sys2Proof.Machine.execReadJournal seq s
  | .sbLcAdvance token => Sys2Proof.Machine.execSbLcAdvance token s
  | .journalWrite f => Sys2Proof.Machine.execJournalWrite f s
  | .journalCompaction f => Sys2Proof.Machine.execJournalCompaction f s
  | .stage fn => Sys2Proof.Machine.execStage fn s
  | .stageDone b => Sys2Proof.Machine.execStageDone b s
  | .activate fn => Sys2Proof.Machine.execActivate fn s
  | .discard fn => Sys2Proof.Machine.execDiscard fn s
  | .commitSvn fn => Sys2Proof.Machine.execCommitSvn fn s
  | .registerRead r => Sys2Proof.Machine.execRegisterRead r s
  | .reservedDescriptor op q => Sys2Proof.Machine.execReservedDescriptor op q s
  | .reservedInstruction cls op t => Sys2Proof.Machine.execReservedInstruction cls op t s
  | .secMbReservedOpcode op m => Sys2Proof.Machine.execSecMbReservedOpcode op m s
  | .sidebandUnknownCommand code => Sys2Proof.Machine.execSidebandUnknownCommand code s
  | .jtagAccess j => Sys2Proof.Machine.execJtagAccess j s
  | .cxlLinkUp rate width => Sys2Proof.Machine.execCxlLinkUp rate width s
  | .cxlRetrain rate width => Sys2Proof.Machine.execCxlRetrain rate width s
  | .dramTHot stack hot => Sys2Proof.Machine.execDramTHot stack hot s
  | .bindQuiesced => Sys2Proof.Machine.execBindQuiesced s
  | .releaseDrained => Sys2Proof.Machine.execReleaseDrained s
  | .pf0Flr => Sys2Proof.Machine.execPf0Flr s
  | .debugHoldExpiry => Sys2Proof.Machine.execDebugHoldExpiry s
  | .linkTrainFail => Sys2Proof.Machine.execLinkTrainFail s
  | .linkDown => Sys2Proof.Machine.execLinkDown s
  | .ideGraceExpiry => Sys2Proof.Machine.execIdeGraceExpiry s
  | .pwrOkFall => Sys2Proof.Machine.execPwrOkFall s
  | .bootDone => Sys2Proof.Machine.execBootDone s
  | .bootImageFail => Sys2Proof.Machine.execBootImageFail s
  | .activationTimeout => Sys2Proof.Machine.execActivationTimeout s
  | .braceMaxExpiry => Sys2Proof.Machine.execBraceMaxExpiry s
  | .slumberEnter => Sys2Proof.Machine.execSlumberEnter s
  | .getStatus => Sys2Proof.Machine.execGetStatus s
  | .warmReset => Sys2Proof.Machine.execWarmReset s
  | .linkRetry => Sys2Proof.Machine.execLinkRetry s
  | .wake => Sys2Proof.Machine.execWake s
  | .hoursTick => Sys2Proof.Machine.execHoursTick s

end Sys2Proof.Machine
end

