-- ==== Sys2Proof/Safety.lean ====
section
/-!
DEFINITION. The terms in which claims are stated: runs of the device, when an instruction of tile code issues, when a command at
the head of a queue is fetched and passes its checks, and the canonical form of the state's tables.
-/

namespace Sys2Proof.Machine

/-- The step at a state answers a next state. -/
def State.runs (s : State) : Prop := ∃ t, step s = .next t

/-- A state that `k` steps from `s` reach. -/
def State.reaches (s t : State) (k : Nat) : Prop :=
  match k with
  | 0 => t = s
  | k + 1 => ∃ u, step s = .next u ∧ State.reaches u t k

/-- The instruction that a cluster's running slot is about to issue: the slot and the program, and the program counter lies in
the code (R77, R82). -/
structure Issuing (s : State) (t : TileOp) (a : TileAt) (x : Slot) (p : Prog) : Prop where
  slot : s.issues t.cl.toNat = some (a, x, p)
  code : x.pc < p.words

/-- The slot as an instruction issues: it stands at no tile boundary any more (R96). -/
def Slot.go (x : Slot) : Slot := { x with boundary := false }

/-- Where a branch goes (R82). -/
def branchTo (t : TileOp) (x : Slot) : Int := (x.pc : Int) + (simm t).toInt

/-- The slot with a scalar result (R72), as the instruction retires. -/
def Slot.result (x : Slot) (r : BitVec 5) (v : Word64) : Slot := (x.go.setS r v).step

/-- What an error of the Forme store that stops no read leaves beside it (R51): a corrected single-bit error, or a double-bit error
outside every share. -/
def State.upsetSeen (s : State) (a : TileAt) (u : Upset) : State :=
  match u with
  | .formeCE => ((s.bump 0 .cl a.cl 0x50 1).errBit .cl a.cl 0 63).raise .cl a.cl 0 63
  | .formeOut =>
    let k := s.cluster a.cl
    ((s.setCluster a.cl { k with ueOut := k.ueOut + 1 }).errBit .cl a.cl 1 63).raise .cl a.cl 1 63
  | _ => s

/-- The formats of VLD and VST (R93). -/
def vectorFormat (code : Nat) : Option Fmt :=
  if code = 0 ∨ code = 1 ∨ code = 7 ∨ code = 8 ∨ code = 9 then Fmt.ofCode code else none

/-- The descriptor of a command as a number: byte i is its bits 8i + 7 to 8i. -/
def descOf (q : CmdIn) (op : Nat) : Nat := q.d.toNat * 256 + op

/-- A descriptor command has just been fetched from its queue, which held none, and whose last command's writes have reached their
controllers (R356): `v` is the state with it in flight (R325). -/
def State.fetches (s : State) (op : Nat) (q : CmdIn) (v : State) : Prop :=
  ∃ idx u, s.cmdOf q.src = none ∧ s.memBusy q.src = false ∧ s.fetch q.src = some (idx, u) ∧
    v = { u with inflight := u.inflight ++ [fetchedCmd q op idx] }

/-- A descriptor command is fetched, passes the checks of R350 on its flags (R348), its body's form, its issuer, its fence and its
wait, and nothing holds back its dispatch (R133, R382): `t` is the state in which its own effect begins. -/
def State.admits (s : State) (op : Nat) (who : Nat → Bool → Bool → Bool) (form : Nat → Bool) (q : CmdIn) (t : State) : Prop :=
  ∃ v, s.fetches op q v ∧
    let d := descOf q op
    let p := v.partOf q.src
    let w := v.sliceFor op p (ctxOf q.src)
    syncForm d (isMgmt q.src) = true ∧ form d = true ∧ who d (isMgmt q.src) (v.ctx (ctxOf q.src)).admin = true ∧
    v.syncUse q.src d = 0 ∧ (descSync d = 2 → v.waitEnd (descSlot d) (descValue d) = some 0) ∧
    v.mayDispatch op d q.src = true ∧ w.hasSlice op p (ctxOf q.src) = true ∧ t = w.countSent q.src p

end Sys2Proof.Machine
end

