-- ==== Sys2Proof/Certificates/Slice0/Obligations.lean ====
section
/-!
DEFINITION. The statements for the provers. Each docstring says which rule of the spec the statement formalises, or what it rests
on. `putSlot` stores the slot of a retired instruction, and `settle` is what follows every step of a command.
-/

open Sys2Proof Sys2Proof.Machine

/-! ## Tile code -/

/-- R82: NOP, JMP, the conditional branches and LOOP. A branch goes to pc + IMM, which lies in the code; a branch that is not taken
and NOP go to the next instruction. LOOP writes its register first.
R75: a reserved class or operation faults its command with 0x1023 CL_ILLEGAL. -/
def Obligations.ControlInstructions : Prop :=
  (∀ (s : State) (t : TileOp) (a : TileAt) (x : Slot) (p : Prog), Issuing s t a x p →
     let at' := fun (y : Slot) (pc : Nat) => Host.Outcome.next (φ := Fault) (ρ := Refusal) (s.putSlot a { y with pc := pc })
     let dest := branchTo t x
     let inCode := 0 ≤ dest ∧ dest < p.words
     let u := x.sreg t.a
     let v := x.sreg t.b
     let dec := x.go.setS t.a (u - 1)
     (fits t false false false 0 0 = true → exec (.nop t) s = at' x.go (x.pc + 1)) ∧
     (fits t false false false 0 immAll = true → inCode → exec (.jmp t) s = at' x.go dest.toNat) ∧
     (fits t true true false 0 immAll = true → (u = v → inCode) →
       exec (.beq t) s = at' x.go (if u = v then dest.toNat else x.pc + 1)) ∧
     (fits t true true false 0 immAll = true → (u ≠ v → inCode) →
       exec (.bne t) s = at' x.go (if u ≠ v then dest.toNat else x.pc + 1)) ∧
     (fits t true true false 0 immAll = true → (u.toNat < v.toNat → inCode) →
       exec (.bltu t) s = at' x.go (if u.toNat < v.toNat then dest.toNat else x.pc + 1)) ∧
     (fits t true false false 0 immAll = true → (dec.sreg t.a ≠ 0 → inCode) →
       exec (.loop t) s = at' dec (if dec.sreg t.a ≠ 0 then dest.toNat else x.pc + 1))) ∧
  (∀ (s : State) (cls : BitVec 4) (op : BitVec 6) (t : TileOp) (a : TileAt) (x : Slot) (p : Prog),
     (Instr.reservedInstruction cls op t).wellFormed = true → Issuing s t a x p →
     exec (.reservedInstruction cls op t) s = .next (s.tileFault a.cl a.ctx a.src 0x1023 0 0).settle)

/-- R83: the scalar instructions of two registers, each with its result in sA. Division by zero gives all ones and leaves the
dividend as the remainder; shifts use bits [5:0] of the amount; MINU, MAXU and the division are unsigned.
R83 with R74: the scalar instructions of a register and IMM, which is sign-extended to 64 bits; LI and LUI.
R72, R84, R85, R94, R95: what moves between registers, the Forme store and the device's sizes. LDS, STS, DLD and DST reach
aligned bytes of the context's share; RDID and RDSIZE answer for the IMM that R85 lists; CHKEQ passes where its operands are equal;
WAIT retires once the agents it names are done. -/
def Obligations.ScalarInstructions : Prop :=
  (∀ (s : State) (t : TileOp) (a : TileAt) (x : Slot) (p : Prog), Issuing s t a x p → fits t true true true 0 0 = true →
     let r := fun (v : Word64) => Host.Outcome.next (φ := Fault) (ρ := Refusal) (s.putSlot a (x.result t.a v))
     let b := x.sreg t.b
     let c := x.sreg t.c
     exec (.add t) s = r (b + c) ∧ exec (.sub t) s = r (b - c) ∧ exec (.and t) s = r (b &&& c) ∧
     exec (.or t) s = r (b ||| c) ∧ exec (.xor t) s = r (b ^^^ c) ∧ exec (.shl t) s = r (b <<< (c.toNat % 64)) ∧
     exec (.shr t) s = r (b >>> (c.toNat % 64)) ∧ exec (.sra t) s = r (b.sshiftRight (c.toNat % 64)) ∧
     exec (.minu t) s = r (if b.toNat ≤ c.toNat then b else c) ∧
     exec (.maxu t) s = r (if c.toNat ≤ b.toNat then b else c) ∧
     exec (.mul t) s = r (b * c) ∧
     exec (.divu t) s = r (if c = 0 then BitVec.allOnes 64 else BitVec.ofNat 64 (b.toNat / c.toNat)) ∧
     exec (.remu t) s = r (if c = 0 then b else BitVec.ofNat 64 (b.toNat % c.toNat))) ∧
  (∀ (s : State) (t : TileOp) (a : TileAt) (x : Slot) (p : Prog), Issuing s t a x p →
     let r := fun (v : Word64) => Host.Outcome.next (φ := Fault) (ρ := Refusal) (s.putSlot a (x.result t.a v))
     let b := x.sreg t.b
     let c := t.imm.signExtend 64
     (fits t true true false 0 immAll = true →
       exec (.addi t) s = r (b + c) ∧ exec (.subi t) s = r (b - c) ∧ exec (.andi t) s = r (b &&& c) ∧
       exec (.ori t) s = r (b ||| c) ∧ exec (.xori t) s = r (b ^^^ c) ∧ exec (.shli t) s = r (b <<< (c.toNat % 64)) ∧
       exec (.shri t) s = r (b >>> (c.toNat % 64)) ∧ exec (.srai t) s = r (b.sshiftRight (c.toNat % 64)) ∧
       exec (.minui t) s = r (if b.toNat ≤ c.toNat then b else c) ∧
       exec (.maxui t) s = r (if c.toNat ≤ b.toNat then b else c) ∧
       exec (.muli t) s = r (b * c) ∧
       exec (.divui t) s = r (if c = 0 then BitVec.allOnes 64 else BitVec.ofNat 64 (b.toNat / c.toNat)) ∧
       exec (.remui t) s = r (if c = 0 then b else BitVec.ofNat 64 (b.toNat % c.toNat))) ∧
     (fits t true false false 0 immAll = true →
       exec (.li t) s = r c ∧
       exec (.lui t) s = r (BitVec.ofNat 64 (t.imm.toNat * 2 ^ 32 + (x.sreg t.a).toNat % 2 ^ 32)))) ∧
  (∀ (s : State) (t : TileOp) (a : TileAt) (x : Slot) (p : Prog), Issuing s t a x p →
     let r := fun (u : State) (v : Word64) => Host.Outcome.next (φ := Fault) (ρ := Refusal) (u.putSlot a (x.result t.a v))
     let k := s.cluster a.cl
     let va := (x.sreg t.b + simm t).toNat
     let up := s.upsetSeen a t.up
     (fits t true true false 0 0 = true → t.a.toNat < 8 →
       exec (.movg t) s = .next (s.putSlot a (x.go.setG t.a.toNat ((x.sreg t.b).setWidth 12)).step)) ∧
     (fits t true true false 0 0 = true → t.b.toNat < 8 →
       exec (.rdg t) s = r s ((x.greg t.b.toNat).setWidth 64)) ∧
     (fits t true true false 0 immAll = true → t.up ≠ .formeUE → va % 8 = 0 → va + 8 ≤ x.formeSize →
       exec (.lds t) s = r up (BitVec.ofNat 64 (ofLe ((up.cluster a.cl).formeRead (x.formeBase + va) 8)))) ∧
     (fits t false true true 0 immAll = true → va % 8 = 0 → va + 8 ≤ x.formeSize →
       exec (.sts t) s = .next ((s.setCluster a.cl (k.formeWrite (x.formeBase + va) (leBytes 8 (x.sreg t.c).toNat))).putSlot a
         x.go.step)) ∧
     (fits t true false false 0 immAll = true → t.imm.toNat ≤ 4 →
       exec (.rdsize t) s = r s (BitVec.ofNat 64 (s.ctxSizes a.ctx t.imm.toNat))) ∧
     (fits t true false false 0 immAll = true → t.imm.toNat ≤ 2 →
       exec (.rdid t) s = r s (BitVec.ofNat 64 (if t.imm = 0 then s.clusterIndex a.ctx a.cl else if t.imm = 1 then a.cl else a.ctx))) ∧
     (fits t false true true 0 0 = true → x.sreg t.b = x.sreg t.c → exec (.chkeq t) s = .next (s.putSlot a x.go.step)) ∧
     (fits t false true false 0 0 = true →
       exec (.ptile t) s = .next (s.putSlot a { x.go.step with ptid := x.sreg t.b })) ∧
     (fits t false false false 15 0 = true → t.x ≠ 0 → (t.x.getLsbD 0 = true → k.arrayDone a.n x = true) →
       (t.x.getLsbD 1 = true ∨ t.x.getLsbD 3 = true → k.drainsDone a.n = true) → (t.x.getLsbD 3 = true → s.stored a.ctx = true) →
       exec (.wait t) s = .next (s.putSlot a x.go.step)))

/-- R82: a program counter that lies outside the code faults any instruction of tile code with 0x1025 CL_PC_RANGE, before its own
effect. -/
def Obligations.ProgramCounterRange : Prop :=
  ∀ (s : State) (i : Instr) (cls : BitVec 4) (op : BitVec 6) (t : TileOp) (a : TileAt) (x : Slot) (p : Prog),
    tileParts i = some (cls, op, t) → i.wellFormed = true → s.issues t.cl.toNat = some (a, x, p) → p.words ≤ x.pc →
    exec i s = .next (s.tileFault a.cl a.ctx a.src 0x1025 0 0).settle

/-- R84, R86, R87, R97, R522: the stream setup instructions, where their checks pass. ATTACH starts a stream with nothing fetched;
DETACH ends one with no line in flight; WAITR retires once the lines have arrived; CONSUME releases lines.
R46, R55, R88, R89, R90, R94, R95: a pass waits for the array with the operands, rows and Proof tile identifier that it
names; the identifier then rises by one. A drain joins the Gleaner's drains,
while fewer than three wait. -/
def Obligations.StreamAndPassInstructions : Prop :=
  (∀ (s : State) (t : TileOp) (a : TileAt) (x : Slot) (p : Prog), Issuing s t a x p →
     let k := s.cluster a.cl
     let va := (x.sreg t.b + simm t).toNat
     let up := s.upsetSeen a t.up
     let n := t.imm.toNat
     let d := x.dreg t.a.toNat
     let ring := (x.sreg t.b).toNat
     (∀ off len, fits t true true false 127 0 = true → t.a.toNat < 16 → descField t.x.toNat = some (off, len) →
       exec (.dset t) s = .next (s.putSlot a (x.go.setD t.a.toNat (setField d off len (x.sreg t.b).toNat)).step)) ∧
     (∀ off len, fits t true false false 127 immAll = true → t.a.toNat < 16 → descField t.x.toNat = some (off, len) →
       exec (.dseti t) s = .next (s.putSlot a (x.go.setD t.a.toNat (setField d off len n)).step)) ∧
     (fits t true true false 0 immAll = true → t.a.toNat < 16 → t.up ≠ .formeUE → va % 64 = 0 → va + 64 ≤ x.formeSize →
       exec (.dld t) s = .next (up.putSlot a (x.go.setD t.a.toNat
         (BitVec.ofNat 512 (ofLe ((up.cluster a.cl).formeRead (x.formeBase + va) 64)))).step)) ∧
     (fits t true true false 0 immAll = true → t.a.toNat < 16 → va % 64 = 0 → va + 64 ≤ x.formeSize →
       exec (.dst t) s = .next ((s.setCluster a.cl (k.formeWrite (x.formeBase + va) (leBytes 64 d.toNat))).putSlot a
         x.go.step)) ∧
     (fits t true true false 0 0 = true → t.a.toNat < 16 → t.b.toNat < 16 →
       exec (.dmov t) s = .next (s.putSlot a (x.go.setD t.a.toNat (x.dreg t.b.toNat)).step)) ∧
     (fits t true true false 3 immAll = true → t.a.toNat < 16 → x.stream t.x.toNat = none → descOk d = true →
       ¬ (dTranspose d = true ∧ isMx (dFmt d) = true) →
       (dTranspose d = true → dRows d % dGroup d = 0 ∧ dGroup d ≤ n) → dExtent d ≠ 0 →
       16 ≤ n → n ≤ 131072 → ring % 64 = 0 → ring + 64 * n ≤ x.formeSize →
       exec (.attach t) s = .next (s.putSlot a (x.go.setStream t.x.toNat (some {
         desc := d, ring := ring, size := n, fetched := 0, arrived := 0, consumed := 0, flight := [], group := [],
         stopped := false })).step)) ∧
     (fits t false false false 3 0 = true → (∀ m, x.stream t.x.toNat = some m → m.flight = []) →
       exec (.detach t) s = .next (s.putSlot a
         (if (x.stream t.x.toNat).isSome then (x.go.setStream t.x.toNat none).step else x.go.step))) ∧
     (∀ m, x.stream t.x.toNat = some m →
       (fits t false false false 3 immAll = true → 1 ≤ n → n ≤ s.lookahead a.cl m → m.consumed + n ≤ m.arrived →
         exec (.waitr t) s = .next (s.putSlot a x.go.step)) ∧
       (fits t false false false 3 immAll = true → m.consumed + n ≤ m.arrived →
         exec (.consume t) s = .next (s.putSlot a
           (x.go.setStream t.x.toNat (some { m with consumed := m.consumed + n })).step)) ∧
       (fits t true false false 3 0 = true →
         exec (.ringptr t) s = .next (s.putSlot a (x.result t.a (BitVec.ofNat 64 (m.ring + 64 * (m.consumed % m.size)))))))) ∧
  (∀ (s : State) (t : TileOp) (a : TileAt) (x : Slot) (p : Prog), Issuing s t a x p →
     let i := t.imm.toNat
     let k := s.cluster a.cl
     let fa := bits i 31 28
     let fb := bits i 27 24
     let sa := bits i 23 21
     let sb := bits i 20 18
     let kch := bits i 17 13
     let row := (x.greg (t.x.toNat / 16)).toNat + bits i 11 0
     let rows := bits i 24 12
     let sampled := s.samples a.cl a.ctx x.ptid
     let pass := fun (ow : Bool) => s.setCluster a.cl { k with worked := true, passWait := some {
       slot := a.n, ow := ow, fa := BitVec.ofNat 4 fa, fb := BitVec.ofNat 4 fb, srcA := BitVec.ofNat 3 sa,
       srcB := BitVec.ofNat 3 sb, addrA := x.sreg t.a, addrB := x.sreg t.b, kch := kch, row := x.galBase + row,
       ptid := x.ptid, done := 0, behind := k.drains.length, sampled := sampled, got := [], crcs := [] } }
     (∀ chunk top, fits t true true false 0x70 0xFFFFEFFF = true → passForm fa fb = some (chunk, top) → 1 ≤ kch → kch ≤ top →
       x.sourceOk sa fa = true → x.sourceOk sb fb = true → (sa = 4 → (x.sreg t.a).toNat % 64 = 0) →
       (sb = 4 → (x.sreg t.b).toNat % 64 = 0) → row + 128 ≤ x.galRows → k.passWait = none →
       (sampled = true → s.captureFull a.cl (passBytes fa fb kch) = false) →
       exec (.passAcc t) s = .next ((pass false).putSlot a { x.go with ptid := x.ptid + 1 }.step) ∧
       exec (.passOw t) s = .next ((pass true).putSlot a { x.go with ptid := x.ptid + 1 }.step)) ∧
     (fits t true true false 0x70 0x01FFFFFF = true → 1 ≤ rows → rows ≤ 4096 → (x.sreg t.b).toNat % 64 = 0 →
       (x.sreg t.b).toNat + 64 ≤ x.formeSize → row + rows ≤ x.galRows →
       k.drains.length ≤ 2 →
       exec (.drain t) s = .next ((s.setCluster a.cl { k with worked := true, drains := k.drains ++ [
         { slot := a.n, row := x.galBase + row, rows := rows, dest := x.sreg t.a, recAt := x.sreg t.b }] }).putSlot a
         x.go.step)))

/-- R82, R96: TBND and END retire at a tile boundary: the array and the Gleaner have done with the slot, and no stream of it has a
line in flight. What a boundary brings (R63, R64: the vector registers become undefined) follows. -/
def Obligations.TileBoundary : Prop :=
  ∀ (s : State) (t : TileOp) (a : TileAt) (x : Slot) (p : Prog), Issuing s t a x p →
    fits t false false false 0 0 = true → (s.cluster a.cl).arrayDone a.n x = true → (s.cluster a.cl).drainsDone a.n = true →
    (∀ e ∈ x.streams, ∀ m, e.2 = some m → m.flight = []) →
    exec (.tbnd t) s = .next ((s.putSlot a { x.go.step with boundary := true }).boundaryReached a).settle ∧
    exec (.endProg t) s = .next (((s.putSlot a { x.go with ended := true, streams := [], boundary := true }).programEnd
      a).boundaryReached a).settle

/-- R93, R119, R120: the lane operations of the vector engine. Lane n of vA is the operation on lane n of the sources; the operations
that carry a residue (R276) are free of a mismatch.
R62, R63, R92, R93, R127, R128: loads and stores of vectors, the reductions of a vector to a scalar, the top-k list and the
scales. -/
def Obligations.VectorInstructions : Prop :=
  (∀ (s : State) (t : TileOp) (a : TileAt) (x : Slot) (p : Prog), Issuing s t a x p →
     let k := s.cluster a.cl
     let b := fun i => lane (k.vreg t.b.toNat) i
     let c := fun i => lane (k.vreg t.c.toNat) i
     let d := fun i => lane (k.vreg (t.x.toNat / 4)) i
     let r := fun (f : Nat → Word32) => Host.Outcome.next (φ := Fault) (ρ := Refusal)
       ((s.setCluster a.cl (k.setV t.a.toNat (ofLanes f))).putSlot a x.go.step)
     (fits t true true true 0 0 = true →
       (t.up ≠ .residue → exec (.vadd t) s = r fun i => fadd (b i) (c i)) ∧
       (t.up ≠ .residue → exec (.vsub t) s = r fun i => fsub (b i) (c i)) ∧
       (t.up ≠ .residue → exec (.vmul t) s = r fun i => fmul (b i) (c i)) ∧
       exec (.vmax t) s = r (fun i => fmax (b i) (c i)) ∧ exec (.vmin t) s = r (fun i => fmin (b i) (c i)) ∧
       exec (.vcmplt t) s = r (fun i => if (f32 (b i)).lt (f32 (c i)) then 0x3F800000 else 0)) ∧
     (fits t true true true 0x7C 0 = true →
       (t.up ≠ .residue → exec (.vfma t) s = r fun i => ffma (b i) (c i) (d i)) ∧
       exec (.vsel t) s = r (fun i => if (f32 (d i)).isZero then c i else b i)) ∧
     (fits t true true false 0 0 = true →
       exec (.vbcast t) s = r (fun _ => (x.sreg t.b).setWidth 32) ∧
       (t.up ≠ .residue → exec (.vexp2 t) s = r fun i => toF32 (Num.exp2 (f32 (b i)))) ∧
       (t.up ≠ .residue → exec (.vlog2 t) s = r fun i => toF32 (Num.log2 (f32 (b i)))) ∧
       (t.up ≠ .residue → exec (.vrcp t) s = r fun i => toF32 (Num.recip (f32 (b i)))) ∧
       (t.up ≠ .residue → exec (.vrsq t) s = r fun i => toF32 (Num.rsqrt (f32 (b i)))))) ∧
  (∀ (s : State) (t : TileOp) (a : TileAt) (x : Slot) (p : Prog), Issuing s t a x p →
     let k := s.cluster a.cl
     let va := (x.sreg t.b + simm t).toNat
     let up := s.upsetSeen a t.up
     let vb := (List.range 256).map (lane (k.vreg t.b.toNat))
     (∀ f, fits t true true false 15 immAll = true → vectorFormat t.x.toNat = some f → va % 64 = 0 →
       va + 32 * f.width ≤ x.formeSize →
       (t.up ≠ .formeUE →
         exec (.vld t) s = .next ((up.setCluster a.cl ((up.cluster a.cl).setV t.a.toNat (ofLanes fun i =>
           toF32 (f.decode ((ofLe ((up.cluster a.cl).formeRead (x.formeBase + va) (32 * f.width)) >>> (f.width * i))
             % 2 ^ f.width))))).putSlot a x.go.step)) ∧
       (let l := (List.range 256).map fun i => f.convert (f32 (lane (k.vreg t.a.toNat) i))
        let w := s.setCluster a.cl (k.formeWrite (x.formeBase + va) (packBits f.width l))
        let part := (w.ctx a.ctx).part.toNat
        exec (.vst t) s = .next ((if w.quiet a then w else
          w.fromData (count2 part .scl (a.cl / 32) 0x60 (l.filter (·.sat)).length ++
            count2 part .scl (a.cl / 32) 0x64 (l.filter (·.under)).length)).putSlot a x.go.step))) ∧
     (fits t true true false 0 0 = true →
       (t.up ≠ .residue → exec (.vsum t) s = .next (s.putSlot a (x.result t.a ((vsumTree vb).setWidth 64)))) ∧
       exec (.vamax t) s = .next (s.putSlot a (x.result t.a
         ((toF32 ((vb.map fun w => (f32 w).abs).foldl Num.maxMag (.fin false 0 0))).setWidth 64)))) ∧
     (fits t false false false 0 immAll = true → 1 ≤ t.imm.toNat → t.imm.toNat ≤ 1024 →
       exec (.vtopkclr t) s = .next ((s.setCluster a.cl { k with topk := [], k := t.imm.toNat }).putSlot a x.go.step)) ∧
     (fits t false true true 0 0 = true → k.k ≠ 0 →
       let cand := (List.range 256).map fun n =>
         (lane (k.vreg t.b.toNat) n, (x.sreg t.c + BitVec.ofNat 64 n).setWidth 32)
       let good := cand.filter fun e => !(f32 e.1).isNan
       let w := s.setCluster a.cl { k with topk := (good.foldl (fun l e => topkInsert e l) k.topk).take k.k }
       exec (.vtopk t) s = .next ((if good.length < 256 then w.fromData [.count 0 .vec a.cl 0x40 (256 - good.length), .cond .vec a.cl 1 63]
         else w).putSlot a x.go.step)) ∧
     (fits t false true false 0 0 = true → k.k ≠ 0 → (x.sreg t.b).toNat % 64 = 0 → (x.sreg t.b).toNat + 8 * k.k ≤ x.formeSize →
       exec (.vtopkrd t) s = .next ((s.setCluster a.cl (k.formeWrite (x.formeBase + (x.sreg t.b).toNat)
         (((k.topk ++ List.replicate (k.k - k.topk.length) (0x7FC00000, 0xFFFFFFFF)).take k.k).flatMap fun (e : Word32 × Word32) =>
           leBytes 4 e.1.toNat ++ leBytes 4 e.2.toNat))).putSlot a x.go.step)) ∧
     (∀ z, s.tensor a.ctx t.imm.toNat = some z →
       (fits t true false false 0 0xFFFF = true →
         exec (.scget t) s = .next (s.putSlot a (x.result t.a ((scale2 (s.scaleFor a t.imm.toNat z)).setWidth 64)))) ∧
       (fits t false true false 0 0xFFFF = true →
         exec (.scamax t) s = .next ((if s.quiet a then s
           else s.reportMax a.ctx t.imm.toNat (a.cl / 32) ((x.sreg t.b).setWidth 32)).putSlot a x.go.step))))

/-- The frame of the scalar instructions (R83): whatever sA receives, no other register of the slot, no other slot, no other cluster
and no other part of the device changes; s0 still reads zero (R72); the program counter goes to the next instruction. -/
def Obligations.ScalarFrame : Prop :=
  ∀ (s : State) (t : TileOp) (a : TileAt) (x : Slot) (p : Prog) (i : Instr), Issuing s t a x p →
    (i ∈ [Instr.add t, .sub t, .and t, .or t, .xor t, .shl t, .shr t, .sra t, .minu t, .maxu t, .mul t, .divu t, .remu t] ∧
        fits t true true true 0 0 = true) ∨
      (i ∈ [Instr.addi t, .subi t, .andi t, .ori t, .xori t, .shli t, .shri t, .srai t, .minui t, .maxui t, .muli t, .divui t,
          .remui t] ∧ fits t true true false 0 immAll = true) →
    ∃ u y, exec i s = .next u ∧ u = { s with clusters := u.clusters } ∧ (∀ c, c ≠ a.cl → u.cluster c = s.cluster c) ∧
      u.cluster a.cl = { s.cluster a.cl with slots := (u.cluster a.cl).slots } ∧
      (∀ n, n ≠ a.n → (u.cluster a.cl).slot n = (s.cluster a.cl).slot n) ∧ (u.cluster a.cl).slot a.n = some y ∧
      y = { x with s := y.s, pc := x.pc + 1, boundary := false } ∧ (∀ r, r ≠ t.a → y.sreg r = x.sreg r) ∧ y.sreg 0 = 0

/-- R52, R53, R65, R87, R99: the stream engines of the running slot. A fetch adds the next line of the order to the lines in
flight; the oldest line in flight enters its ring slot, or, with TRANSPOSE, its group, whose lines enter once it is complete. A
boundary that comes too late faults the command with 0x1003.
R56 to R61, R66, R90, R91: the oldest drain starts once its rows are settled; what it reads answers its record and its rows. With
ZERO its rows are then zeroed. With DEST_MEM the rows wait for their writes, and else they are written to the Forme store, each with
its reports; a residue mismatch stands at the row that the event names. A drain of a stopped slot only finishes.
R58, R90: the epilogue of one element, step by step: dequantisation, bias, activation, residual, output scale, each a rounded
FP32 operation.
R57, R59, R60, R61, R66: the next row of the running drain is written to memory, through the context's mappings, and reported; a
residue mismatch at it faults the command and leaves the rows before it written; a row of a stopped slot is discarded. -/
def Obligations.ArrayEngines : Prop :=
  (∀ (s : State) (cl : BitVec 7) (a : TileAt) (x : Slot) (p : Prog), s.issues cl.toNat = some (a, x, p) →
     let k := s.cluster a.cl
     exec (.boundaryLateExpiry cl) s = .next (s.tileFault a.cl a.ctx a.src 0x1003 0 0).settle ∧
     ∀ (st : BitVec 2) (m : Stream), x.stream st.toNat = some m →
       let source := sourceLine m.desc m.fetched
       (∀ env b u y, m.stopped = false → m.fetched < dTotal m.desc → m.fetched - m.consumed < s.lookahead a.cl m →
         m.flight.length < 256 →
         sowRead a env source.1 (sourceBytes m.desc source.1 source.2) s = .ok b u → (u.cluster a.cl).slot a.n = some y →
         exec (.sowLineFetch cl st env) s = .next (u.putSlot a (y.setStream st.toNat
           (some { m with fetched := m.fetched + 1, flight := m.flight ++ [lineAt 0 b] })))) ∧
       (∀ d rest, m.flight = d :: rest →
         (dTranspose m.desc = false →
           exec (.sowLineArrive cl st) s = .next ((s.setCluster a.cl
             (k.setForme ((x.formeBase + ringAddr m m.arrived) / 64) d)).putSlot a (x.setStream st.toNat
               (some { m with flight := rest, group := [], arrived := m.arrived + 1 })))) ∧
         (dTranspose m.desc = true → m.group.length + 1 ≠ dGroup m.desc →
           exec (.sowLineArrive cl st) s = .next ((s.setCluster a.cl k).putSlot a (x.setStream st.toNat
               (some { m with flight := rest, group := m.group ++ [d] })))) ∧
         (dTranspose m.desc = true → m.group.length + 1 = dGroup m.desc →
           let lines := transposed (codeWidth (dFmt m.desc)) (m.group ++ [d])
           exec (.sowLineArrive cl st) s = .next ((s.setCluster a.cl
             (((List.range lines.length).zip lines).foldl (fun (k : Cluster) (e : Nat × LineData) =>
               k.setForme ((x.formeBase + ringAddr m (m.arrived + e.1)) / 64) e.2) k)).putSlot a (x.setStream st.toNat
                 (some { m with flight := rest, group := [], arrived := m.arrived + lines.length })))))) ∧
  (∀ (s : State) (cl : BitVec 7) (up : Upset) (row : Nat) (env : Env) (a : TileAt) (x : Slot) (d : Drain) (rest : List Drain)
     (r : Nat) (rows : List EpiRow) (v w : State),
     let k := s.cluster cl.toNat
     let t := s.setCluster cl.toNat { k with
       drains := rest, passWait := k.passWait.map fun p => { p with behind := p.behind - 1 } }
     let zeroed := if epiZero r then v.setCluster a.cl ((v.cluster a.cl).zeroGalley d.row d.rows) else v
     let out := drainRows a.n r d rows (if up = .residue then some row else none)
     k.drains = d :: rest → k.drainReady d = true →
     (k.voidSlot d.slot = true → exec (.drainStart cl ⟨up, row⟩ env) s = .next (t.closeStep cl.toNat)) ∧
     (k.voidSlot d.slot = false → s.slotAt cl.toNat d.slot = some (a, x) → drainRead a x d up t = .ok (r, rows) v →
       (epiMem r = true → exec (.drainStart cl ⟨up, row⟩ env) s =
         .next (zeroed.setCluster a.cl { zeroed.cluster a.cl with rowsOut := out })) ∧
       (epiMem r = false → drainToForme a x out zeroed = .ok () w → exec (.drainStart cl ⟨up, row⟩ env) s = .next w))) ∧
  (∀ (r gw : Nat) (dq os bias : Word32) (res : Option Word32),
     let v1 := fmul (BitVec.ofNat 32 (Fmt.FP32.convert (Fmt.GW40.decode gw)).bits) dq
     let v2 := if epiBias r then fadd v1 bias else v1
     let v3 := activate (epiAct r) v2
     let v4 := match res with
       | some x => fadd v3 x
       | none => v3
     (epiElem r gw dq os bias res).out = fmul v4 os ∧ (epiElem r gw dq os bias res).mag = (f32 v4).abs) ∧
  (∀ (s : State) (cl : BitVec 7) (env : Env) (a : TileAt) (x : Slot) (row : RowOut) (rest : List RowOut) (u : State),
     let k := s.cluster cl.toNat
     let t := s.setCluster cl.toNat { k with rowsOut := rest }
     k.rowsOut = row :: rest →
     (k.voidSlot row.slot = true → exec (.drainRowWrite cl env) s = .next (t.closeStep cl.toNat)) ∧
     (k.voidSlot row.slot = false → s.slotAt cl.toNat row.slot = some (a, x) →
       (row.bad = true → exec (.drainRowWrite cl env) s = .next (t.tileFault a.cl a.ctx a.src 0x1002 0 0).settle) ∧
       (row.bad = false → vwriteWhole { src := a.src, env := env } .clWrite 0x1301 row.parts t = .ok () u →
         exec (.drainRowWrite cl env) s = .next (u.rowReport a row))))

/-- R46, R55, R56, R115: a waiting pass starts once the array is free and no earlier drain has still to read one of its rows; its
rows are then unsettled. It runs the chunks whose blocks have arrived, and at its last chunk it leaves the array and is counted.
A row whose products have left the tree settles. A pass and a row of a stopped slot (R66) only finish: the pass is counted, and
`closeStep` zeroes what has finished.
R115: one chunk of a pass. Every word of its 128 rows becomes the chunk's contribution, where the pass overwrites and the chunk is
its first, or the word plus the contribution; each word has 40 bits (R104). -/
def Obligations.PassRuns : Prop :=
  (∀ (s : State) (cl : BitVec 7),
     let k := s.cluster cl.toNat
     (∀ p a x u q, k.passRun = none → k.passWait = some p → k.mayStart p = true → k.voidSlot p.slot = false →
       s.slotAt cl.toNat p.slot = some (a, x) →
       passChunks a p.kch (s.setCluster cl.toNat { k with
         passRun := some p, passWait := none,
         unsettled := k.unsettled ++ p.rows.filter fun r => !k.unsettled.contains r }) = .ok () u →
       (u.cluster a.cl).passRun = some q →
       (q.done < q.kch → exec (.passStart cl .clean) s = .next u) ∧
       (q.done = q.kch → q.sampled = false →
         exec (.passStart cl .clean) s = .next (u.setCluster a.cl { u.cluster a.cl with
           passRun := none, passes := (u.cluster a.cl).passes + 1 }))) ∧
     (∀ row up, k.unsettled.contains row.toNat = true → up ≠ .residue →
       k.inTree row.toNat = false →
       exec (.rowSettle cl row up) s = .next ((s.setCluster cl.toNat { k with
         unsettled := k.unsettled.filter (· != row.toNat) }).closeStep cl.toNat)) ∧
     (∀ p up, k.passRun = some p → k.voidSlot p.slot = true →
       exec (.passStart cl up) s = .next ((s.setCluster cl.toNat k).voidPass cl.toNat)) ∧
     ((s.voidPass cl.toNat) = (s.setCluster cl.toNat { k with passRun := none, passes := k.passes + 1 }).closeStep cl.toNat)) ∧
  (∀ (k : Cluster) (p : Pass) (ba bb r j : Nat), r < 128 → j < 128 →
     (k.runChunk p ba bb).galWord (p.row + r) j =
       (if p.ow = true ∧ p.done = 0 then contribution p.fa.toNat p.fb.toNat ba bb r j
         else accumulate (k.galWord (p.row + r) j) (contribution p.fa.toNat p.fb.toNat ba bb r j)) % 2 ^ 40)

/-! ## Commands of queues -/

/-- R353, R354, R355, R360, R361: SYS_NOP completes with code 0 and no results. SYS_COLOPHON forms its record, of the device for a
management queue and else of the issuer's partition, gives it the next generation, and writes it, or its first 64 bytes with status
0x1A64, where MAXLEN is short. Its own dispatch lies before the instant of the record: its context stands in it as with the
command in flight.
R336 to R341: the fence commands. FENCE_ALLOC makes a free slot LIVE with its value, RELEASE and mirror address, and answers the
slot; FENCE_FREE runs the sequence of R341; FENCE_SIGNAL raises the value, never lowers it; FENCE_WAIT completes once the value is
reached and else holds its queue; FENCE_GRANT names rights of another context, at once active within the partition; FENCE_ACCEPT
makes a grant to the issuer active. -/
def Obligations.SystemCommands : Prop :=
  (∀ (s : State) (q : CmdIn) (t : State),
     (s.admits 0xD1 fromCM (fun d => bodyOnly d []) q t → exec (.sysNop q) s = .next (t.finish q.src 0 0 0 0).settle) ∧
     (s.admits 0xD2 fromCM (fun d => bodyOnly d [(8, 12)] && decide (64 ≤ field d 16 4)) q t →
       let d := descOf q 0xD2
       let at' := (t.setCmd q.src fun c => { c with stage := .storing 0 0 0 0 }).settleCtxs
       let gen := (at'.coloGen + 1).toNat
       let record := at'.colophon (if isMgmt q.src then none else some (t.partOf q.src)) gen
       let cut := if record.length ≤ field d 16 4 then record else record.take 64
       let status := if record.length ≤ field d 16 4 then 0 else 0x1A64
       let v := { at' with coloGen := at'.coloGen + 1 }
       (isMgmt q.src = true → exec (.sysColophon q) s =
         .next ((v.hostWrite .data q.src none (field d 8 8) cut).finish q.src status gen record.length 0).settle) ∧
       (∀ w, isMgmt q.src = false → egressPut { src := q.src, env := q.env } .copy (field d 8 8) cut v = .ok () w →
         exec (.sysColophon q) s = .next (w.finish q.src status gen record.length 0).settle))) ∧
  (∀ (s : State) (q : CmdIn) (t : State),
     let c := ctxOf q.src
     (∀ i u, s.admits 0x41 fromC (fun d => bodyOnly d [(8, 24)] && field d 24 8 % 16 == 0) q t →
       let d := descOf q 0x41
       field d 8 8 ≤ field d 16 8 → t.fencesOf (t.partOf q.src) < t.reg (fnOf (t.partOf q.src)) .cmdp 0 0x6C 0 →
       t.pick 65536 t.fences.length (fun i => (t.fence i).isNone) = (some i, u) →
       exec (.fenceAlloc q) s = .next ((u.fenceTo (some q.src) i {
         value := BitVec.ofNat 64 (field d 8 8), release := BitVec.ofNat 64 (field d 16 8), state := .live, code := 0,
         owner := BitVec.ofNat 12 c, mirror := BitVec.ofNat 64 (field d 24 8), grants := [] }).finish q.src 0 i 0 0).settle) ∧
     (∀ f, s.admits 0x42 fromC (fun d => bodyOnly d [(8, 2)]) q t →
       let slot := field (descOf q 0x42) 8 2
       t.fence slot = some f → f.owner.toNat = c →
       let u := t.freeFence (some q.src) slot
       exec (.fenceFree q) s =
         .next (((u.wake (2 * u.inflight.length + 1)).sweepFences (some q.src)).finish q.src 0 0 0 0).settle) ∧
     (∀ f, s.admits 0x43 fromC (fun d => bodyOnly d [(8, 2), (16, 8)]) q t →
       let slot := field (descOf q 0x43) 8 2
       let v := BitVec.ofNat 64 (field (descOf q 0x43) 16 8)
       t.fence slot = some f → f.may c false = true → v.toNat ≤ f.release.toNat →
       exec (.fenceSignal q) s = .next ((if f.state = .live then t.fenceTo (some q.src) slot
         { f with value := if f.value.toNat < v.toNat then v else f.value } else t).finish q.src 0 0 0 0).settle) ∧
     (∀ f, s.admits 0x44 fromC (fun d => bodyOnly d [(8, 2), (16, 8)]) q t →
       let slot := field (descOf q 0x44) 8 2
       let v := BitVec.ofNat 64 (field (descOf q 0x44) 16 8)
       t.fence slot = some f → f.may c true = true → v.toNat ≤ f.release.toNat → f.state = .live →
       exec (.fenceWait q) s = .next (if v.toNat ≤ f.value.toNat then t.finish q.src 0 0 0 0
         else t.setCmd q.src fun k => { k with stage := .fenceWait }).settle) ∧
     (∀ f, s.admits 0x45 fromC
         (fun d => bodyOnly d [(8, 5)] && decide (field d 10 2 < 4096) && decide (field d 12 1 < 4)) q t →
       let d := descOf q 0x45
       let g := field d 10 2
       let rest := f.grants.filter fun x => x.ctx.toNat != g
       t.fence (field d 8 2) = some f → f.owner.toNat = c → (t.ctx g).bound = true → rest.length < 8 →
       exec (.fenceGrant q) s = .next ((t.setFence (field d 8 2) (some { f with grants := rest ++ [{
         ctx := BitVec.ofNat 12 g, wait := (field d 12 1).testBit 0, signal := (field d 12 1).testBit 1,
         active := decide ((t.ctx g).part.toNat = t.partOf q.src) || f.grants.any fun x => x.ctx.toNat == g && x.active }] })).finish
           q.src 0 0 0 0).settle) ∧
     (∀ f, s.admits 0x46 fromC (fun d => bodyOnly d [(8, 4)] && decide (field d 10 2 < 4096)) q t →
       let d := descOf q 0x46
       t.fence (field d 8 2) = some f → f.owner.toNat = field d 10 2 → (∃ g ∈ f.grants, g.ctx.toNat = c) →
       exec (.fenceAccept q) s = .next ((t.setFence (field d 8 2) (some { f with
         grants := f.grants.map fun g => if g.ctx.toNat = c then { g with active := true } else g })).finish q.src 0 0 0 0).settle))

/-- R270, R328 to R335: the object commands. OBJ_ALLOC gives a free index its next generation and the descriptor's place; the handle
is its result. OBJ_FREE frees an object without holds, a device object through its KeyID's retirement, and defers the free of a
held one with status 0x1A10. OBJ_MAP adds a range and a hold, OBJ_UNMAP removes the range that begins at its address.
R270, R331: the last hold on a RETIRING object has gone: a host object is free and its fence is signalled, a device object goes
through its KeyID's retirement. When a retirement without an object ends, the KeyID is BOUND again and RETIRE_DONE is raised; with
one, its granules are renewed first. -/
def Obligations.ObjectCommands : Prop :=
  (∀ (s : State) (q : CmdIn) (t : State),
     let c := ctxOf q.src
     let p := t.partOf q.src
     (∀ i u, s.admits 0x31 fromC (fun d => bodyOnly d [(8, 4), (16, 16)] && decide (field d 8 1 < 4) && decide (field d 9 1 < 8)
           && (!(field d 8 1).testBit 0 || field d 9 3 == 0)) q t →
       let d := descOf q 0x31
       let host := (field d 8 1).testBit 0
       let off := field d 24 8
       let len := field d 16 8
       let k := t.kid (field d 10 2)
       len % 4096 = 0 → off % 4096 = 0 → len ≠ 0 → (t.objsOf p).length < t.reg (fnOf p) .cmdp 0 0x68 0 % 2 ^ 21 →
       (host = true → (field d 8 1).testBit 1 = false) →
       (host = false → off + len ≤ (t.part p).extentBytes (field d 9 1) ∧
         (∀ e ∈ t.objsOf p, e.2.host = false → e.2.ext.toNat = field d 9 1 → off + len ≤ e.2.base ∨ e.2.base + e.2.len ≤ off) ∧
         k.state = .keyed ∧ k.owner.toNat = p ∧
         (∀ e ∈ t.objs, ∀ o, e.2 = some o → o.host = false → o.kid.toNat ≠ field d 10 2) ∧
         ((field d 8 1).testBit 1 = true → (leAt (blobBytes k.blob) 20 4).testBit 7 = true)) →
       t.pick (2 ^ 20) t.objs.length (fun i => (t.obj i).isNone) = (some i, u) →
       let g := if 4095 ≤ tget 0 u.objGen i then 1 else tget 0 u.objGen i + 1
       exec (.objAlloc q) s = .next (State.finish { u.setObj i (some {
         gen := g, owner := BitVec.ofNat 12 c, part := BitVec.ofNat 6 p, pasid := (u.ctx c).pasid, host := host,
         staging := (field d 8 1).testBit 1, ext := BitVec.ofNat 3 (field d 9 1), kid := BitVec.ofNat 16 (field d 10 2), base := off,
         len := len, retiring := false, freeing := false, holds := 0, signal := none, signaller := 0 }) with
           objGen := tput 0 u.objGen i g } q.src 0 (g * 2 ^ 20 + i) 0 0).settle) ∧
     (∀ i o, s.admits 0x32 fromCM (fun d => bodyOnly d [(8, 4)]) q t →
       let d := descOf q 0x32
       getObj p (field d 8 4) t = .ok (i, o) t → (isMgmt q.src = true ∨ o.owner.toNat = c ∨ (t.ctx c).admin = true) →
       (o.holds = 0 → o.host = true → exec (.objFree q) s = .next ((t.setObj i none).finish q.src 0 0 0 0).settle) ∧
       (o.holds = 0 → o.host = false → exec (.objFree q) s = .next (((t.setObj i (some { o with
         retiring := true, freeing := true })).retireKid o.kid (some i)).setCmd q.src fun k => { k with stage := .freeing i }).settle) ∧
       (o.holds ≠ 0 → exec (.objFree q) s = .next ((t.setObj i (some { o with
         retiring := true
         signal := if descSync d = 1 then some (BitVec.ofNat 16 (descSlot d), BitVec.ofNat 32 (descValue d).toNat) else none
         signaller := BitVec.ofNat 12 c })).finish q.src 0x1A10 0 0 0).settle)) ∧
     (∀ i o, s.admits 0x33 fromC (fun d => bodyOnly d [(8, 5), (16, 24)] && decide (field d 12 1 < 8)) q t →
       let d := descOf q 0x33
       let x := t.ctx c
       let va := field d 16 8
       let off := field d 24 8
       let len := field d 32 8
       getObj p (field d 8 4) t = .ok (i, o) t → len ≠ 0 → va % 4096 = 0 → off % 4096 = 0 → len % 4096 = 0 → va + len ≤ 2 ^ 48 →
       off + len ≤ o.len → x.ranges.length < 256 → t.rangesAll < 131072 → t.rangesOf p < t.reg (fnOf p) .iommu 0 0x44 0 →
       (∀ r ∈ x.ranges, va + len ≤ r.va ∨ r.va + r.len ≤ va) →
       exec (.objMap q) s = .next (((t.addHold i 1).setCtx c { x with ranges := x.ranges ++ [{
         va := va, len := len, handle := BitVec.ofNat 32 (field d 8 4), off := off, read := (field d 12 1).testBit 0,
         write := (field d 12 1).testBit 1, exec := (field d 12 1).testBit 2 }] }).finish q.src 0 0 0 0).settle) ∧
     (∀ r, s.admits 0x34 fromC (fun d => bodyOnly d [(16, 8)]) q t →
       let va := field (descOf q 0x34) 16 8
       ((t.ctx c).ranges.find? fun r => r.va == va) = some r →
       exec (.objUnmap q) s = .next (((t.dropHold (r.handle.toNat % 2 ^ 20)).setCtx c { t.ctx c with
         ranges := (t.ctx c).ranges.filter fun y => y.va != va }).finish q.src 0 0 0 0).settle)) ∧
  (∀ (s : State),
     (∀ (idx : BitVec 20) (o : Obj), s.obj idx.toNat = some o → o.retiring = true → o.freeing = false → o.holds = 0 →
       (o.host = true → exec (.objDeferredFree idx) s = .next ((s.setObj idx.toNat none).freeSignal o).settle) ∧
       (o.host = false → exec (.objDeferredFree idx) s = .next ((s.setObj idx.toNat (some { o with
         retiring := true, freeing := true })).retireKid o.kid (some idx.toNat)).settle)) ∧
     (∀ (kid : BitVec 16) (idx : Option Nat), (s.retiring.find? fun e => e.1 == kid) = some (kid, idx) →
       (idx.bind s.obj = none → exec (.keyidRetireDone kid) s = .next (s.retireEnd kid.toNat idx).settle) ∧
       (∀ o u, idx.bind s.obj = some o → renewGranules o s = .ok () u →
         exec (.keyidRetireDone kid) s = .next (u.retireEnd kid.toNat idx).settle)) ∧
     (∀ (kid : Nat), s.retireEnd kid none = ({ s.setKid kid { KeyId.reset with state := .bound, owner := (s.kid kid).owner } with
         retiring := s.retiring.filter fun e => e.1.toNat != kid } : State).raise .seal 0 2 63))

/-- The queue that a descriptor describes at byte 24, as it is made: empty, at index 0 (R324). -/
def queueOf (num d : Nat) : Queue where
  num := BitVec.ofNat 14 num
  ring := BitVec.ofNat 64 (field d 24 8)
  cpl := BitVec.ofNat 64 (field d 32 8)
  size := field d 40 4
  irq := (field d 44 1).testBit 0
  vector := BitVec.ofNat 8 (field d 45 1)
  prio := BitVec.ofNat 8 (field d 46 1)
  head := 0
  tail := 0
  done := 0

/-- R319, R322, R324, R326, R342, R343, R344, R380, R381: the context and queue commands, each with all that its completion needs.
CTX_CREATE binds a free context, with its PASID and its ADMIN flag, and gives it queue 0; a pinned one takes its shares as well.
CTX_RESUME takes a FAULTED context back to IDLE. CTX_RESET and CTX_TEARDOWN of a context that is not bound complete at once; of one
whose programs all stand at a tile boundary they run the sequence, and the command completes with it; and else the context enters
TEARDOWN and the command waits. QUEUE_CREATE makes the queue and answers its number; QUEUE_DELETE completes.
R326, R342, R343, R344, R356: what the completions of these commands bring. The sequence of a teardown ends with its context
unbound and clear, that of a reset with its context IDLE and every queue of it empty, and each then completes the commands that
wait for it. A command completes as soon as no write of it to device memory waits; the completion of a QUEUE_DELETE deletes the
queue that it names.
R324, R326: a queue that QUEUE_CREATE or CTX_CREATE makes has the descriptor's ring, completion ring, size, interrupt and
priority, and stands empty at index 0; its number is one that no queue has.
Where a command takes a number that is free, in OBJ_ALLOC, FENCE_ALLOC and the creation of a queue: one exists while fewer than
`top` are in use, and the number taken is free and below `top`. -/
def Obligations.ContextCommands : Prop :=
  (∀ (s : State) (q : CmdIn) (t : State),
     let target := fun (op : Nat) (c : Nat) => c = field (descOf q op) 8 2 ∧
       (isMgmt q.src = true ∨ ((t.ctx c).bound = true ∧ (t.ctx c).part.toNat = t.partOf q.src ∧ c ≠ ctxOf q.src))
     let tear := fun (c : Nat) (reset : Bool) => t.setCtx c { t.ctx c with
       state := .teardown, code := 0, tdReset := reset, tdWait := [q.src] }
     let queues := fun (u : State) => u.ctxs.foldl (fun m e => m + e.2.queueList.length) 0
     (∀ num w, s.admits 0xB1 fromM (fun d => bodyOnly d [(8, 8), (24, 24)] && decide (field d 8 2 < 4096) && decide (field d 10 1 < 64)
           && decide (field d 11 1 < 2) && decide (field d 12 4 < 2 ^ 20)) q t →
       let d := descOf q 0xB1
       let c := field d 8 2
       let p := field d 10 1
       let u := t.setCtx c { Context.reset with
         bound := true, part := BitVec.ofNat 6 p, pasid := BitVec.ofNat 20 (field d 12 4), admin := (field d 11 1).testBit 0
         pinned := (t.ctxShare c).testBit 31 }
       let made := w.setQueue c 0 (some (queueOf num d))
       (t.ctx c).bound = false → (t.part p).state = .active → p < 63 →
       (∀ e ∈ t.ctxs, e.2.bound = true → e.2.pasid.toNat ≠ field d 12 4) →
       (t.ctxsOf p).length < bits (t.ctxQuota p) 28 16 → queueDescOk d = true → u.queuesOf p < u.ctxQuota p % 2 ^ 15 →
       u.pick 16384 (queues u) u.queueFree = (some num, w) →
       ((t.ctxShare c).testBit 31 = false → exec (.ctxCreate q) s = .next (made.finish q.src 0 0 0 0).settle) ∧
       (∀ y, (t.ctxShare c).testBit 31 = true → made.fit c p (fun _ => true) = some y →
         exec (.ctxCreate q) s = .next ((made.place c p y).finish q.src 0 0 0 0).settle)) ∧
     (∀ c, s.admits 0xB2 fromA (fun d => bodyOnly d [(8, 2)] && decide (field d 8 2 < 4096)) q t → target 0xB2 c →
       exec (.ctxResume q) s = .next ((if (t.ctx c).state = .faulted ∧ (t.part (t.ctx c).part.toNat).state ≠ .halted then
         t.setCtx c { t.ctx c with state := .idle, code := 0 } else t).finish q.src 0 0 0 0).settle) ∧
     (∀ c, s.admits 0xB3 fromA (fun d => bodyOnly d [(8, 2)] && decide (field d 8 2 < 4096)) q t → target 0xB3 c →
       ((t.ctx c).bound = false → exec (.ctxReset q) s = .next (t.finish q.src 0 0 0 0).settle) ∧
       ((t.ctx c).bound = true → (t.ctx c).state ≠ .teardown →
         ((tear c true).atBoundary c = true → (tear c true).heldCtx c = false →
           exec (.ctxReset q) s = .next (((tear c true).tearDo c true).setCmd q.src fun k => { k with stage := .teardown }).settle) ∧
         ((tear c true).atBoundary c = false →
           exec (.ctxReset q) s = .next ((tear c true).setCmd q.src fun k => { k with stage := .teardown }).settle)) ∧
       ((t.ctx c).bound = true → (t.ctx c).state = .teardown →
         exec (.ctxReset q) s = .next ((t.setCtx c { t.ctx c with tdWait := (t.ctx c).tdWait ++ [q.src] }).setCmd q.src
           fun k => { k with stage := .teardown }).settle)) ∧
     (∀ c, s.admits 0xB4 fromA (fun d => bodyOnly d [(8, 2)] && decide (field d 8 2 < 4096)) q t → target 0xB4 c →
       ((t.ctx c).bound = false → exec (.ctxTeardown q) s = .next (t.finish q.src 0 0 0 0).settle) ∧
       ((t.ctx c).bound = true → (t.ctx c).state ≠ .teardown →
         ((tear c false).atBoundary c = true → (tear c false).heldCtx c = false →
           exec (.ctxTeardown q) s =
             .next (((tear c false).tearDo c false).setCmd q.src fun k => { k with stage := .teardown }).settle) ∧
         ((tear c false).atBoundary c = false →
           exec (.ctxTeardown q) s = .next ((tear c false).setCmd q.src fun k => { k with stage := .teardown }).settle)) ∧
       ((t.ctx c).bound = true → (t.ctx c).state = .teardown →
         exec (.ctxTeardown q) s = .next ((t.setCtx c { t.ctx c with tdWait := (t.ctx c).tdWait ++ [q.src] }).setCmd q.src
           fun k => { k with stage := .teardown }).settle)) ∧
     (∀ num w, s.admits 0xC1 fromCM
         (fun d => bodyOnly d [(8, 3), (24, 24)] && decide (field d 8 2 < 4096) && countOk (field d 10 1) 15) q t →
       let d := descOf q 0xC1
       let c := field d 8 2
       let p := (t.ctx c).part.toNat
       (t.ctx c).bound = true → (isMgmt q.src = true ∨ c = ctxOf q.src) → t.queue c (field d 10 1) = none →
       queueDescOk d = true → t.queuesOf p < t.ctxQuota p % 2 ^ 15 → t.pick 16384 (queues t) t.queueFree = (some num, w) →
       exec (.queueCreate q) s = .next ((w.setQueue c (field d 10 1) (some (queueOf num d))).finish q.src 0 num 0 0).settle) ∧
     (∀ x, s.admits 0xC2 fromCM (fun d => bodyOnly d [(8, 3)] && decide (field d 8 2 < 4096) && countOk (field d 10 1) 15) q t →
       let d := descOf q 0xC2
       let c := field d 8 2
       (t.ctx c).bound = true → (isMgmt q.src = true ∨ c = ctxOf q.src) → t.queue c (field d 10 1) = some x →
       exec (.queueDelete q) s = .next (t.finish q.src 0 0 0 0).settle)) ∧
  (∀ (s : State) (c : Nat),
     let waiters := fun (l : List QSrc) (u : State) => l.foldl (fun (v : State) x => v.finish x 0 0 0 0) u
     (∃ (u : State) (l : List QSrc), s.tearDo c false = waiters l (u.setCtx c Context.reset)) ∧
     (∃ (u : State) (l : List QSrc), s.tearDo c true = waiters l (u.setCtx c { u.ctx c with
       state := .idle, code := 0, faultQ := 0, faultIx := 0, denseTo := none, tdWait := [], tdReset := false
       queues := (u.ctx c).queues.map fun e => (e.1, e.2.map fun x => { x with head := x.tail }) })) ∧
     (∀ (q : QSrc) (code r0 r1 detail : Nat), s.memBusy q = false →
       s.finish q code r0 r1 detail = s.complete q code r0 r1 detail) ∧
     (∀ (q : QSrc) (k : Cmd), s.cmdOf q = some k → k.op = 0xC2 → (descSync k.desc = 1 → s.mirrorDenied q = false) →
       (s.complete q 0 0 0 0).queue (field k.desc 8 2) (field k.desc 10 1) = none)) ∧
  (∀ (c n d num : Nat) (s u v : State), queueDescOk d = true →
     s.queuesOf (s.ctx c).part.toNat < s.ctxQuota (s.ctx c).part.toNat % 2 ^ 15 →
     s.pick 16384 (s.ctxs.foldl (fun m e => m + e.2.queueList.length) 0) s.queueFree = (some num, u) → makeQueue c n d s = .ok num v →
     v.queue c n = some {
       num := BitVec.ofNat 14 num, ring := BitVec.ofNat 64 (field d 24 8), cpl := BitVec.ofNat 64 (field d 32 8),
       size := field d 40 4, irq := (field d 44 1).testBit 0, vector := BitVec.ofNat 8 (field d 45 1),
       prio := BitVec.ofNat 8 (field d 46 1), head := 0, tail := 0, done := 0 }) ∧
  (∀ (s : State) (top n : Nat) (free : Nat → Bool), n < top → ((List.range (n + 1)).any free = true) →
     ∃ i, (s.pick top n free).1 = some i ∧ free i = true ∧ i < top)

/-- R350, R320, R321, R354: the checks of a descriptor that is fetched, in order. A reserved opcode fails with 0x1A60; a reserved bit or a value
out of range with 0x1A61; an issuer that may not issue it with 0x1A62; none of the three breaks a fence. -/
def Obligations.DescriptorChecks : Prop :=
  ∀ (s : State) (q : CmdIn) (v : State),
    (∀ op : Byte, (Instr.reservedDescriptor op q).wellFormed = true → s.fetches op.toNat q v →
      exec (.reservedDescriptor op q) s = .next (v.fail q.src 0x1A60 0 0 false).settle) ∧
    (s.fetches 0xD1 q v → (syncForm (descOf q 0xD1) (isMgmt q.src) = false ∨ bodyOnly (descOf q 0xD1) [] = false) →
      exec (.sysNop q) s = .next (v.fail q.src 0x1A61 0 0 false).settle) ∧
    (s.fetches 0xB2 q v → syncForm (descOf q 0xB2) (isMgmt q.src) = true → bodyOnly (descOf q 0xB2) [(8, 2)] = true →
      field (descOf q 0xB2) 8 2 < 4096 → isMgmt q.src = false → (v.ctx (ctxOf q.src)).admin = false →
      exec (.ctxResume q) s = .next (v.fail q.src 0x1A62 0 0 false).settle) ∧
    (s.fetches 0xB1 q v → syncForm (descOf q 0xB1) false = true → bodyOnly (descOf q 0xB1) [(8, 8), (24, 24)] = true →
      field (descOf q 0xB1) 8 2 < 4096 → field (descOf q 0xB1) 10 1 < 64 → field (descOf q 0xB1) 11 1 < 2 →
      field (descOf q 0xB1) 12 4 < 2 ^ 20 → isMgmt q.src = false →
      exec (.ctxCreate q) s = .next (v.fail q.src 0x1A62 0 0 false).settle)

/-! ## Tile programs as commands -/

/-- R73, R101, R102, R381: EXEC_TILE reads and checks its code object, checks that the code fits the context's share, that the entry
exists and that the context may execute it, places the share, holds the object and starts the program on every cluster with
s1 to s6 from the descriptor. An entry that does not exist fails with 0x1022.
R73, R77: starting a program on the clusters of a partition leaves every other cluster as it is, and on each of the partition's
clusters fills the context's slot with the program, its entry and its arguments; a slot that a stopped program still closes (R66)
stays so until that has finished. -/
def Obligations.ExecCommands : Prop :=
  (∀ (s : State) (q : CmdIn) (t : State),
     s.admits 0x11 fromC (fun d => bodyOnly d [(8, 4), (12, 1), (16, 48)]) q t →
     let d := descOf q 0x11
     let c := ctxOf q.src
     let p := t.partOf q.src
     let h := field d 8 4
     (∀ k ∈ t.inflight, k.src ≠ q.src → ctxOf k.src = c → usesClusters k.op.toNat = true → k.started = false) →
     ∀ k u, readCode { src := q.src, env := q.env } p h t = .ok k u → k.formeMin ≤ (u.shareOf c).1 → k.galMin ≤ (u.shareOf c).2 →
       (k.starts[field d 12 1]? = none → exec (.execTile q) s = .next (u.fail q.src 0x1022 0 0).settle) ∧
       (∀ pc v w x, k.starts[field d 12 1]? = some pc → execAllowed c h k u = .ok () v → placeShares c p v = .ok () w →
         takeHold q.src h w = .ok () x →
         exec (.execTile q) s = .next ((x.startTiles q.src fun _ => {
           src := q.src, words := k.words, entry := pc, args := (List.range 6).map fun i => BitVec.ofNat 64 (field d (16 + 8 * i) 8)
           quiet := false }).setCmd q.src fun y => { y with stage := .tiles }).settle)) ∧
  (∀ (s : State) (q : QSrc) (f : Nat → Prog) (x : Placed), (s.ctx (ctxOf q)).placed = some x →
     let l := s.clustersOf (s.partOf q)
     let started := ((List.range l.length).zip l).foldl (fun (t : State) e =>
       let k := t.cluster e.2
       let closing := ((k.slot x.slot).map (·.closing)).getD false
       t.setCluster e.2 { k.setSlot x.slot (some { startSlot (ctxOf q) x (f e.1) with closing := closing }) with
         worked := true, pwr := if k.pwr = .idle then .active else k.pwr }) s
     s.startTiles q f = ((started.setCmd q fun k => { k with left := l.map (BitVec.ofNat 7) }).runHolder (s.partOf q)) ∧
     (∀ c, c ∉ l → started.cluster c = s.cluster c) ∧
     (l.Nodup → ∀ i c, l[i]? = some c →
       (started.cluster c).slot x.slot = some { startSlot (ctxOf q) x (f i) with
         closing := (((s.cluster c).slot x.slot).map (·.closing)).getD false }))

/-- R100, R101: a code object that is accepted has a header that keeps R100, and every entry lies in its code. -/
def Obligations.CodeChecked : Prop :=
  ∀ (v : Via) (p h : Nat) (s t : State) (k : CodeInfo), readCode v p h s = .ok k t →
    (∀ e ∈ k.starts, e < k.words) ∧ k.words ≤ 262144 ∧ k.starts ≠ [] ∧ k.starts.length ≤ 64 ∧ k.off % 64 = 0 ∧
    k.galMin % 128 = 0 ∧ k.galMin ≤ 4096 ∧ k.formeMin ≤ 128

/-- R197 to R199, R207, R208, R381: EXEC_LAYERS reads its table, checks every entry, the tokens and the stash, places
the share, makes a new stash with NEW, and then runs its layers from the first; the scales are those of its dispatch.
R201, R203, R204, R209, R210: the steps of a layer command whose previous run has ended. Forward, the next layer's slice is placed
and its run starts; a stash that is exhausted fails the command with 0x1A52. Backward, the run that R203 selects starts, or the
command waits, fails with its wait's code, or completes. After a WGRAD run its fence is signalled, as soon
as no write of the command to device memory waits.
R203, R212: which run follows in the backward direction. Where the deferred list is full its oldest WGRAD runs; else the next
layer's DGRAD, unless its fence has not reached its value and a deferred WGRAD can run instead; at the end the deferred WGRAD runs, and
then the command has finished. -/
def Obligations.LayerCommands : Prop :=
  (∀ (s : State) (q : CmdIn) (t : State), s.admits 0x12 fromC lyrFields q t →
     let d := descOf q 0x12
     let c := ctxOf q.src
     let p := t.partOf q.src
     let n := field d 16 2
     ∀ raw u codes v w x,
       (∀ k ∈ t.inflight, k.src ≠ q.src → ctxOf k.src = c → usesClusters k.op.toNat = true → k.started = false) →
       vread { src := q.src, env := q.env } .copy 0x1901 (field d 8 8) (128 * n) t = .ok raw u →
       let l := (List.range n).map fun i => BitVec.ofNat 1024 (leAt raw (128 * i) 128)
       ((List.range n).zip l).mapM (fun e => checkEntry q p (lyrBwd d) e.1 e.2 (l.take e.1)) u = .ok codes v →
       l.all v.entryRange = true →
       1 ≤ field d 48 4 → field d 48 4 ≤ 1048576 → field d 48 4 ≤ field d 52 4 → field d 52 4 ≤ 8388608 →
       (lyrNew d = true → checkStash q d p (codes.foldl (fun m k => max m k.2) 0) v = .ok () w) →
       (lyrNew d = false → useStash c p d l v = .ok () w) →
       placeShares c p w = .ok () x →
       let y := if lyrNew d then x.newStash c p d else x
       exec (.execLayers q) s = .next (y.setCmd q.src fun k => { k with stage := .layers {
         entries := l, code := codes.map (·.1), scales := (y.tensorsOf c).map fun e => (e.1, e.2.xNow), bwd := lyrBwd d
         fallback := lyrFall d, deferMax := if field d 44 1 = 0 then 4 else field d 44 1, tokens := BitVec.ofNat 64 (field d 48 4)
         jobTokens := BitVec.ofNat 64 (field d 52 4), next := 0, recompOf := none, run := none, deferred := [], signal := none
         place := none } }).settle) ∧
  (∀ (s : State) (src : QSrc) (r : LayerRun),
     (s.layersIdle src = some r → r.bwd = false → r.next < r.entries.length →
       (s.placeSlice (ctxOf src) r r.next = none → exec (.layerBoundary src) s = .next (s.fail src 0x1A52 0 0).settle) ∧
       (∀ y t, s.placeSlice (ctxOf src) r r.next = some (y, t) →
         exec (.layerBoundary src) s = .next (t.startRun src { r with place := some y } r.next .fwd).settle)) ∧
     (s.layersIdle src = some r → r.bwd = true →
       (∀ n k r', s.pickBwd (ctxOf src) (r.entries.length + 1) r = .run n k r' →
         exec (.bwdRunSelect src) s = .next (s.startRun src r' n k).settle) ∧
       (∀ r', s.pickBwd (ctxOf src) (r.entries.length + 1) r = .wait r' →
         exec (.bwdRunSelect src) s = .next (s.setRun src r').settle) ∧
       (∀ code, s.pickBwd (ctxOf src) (r.entries.length + 1) r = .bad code →
         exec (.bwdRunSelect src) s = .next (s.fail src code 0 0).settle) ∧
       (∀ r', s.pickBwd (ctxOf src) (r.entries.length + 1) r = .finished r' →
         exec (.bwdRunSelect src) s = .next ((s.setRun src r').endLayers src).settle)) ∧
     (∀ k pos, s.cmdOf src = some k → k.stage = .layers r → r.signal = some pos →
       let slot := entryAt (r.entry pos) 18 2
       let v := BitVec.ofNat 64 (entryAt (r.entry pos) 32 8)
       (s.memBusy src = true → exec (.wgradFenceSignal src) s = .next s) ∧
       (s.memBusy src = false → s.fenceUse (ctxOf src) slot v false ≠ 0 →
         exec (.wgradFenceSignal src) s = .next (s.fail src (s.fenceUse (ctxOf src) slot v false) 0 0).settle) ∧
       (s.memBusy src = false → s.fenceUse (ctxOf src) slot v false = 0 → s.mirrorDenied src = false →
         exec (.wgradFenceSignal src) s =
           .next (((s.setRun src { r with signal := none }).signal src slot v).endIfSpent src).settle))) ∧
  (∀ (s : State) (c n : Nat) (r : LayerRun), r.recompOf = none →
     let wgrad := fun (p : Nat) => (.run p .wgrad { r with deferred := r.deferred.filter (· != p) } : BwdPick)
     let plain := fun (p : Nat) => s.recomputes c (r.entry p) = false
     let held := fun (e : BitVec 1024) => (entryAt e 10 1).testBit 0 = true ∧
       s.fenceReached (entryAt e 16 2) (BitVec.ofNat 64 (entryAt e 24 8)) = false
     let live := fun (e : BitVec 1024) => s.waitEnd (entryAt e 16 2) (BitVec.ofNat 64 (entryAt e 24 8)) = none
     (∀ p rest, r.deferMax ≤ r.deferred.length → r.deferred = p :: rest → plain p → s.pickBwd c (n + 1) r = wgrad p) ∧
     (r.deferred.length < r.deferMax → r.next < r.entries.length → hasRun (r.entry r.next) 5 = true → plain r.next →
       (entryAt (r.entry r.next) 10 1).testBit 0 = false → s.pickBwd c (n + 1) r = .run r.next .dgrad r) ∧
     (∀ p rest, r.deferred.length < r.deferMax → r.next < r.entries.length → hasRun (r.entry r.next) 5 = true →
       held (r.entry r.next) → r.deferred = p :: rest → plain p → s.pickBwd c (n + 1) r = wgrad p) ∧
     (r.deferred.length < r.deferMax → r.next < r.entries.length → hasRun (r.entry r.next) 5 = true →
       held (r.entry r.next) → live (r.entry r.next) → r.deferred = [] → s.pickBwd c (n + 1) r = .wait r) ∧
     (∀ p rest, r.deferred.length < r.deferMax → r.entries.length ≤ r.next → r.deferred = p :: rest → plain p →
       s.pickBwd c (n + 1) r = wgrad p) ∧
     (0 < r.deferMax → r.entries.length ≤ r.next → r.deferred = [] → s.pickBwd c (n + 1) r = .finished r))

/-! ## Memory commands and exact reduction -/

/-- R148 to R156, R351: MEM_COPY and the region commands, where their operands can be read and written. MEM_XW_OPEN zeroes the
elements and answers the region and its base; MEM_XW_ADD counts one contribution and adds each element; MEM_XW_CLOSE writes the
converted elements, releases the region unless KEEP is set, and answers what was shed, non-finite and saturated. -/
def Obligations.ReductionCommands : Prop :=
  ∀ (s : State) (q : CmdIn) (t : State),
    let c := ctxOf q.src
    let p := t.partOf q.src
    let v : Via := { src := q.src, env := q.env }
    (∀ l u w, s.admits 0x21 fromC (fun d => bodyOnly d [(8, 24)] && countOk (field d 24 8) (2 ^ 40)) q t →
      let d := descOf q 0x21
      vread v .copy 0x1901 (field d 8 8) (field d 24 8) t = .ok l u → vwrite v .copy 0x1901 (field d 16 8) l u = .ok () w →
      exec (.memCopy q) s = .next (w.finish q.src 0 0 0 0).settle) ∧
    (∀ i o id b u w x y, s.admits 0x22 fromC (fun d => bodyOnly d [(8, 4), (16, 15), (32, 3)] && decide (field d 30 1 < 2)) q t →
      let d := descOf q 0x22
      let elems := field d 24 4
      let off := field d 16 8
      getObj p (field d 8 4) t = .ok (i, o) t → o.host = false → o.owner.toNat = c → off % 64 = 0 → countOk elems (2 ^ 28) = true →
      off + 16 * elems ≤ o.len → countOk (field d 28 2) 2048 = true → freeRegion p t = .ok id u →
      windowBase c ((field d 30 1).testBit 0) (field d 32 2) (field d 32 2) (field d 34 1) u = .ok b w →
      takeHold q.src (field d 8 4) w = .ok () x → objWrite v .reduce o off (List.replicate (16 * elems) 0) x = .ok () y →
      exec (.memXwOpen q) s = .next (((y.addHold i 1).setRegion id (some {
        b := b, limit := field d 28 2, contrib := 0, shed := 0, nonfin := 0, ovf := false, ovfExp := 0, ctx := BitVec.ofNat 12 c
        obj := BitVec.ofNat 32 (field d 8 4), off := off, elems := elems, residue := false })).finish
          q.src 0 id (BitVec.ofInt 64 b).toNat 0).settle) ∧
    (∀ r f n l u o w up hit, s.admits 0x23 fromC (fun d => bodyOnly d [(8, 2), (12, 8), (24, 9)]) q t →
      let d := descOf q 0x23
      let id := field d 8 2
      let first := field d 12 4
      let count := field d 16 4
      regionOf q.src id t = .ok r t → xwFmt (field d 32 1) = some (f, n) → first + count ≤ r.elems → r.contrib + 1 ≤ r.limit →
      vread v .reduce 0x1901 (field d 24 8) (n * count) t = .ok l u → regionObj r u = .ok o u →
      addElems v .reduce id o r up hit ((List.range count).map fun i =>
          { elem := first + i, first := false, win := windowOf r.b (f.decode (leAt l (n * i) n)) })
        (u.setRegion id (some { r with contrib := r.contrib + 1 })) = .ok () w →
      exec (.memXwAdd q ⟨up, hit⟩) s = .next (w.finish q.src 0 0 0 0).settle) ∧
    (∀ r f n o raw u w, s.admits 0x24 fromC (fun d => bodyOnly d [(8, 4), (16, 8)] && decide (field d 11 1 < 2)) q t →
      let d := descOf q 0x24
      let id := field d 8 2
      regionOf q.src id t = .ok r t → xwFmt (field d 10 1) = some (f, n) → r.residue = false →
      (r.ovf = true → exec (.memXwClose q .clean) s = .next ((t.releaseRegion id).fail q.src 0x2203
        (BitVec.ofInt 64 (r.ovfExp - 115)).toNat (t.elemStack r 0)).settle) ∧
      (r.ovf = false → regionObj r t = .ok o t → objRead v .reduce o r.off (16 * r.elems) t = .ok raw u →
        let out := (List.range r.elems).map fun i => xwConvert f r.b (BitVec.ofNat 128 (leAt raw (16 * i) 16))
        vwrite v .reduce 0x1901 (field d 16 8) (out.flatMap fun x => leBytes (f.width / 8) x.bits) u = .ok () w →
        let w1 := if (field d 11 1).testBit 0 then w else w.releaseRegion id
        let w2 := if r.nonfin ≠ 0 then w1.markCode 0x2204 (t.elemStack r 0) (w1.partOf q.src) else w1
        exec (.memXwClose q .clean) s = .next (w2.finish q.src (if r.nonfin = 0 then 0 else 0x2204) r.shed
          (r.nonfin + min (out.filter (·.sat)).length 0xFFFFFFFF * 2 ^ 32) 0).settle))

/-- R121, R122: what a finite contribution adds in a window of base B: its exact value in units of 2^B, where no bit lies below the
window, and else its magnitude truncated, with the loss counted; a magnitude of 2^116 units or more adds nothing and overflows.
R121, R151: exact reduction does not depend on the order: any order of the contributions gives an element the same sum and the
region the same counts and the same overflow exponent. -/
def Obligations.ReductionOrder : Prop :=
  (∀ (b : Int) (neg : Bool) (m : Nat) (e : Int),
     let w := windowOf b (.fin neg m e)
     let sign := fun (k : Nat) => if neg then -(k : Int) else (k : Int)
     (b ≤ e → m * 2 ^ (e - b).toNat < 2 ^ 116 → w.q = sign (m * 2 ^ (e - b).toNat) ∧ w.ovf = false ∧ w.shed = false) ∧
     (e < b → m / 2 ^ (b - e).toNat < 2 ^ 116 → w.q = sign (m / 2 ^ (b - e).toNat) ∧ w.ovf = false ∧
       (w.shed = true ↔ m % 2 ^ (b - e).toNat ≠ 0)) ∧
     (b ≤ e → 2 ^ 116 ≤ m * 2 ^ (e - b).toNat → w.q = 0 ∧ w.ovf = true) ∧ w.nonfin = false) ∧
  (∀ (r : Region) (x : BitVec 128) (l m : List Win), l.Perm m →
     l.foldl (fun (a : Region × BitVec 128) w => (a.1.count w, a.2 + BitVec.ofInt 128 w.q)) (r, x) =
       m.foldl (fun (a : Region × BitVec 128) w => (a.1.count w, a.2 + BitVec.ofInt 128 w.q)) (r, x))

/-! ## Collectives -/

/-- R157 to R159, R162, R166 (`gateRoom`: no gate buffer is full, R263): COLL_RUN reads its descriptor and rank table, opens its landing region where it adds, tells every peer
its header and waits for theirs, or, as the only rank, goes on at once. A peer's header is compared with this rank's: the last of
them starts the phases, and a difference fails with 0x2A03. An abort fails a rank that has not completed with 0x2A06.
R160, R164, R167: a phase of at most 4 MiB from a peer, for a collective whose context holds its slice: what moves in it moves,
and its arrival is recorded, with the skews at the last piece of a phase. In a reduction's phases a piece leaves, a piece lands,
or both, and once this rank has gathered all it goes on to the closing exchange; after that, in AR, finished sums go from rank to
rank, and in AG and A2A the blocks do; when every peer has sent all, the final exchange follows.
R152, R160 to R162: the exchanges at the end. The closing exchange lands this rank's own contribution and merges the totals of the
ranks; the first overflow re-runs the reduction in the window of B′ = the greatest exponent − 115, and a second one fails with
0x2203; in AR the finished sums then spread. The final exchange writes the sums, tells the peers, releases the landing region and
completes, with 0x2A05 where non-finite inputs were counted.
R159: a collective that still lacks a peer's header when its time expires fails with 0x2A04. -/
def Obligations.CollectiveCommands : Prop :=
  (∀ (s : State),
     (∀ (q : CmdIn) (t : State), s.admits 0x81 fromC (fun d => bodyOnly d [(8, 8)]) q t →
       let d0 := descOf q 0x81
       let p := t.partOf q.src
       let v : Via := { src := q.src, env := q.env }
       ∀ raw u tab w w4 y z,
         (t.colls.filter fun x => x.opt.isNone).length < 16 → field d0 8 8 % 64 = 0 →
         vread v .copy 0x1901 (field d0 8 8) 64 t = .ok raw u →
         let d := ofLe raw
         collDescOk d = true → (cdAdds d = true → u.scratchMapped (ctxOf q.src) d = true) →
         vread v .copy 0x1901 (field d 40 8) (2 * cdRanks d) u = .ok tab w → w.rankTableOk p tab (cdRanks d) (cdRank d) = true →
         let c := Coll.start q.src d tab (cdRanks d) .headers none
         let c := if cdRanks d = 1 then { c with stage := c.after } else c
         let w1 := { w with colls := w.colls ++ [c] }
         (cdAdds d = true → ∃ b w2 reg w3,
           windowBase (ctxOf q.src) ((field d 0 2).testBit 12) (field d 6 2) (field d 2 2) (field d 4 1) w1 = .ok b w2 ∧
           openLanding q d b w2 = .ok reg w3 ∧ w4 = w3.setColl q.src fun x => { x with base := b, region := some reg }) →
         (cdAdds d = false → w4 = w1) → w4.coll q.src = some y →
         tellAll q.src 0 (headerBytes (y.header (((w4.part p).slice.map (·.toNat)).getD 0))) w4 = .ok () z →
         exec (.collRun q) s = .next (z.setCmd q.src fun k => { k with stage := .coll }).settle) ∧
     (∀ (q : QSrc) (peer : BitVec 10) (h : CollHeader) (c : Coll), s.gateRoom = true → s.coll q = some c →
       c.stage = .headers → peer.toNat ∈ c.peers →
       let mine := c.header ((((s.part (s.partOf q)).slice).map (·.toNat)).getD 0)
       (h ≠ mine → exec (.collHeaderExchange q peer h) s = .next (s.fail q 0x2A03 0 0).settle) ∧
       (h = mine →
         let seen := if c.seen.contains peer then c.seen else c.seen ++ [peer]
         exec (.collHeaderExchange q peer h) s = .next ((s.setColl q fun x => { x with
           seen := seen, stage := if seen.length = c.peers.length then .phases else .headers }).setCmd q fun k => { k with
             stage := .coll }).settle)) ∧
     (∀ (q : QSrc) (peer : BitVec 10) (c : Coll), s.gateRoom = true → s.coll q = some c → peer.toNat ∈ c.peers →
       exec (.collAbort q peer) s = .next (s.fail q 0x2A06 0 0).settle)) ∧
  (∀ (s : State) (x : PhaseIn) (c : Coll),
     let v : Via := { src := x.src, env := x.env }
     let peer := x.peer.toNat
     (∀ t, s.gateRoom = true → s.coll x.src = some c → (c.stage = .phases ∨ c.stage = .spread) → c.opt = none → peer ∈ c.peers →
       (s.part (s.partOf x.src)).holder = some (BitVec.ofNat 12 (ctxOf x.src)) → x.data.length ≤ 2 ^ 22 →
       phaseMove v c x s = .ok () t →
       exec (.collPhase x) s = .next ((t.arrived c x).setCmd x.src fun k => { k with stage := .coll }).settle) ∧
     (∀ f w t u e, c.reduces = true → c.stage = .phases → xwFmt (cdSrcFmt c.desc.toNat) = some (f, w) →
       let goes := fun (z : State) => z.setColl x.src fun y => if y.gathered then { y with stage := .closing } else y
       (x.out = none → x.data ≠ [] → s.coll x.src = some e → landPiece v f w e x s = .ok () t →
         phaseMove v c x s = .ok () (goes t)) ∧
       (∀ o, x.out = some o → sendPiece v x.up x.hit f w c o s = .ok () t →
         (x.data = [] → phaseMove v c x s = .ok () (goes t)) ∧
         (x.data ≠ [] → t.coll x.src = some e → landPiece v f w e x t = .ok () u → phaseMove v c x s = .ok () (goes u)))) ∧
     (∀ k t u, tget 0 c.got peer < c.total →
       let goes := fun (z : State) => z.setColl x.src fun y =>
         let y := { y with got := tput 0 y.got peer (tget 0 y.got peer + k) }
         if y.peers.all fun r => decide (y.total ≤ tget 0 y.got r) then { y with stage := .final } else y
       (c.reduces = true → c.stage = .spread → x.up ≠ .residue → spreadMove v c peer x.data s = .ok k u →
         phaseMove v c x s = .ok () (goes u)) ∧
       (c.reduces = false → ownLands v .clean 0 c s = .ok () t → copyMove v c peer x.data t = .ok k u →
         phaseMove v c x s = .ok () (goes u)))) ∧
  (∀ (s : State) (q : QSrc) (c : Coll) (env : Env), s.gateRoom = true → s.coll q = some c →
     let v : Via := { src := q, env := env }
     let p := s.partOf q
     (∀ (peers : List ClosingIn) (up : Upset) (hit : Nat) (t u : State) (r : Region), c.stage = .closing →
       peers.length = c.peers.length →
       (∀ k ∈ c.peers, ∃ x ∈ peers, x.peer.toNat = k) → ownLands v up hit c s = .ok () t → c.region.bind t.region = some r →
       tellAll q 1 ([BitVec.ofNat 8 (b2n r.ovf)] ++ leBytes 2 (BitVec.ofInt 16 r.ovfExp).toNat ++ leBytes 8 r.shed
         ++ leBytes 4 r.nonfin) t = .ok () u →
       (r.ovf = false → (∀ x ∈ peers, x.ovfExp = none) →
         exec (.collClosingExchange q ⟨peers, up, hit⟩ env) s = .next ((u.setColl q fun x => { x with
           shed := (r.shed + (peers.map (·.shed.toNat)).sum) % 2 ^ 64
           nonfin := min 0xFFFFFFFF (r.nonfin + (peers.map (·.nonfin.toNat)).sum)
           stage := if cdOp x.desc.toNat = 2 && !x.peers.isEmpty then .spread else .final }).setCmd q fun k => { k with
             stage := .coll }).settle) ∧
       (r.ovf = true → (∀ x ∈ peers, x.ovfExp = none) → c.reran = true →
         exec (.collClosingExchange q ⟨peers, up, hit⟩ env) s =
           .next (u.fail q 0x2203 (BitVec.ofInt 64 (r.ovfExp - 115)).toNat 0).settle) ∧
       (∀ id, r.ovf = true → (∀ x ∈ peers, x.ovfExp = none) → c.reran = false → c.region = some id →
         let again := u.setColl q fun x => { x with
           base := r.ovfExp - 115, slots := [], landed := [], sent := [], own := false, reran := true
           stage := if x.peers.isEmpty then .closing else .phases }
         exec (.collClosingExchange q ⟨peers, up, hit⟩ env) s = .next ((((again.setRegion id (some { r with
           b := r.ovfExp - 115, contrib := 0, shed := 0, nonfin := 0, ovf := false, ovfExp := 0 })).fromData
             (count2 p .coll 0 0x58 1 ++ [.cond .coll 0 0 p])).setCmd q fun k => { k with stage := .coll }).settle))) ∧
     (∀ (t w : State), c.stage = .final → (c.reduces = true → writeSums v c s = .ok () t) →
       (c.reduces = false → ownLands v .clean 0 c s = .ok () t) →
       tellAll q 2 [] (if c.touched then t.spoilColl c else t) = .ok () w →
       let a := match c.region with
         | some r => w.releaseRegion r
         | none => w
       let a := { a with colls := a.colls.filter fun x => !decide (x.src = q) }
       let a := if p < 63 then a.bump64 (p + 1) .coll 0 0x60 1 else a
       let a := if c.nonfin ≠ 0 then a.markCode 0x2A05 0 p else a
       exec (.collFinalExchange q .clean env) s = .next (a.finish q (if c.nonfin = 0 then 0 else 0x2A05) c.shed
         (c.nonfin + (BitVec.ofInt 16 c.base).toNat * 2 ^ 32) 0).settle)) ∧
  (∀ (s : State) (src : QSrc) (c : Coll), s.gateRoom = true → s.coll src = some c → c.stage = .headers →
     exec (.collTimeoutExpiry src) s = .next (s.fail src 0x2A04 0 0).settle)

/-- R164: wire form. A group's width is the least that holds its elements, and reading what was written gives every element
back, followed by the zero elements that fill the last group. -/
def Obligations.WireForm : Prop :=
  ∀ (l : List (BitVec 128)),
    let fits := fun (w : Nat) => ∀ x ∈ l, (x.setWidth (8 * w)).signExtend 128 = x
    (1 ≤ wireWidth l ∧ wireWidth l ≤ 16 ∧ fits (wireWidth l) ∧ ∀ w, 1 ≤ w → fits w → wireWidth l ≤ w) ∧
    wireRead (wireOf (l.length / 16 + 1) l).length (wireOf (l.length / 16 + 1) l) =
      some (l ++ List.replicate ((16 - l.length % 16) % 16) 0)

/-! ## Training state -/

/-- R67, R179, R181, R182, R276, R380, R381: EXEC_OPTIM reads its hyper records and its table, places its context's shares, wakes the
partition's IDLE clusters, updates every record in order, and answers how many records it skipped and how many elements it wrote
non-finite, with 0x1411 where either is not zero. A table whose record i is the first that breaks R179 fails with 0x1410 and the
DETAIL i; a residue mismatch in a lane of cluster i fails it with 0x1402.
R186, R187: OPT_DIGEST hashes the step's groups and tells the replicas its header, with the 64-bit count, and its digest;
DIGEST_EXCHANGE, while the context holds its slice, compares. -/
def Obligations.OptimiserAndDigest : Prop :=
  (∀ (s : State) (q : CmdIn) (up : Option (BitVec 7 × Nat)) (t : State),
     s.admits 0x13 fromC (fun d => bodyOnly d [(8, 12), (24, 8)] && countOk (field d 16 4) 65535) q t →
     let d := descOf q 0x13
     let x := t.ctx (ctxOf q.src)
     let v : Via := { src := q.src, env := q.env }
     ∀ h u, (∀ k ∈ t.inflight, k.src ≠ q.src → ctxOf k.src = ctxOf q.src → usesClusters k.op.toNat = true → k.started = false) →
       vread v .copy 0x1901 (field d 24 8) 512 t = .ok h u →
       let sound := fun (l : List TRec) (r : TRec) => hyperOk h l r.hyper && (r.gradPlane :: r.planes).all x.maps
       (∀ i w, readTable v (field d 8 8) (field d 16 4) sound u = .error (.fault 0x1410 i 0) w →
         exec (.execOptim ⟨q, up⟩) s = .next (w.fail q.src 0x1410 i 0).settle) ∧
       (∀ rs w w1, readTable v (field d 8 8) (field d 16 4) sound u = .ok rs w →
         placeShares (ctxOf q.src) (w.partOf q.src) w = .ok () w1 →
         let w2 := w1.onClusters (w.partOf q.src) fun k => { k with
           worked := true, pwr := if k.pwr = .idle then .active else k.pwr }
         let run : M (List (Nat × Nat)) :=
           ((List.range rs.length).zip (rs.zip (w2.optShared (ctxOf q.src) rs))).mapM fun e => do
             laneResidue q.src up e.1
             optRecord v h e.2.2 e.2.1
         (∀ out y, run w2 = .ok out y → exec (.execOptim ⟨q, up⟩) s = .next (y.finish q.src
           (if (out.map (·.1)).sum = 0 ∧ (out.map (·.2)).sum = 0 then 0 else 0x1411) (out.map (·.1)).sum (out.map (·.2)).sum 0).settle) ∧
         (∀ i y, run w2 = .error (.fault 0x1402 0 i) y →
           exec (.execOptim ⟨q, up⟩) s = .next (y.fail q.src 0x1402 0 i).settle))) ∧
  (∀ (s : State),
     (∀ (q : CmdIn) (t : State), s.admits 0x91 fromC (fun d => bodyOnly d [(8, 12), (24, 17)] && countOk (field d 16 4) 65535
         && countOk (field d 32 2) 1024 && decide (field d 34 2 < field d 32 2) && decide (field d 40 1 < 2)) q t →
       let d := descOf q 0x91
       let x := t.ctx (ctxOf q.src)
       let v : Via := { src := q.src, env := q.env }
       let n := field d 32 2
       let hiOnly := (field d 40 1).testBit 0
       ∀ rs u tab w parts y z,
         readTable v (field d 8 8) (field d 16 4)
           (fun _ r => ((r.hi, 2 * r.count) :: (if hiOnly then [] else [(r.lo, 2 * r.count)])).all x.maps) t = .ok rs u →
         vread v .copy 0x1901 (field d 24 8) (2 * n) u = .ok tab w → w.rankTableOk (t.partOf q.src) tab n (field d 34 2) = true →
         (rs.mapM fun r => digestPart v (x.steps.toNat % 16) hiOnly r) w = .ok parts y →
         let dig : BitVec 256 := (Config.shake256 (leBytes 8 x.steps.toNat ++ parts.flatten)).setWidth 256
         let desc := b2n hiOnly + n * 2 ^ (8 * 36) + field d 34 2 * 2 ^ (8 * 38) + field d 36 4 * 2 ^ (8 * 48)
         let c := Coll.start q.src desc tab n (if n = 1 then .phases else .headers) (some (dig, x.steps))
         let y := { y with colls := y.colls ++ [c] }
         tellAll q.src 0 (headerBytes (c.header (((y.part (t.partOf q.src)).slice.map (·.toNat)).getD 0))
           ++ leBytes 32 dig.toNat) y = .ok () z →
         exec (.optDigest q) s = .next (z.setCmd q.src fun k => { k with stage := .coll }).settle) ∧
     (∀ (src : QSrc) (others : List (BitVec 256)) (c : Coll) (dig : BitVec 256) (steps : Word64) (t : State),
       s.gateRoom = true → s.coll src = some c → c.opt = some (dig, steps) → c.stage = .phases →
       (s.part (s.partOf src)).holder = some (BitVec.ofNat 12 (ctxOf src)) → others.length = c.peers.length →
       tellAll src 2 [] s = .ok () t →
       let code := digestOutcome dig others
       let k := ctxOf src
       let u := { t with colls := t.colls.filter fun x => !decide (x.src = src) }
       let bad := { u.ctx k with suspect := true, rollbackAt := if code = 0x1A43 then some steps else (u.ctx k).rollbackAt }
       let w := if code = 0 then u
         else ((if code = 0x1A42 then u else u.setCtx k bad).detect ((if code = 0x1A42 then u else u.setCtx k bad).partOf src))
       exec (.digestExchange src others) s = .next (w.finish src code steps.toNat (dig.toNat % 2 ^ 64) 0).settle))

/-- R181: the update of an element of a QUANTISED record: the second moment from its code and its block's maximum, the first moment,
and the master. Every operation is one rounded FP32 operation. -/
def Obligations.OptimiserUpdate : Prop :=
  ∀ (r : TRec) (h : List Byte) (k : Nat) (g : List Word32) (x : OptState) (i : Nat) (p gi : Word32)
    (code : Nat), r.quant = true → g.length = r.count → x.p.length = r.count → x.v1.length = r.count → (r.mEn = true → x.m.length = r.count) →
    i < r.count → x.p[i]? = some p → g[i]? = some gi → x.v1[i]? = some code →
    let hv := fun j => hyperAt h r.hyper j
    let y := optUpdate r h k g x
    let c := fdiv (fnat code) (fnat 255)
    let v := ffma (hv 3) (fmul (at32 x.v2.toArray (i / 32)) (fmul c c)) (fmul (hv 4) (ffma gi gi (hv 6)))
    let m := ffma (hv 1) (widenBf (x.m.getD i 0)) (fmul (hv 2) gi)
    let n := if r.mEn then fmul m (hv 9) else gi
    let u := fdiv n (fadd (fsqrt (fmul v (hv 10))) (hv 5))
    y.p[i]? = some (ffma (fmul (hv 0) (scale2 k) ^^^ 0x80000000) (ffma (hv 7) p u) p) ∧
    (r.mEn = true → y.m[i]? = some (toBf m)) ∧ y.v1.length = r.count

/-- R187: the outcome of the digest comparison: 0 where every replica agrees; with a majority of more than half, 0x1A42 for a rank of
the majority and 0x1A41 for another; else 0x1A43 for every rank. -/
def Obligations.DigestOutcome : Prop :=
  ∀ (own : BitVec 256) (others : List (BitVec 256)),
    let all := own :: others
    let most := fun (v : BitVec 256) => all.length < 2 * all.count v
    ((∀ x ∈ others, x = own) → digestOutcome own others = 0) ∧
    (¬ (∀ x ∈ others, x = own) →
      (most own → digestOutcome own others = 0x1A42) ∧
      (∀ v ∈ others, v ≠ own → most v → digestOutcome own others = 0x1A41) ∧
      ((∀ v ∈ all, ¬ most v) → digestOutcome own others = 0x1A43))

/-- R188 to R193: CKPT_WRITE refuses a SUSPECT context with 0x1A49, needs the partition's job, a free entry and enough room, takes the
next CKPT_ID, forms the header, the manifest and the sections, hands the file to the egress path and enters it as PROVISIONAL.
R192: CKPT_LOAD reads and checks the file's form and its manifest tag, what its promotion record says, and every section it takes,
and then writes the pieces, all or none, restores the step count, and, from a PROMOTED file, clears SUSPECT and starts the dense interval; a dense
interval whose end the count has reached is over (`reached`). -/
def Obligations.CheckpointCommands : Prop :=
  (∀ (s : State) (q : CmdIn) (t : State),
     s.admits 0xA1 fromC
       (fun d => bodyOnly d [(8, 13), (24, 24)] && countOk (field d 16 4) 65535 && decide (field d 20 1 < 2)) q t →
     let d := descOf q 0xA1
     let c := ctxOf q.src
     let p := t.partOf q.src
     let x := t.ctx c
     let v : Via := { src := q.src, env := q.env }
     let master := decide (field d 20 1 = 1)
     (x.suspect = true → exec (.ckptWrite q) s = .next (t.fail q.src 0x1A49 0 0).settle) ∧
     (∀ j rs u, x.suspect = false → tget none t.sec.jobs p = some j → t.ckpts.length < 256 →
       readTable v (field d 8 8) (field d 16 4) (fun _ r => ckptMaps x master r) t = .ok rs u →
       let at' := sectionsAt rs.length (rs.map fun r => r.secLen master)
       (field d 32 8 < at'.2 → exec (.ckptWrite q) s = .next (u.fail q.src 0x1A44 0 0).settle) ∧
       (∀ secs w y, at'.2 ≤ field d 32 8 →
         let id := u.ckptId
         let w0 := { u with ckptId := u.ckptId + 1 }
         let key := ckptKey j Config.serial.toNat id.toNat
         let head := fileHeader (field d 20 1) id.toNat rs.length x.steps.toNat
             (if (w0.part p).slice.isSome then w0.devNum else 0) (((w0.part p).slice.map (·.toNat)).getD 0) at'.2
           ++ (rs.zip at'.1).flatMap fun e => manifestEntry e.1 e.2 (e.1.secLen master + 16)
         (((List.range rs.length).zip rs).mapM fun (e : Nat × TRec) => do
           let l ← sectionText v master e.2
           let sealed := gcmSeal key (beBytes 12 e.1) [] l
           pure (slice sealed.1 0 l.length ++ leBytes 16 sealed.2.toNat) : M (List (List Byte))) w0 = .ok secs w →
         let body := (at'.1.zip secs).foldl (fun (f : List Byte) e => f ++ List.replicate (e.1 - f.length) 0 ++ e.2)
           (head ++ manifestTag key head)
         egressPut v .ckpt (field d 24 8) body w = .ok () y →
         exec (.ckptWrite q) s = .next (State.finish { y with ckpts := y.ckpts ++ [{
           ctx := BitVec.ofNat 12 c, id := id, step := x.steps.toNat, h := y.horizon p, digest := Config.shake256 body
           recVa := BitVec.ofNat 64 (field d 40 8) }] } q.src 0 id.toNat at'.2 0).settle))) ∧
  (∀ (s : State) (q : CmdIn) (t : State),
     s.admits 0xA2 fromC
       (fun d => bodyOnly d [(8, 13), (24, 24)] && countOk (field d 16 4) 65535 && decide (field d 20 1 < 2)) q t →
     let d := descOf q 0xA2
     let c := ctxOf q.src
     let v : Via := { src := q.src, env := q.env }
     let len := field d 32 8
     ∀ j rs u file w, tget none t.sec.jobs (t.partOf q.src) = some j →
       readTable v (field d 8 8) (field d 16 4) (fun _ r => r.planes.all (t.ctx c).maps) t = .ok rs u → 144 ≤ len →
       vread v .ckpt 0x1901 (field d 24 8) len u = .ok file w → headerForm file len = true →
       let recs := leAt file 12 4
       let entries := (List.range recs).map fun i => slice file (64 + 64 * i) 64
       let key := ckptKey j (leAt file 24 8) (leAt file 8 4)
       let head := slice file 0 (64 + 64 * recs)
       (∀ e ∈ entries, entryOk e len = true) →
       (manifestTag key head ≠ slice file (64 + 64 * recs) 16 →
         exec (.ckptLoad q) s = .next (w.fail q.src 0x1A45 0 0).settle) ∧
       (manifestTag key head = slice file (64 + 64 * recs) 16 → field d 40 8 = 0 → (field d 20 1).testBit 0 = false →
         exec (.ckptLoad q) s = .next (w.fail q.src 0x1A46 0 0).settle) ∧
       (∀ out y z, manifestTag key head = slice file (64 + 64 * recs) 16 → field d 40 8 = 0 → (field d 20 1).testBit 0 = true →
         (rs.mapM fun r => loadRecord key file entries r) w = .ok out y →
         vwriteWhole v .ckpt 0x1901 out.flatten y = .ok () z →
         exec (.ckptLoad q) s = .next ((z.setCtx c (Context.reached { z.ctx c with
           steps := BitVec.ofNat 64 (leAt file 16 8) })).finish q.src 0 0 0 0).settle) ∧
       (∀ rec a out y z, manifestTag key head = slice file (64 + 64 * recs) 16 → field d 40 8 ≠ 0 →
         vread v .ckpt 0x1901 (field d 40 8) 256 w = .ok rec a → promoState a file head rec = .inr (some 1) →
         (rs.mapM fun r => loadRecord key file entries r) a = .ok out y →
         vwriteWhole v .ckpt 0x1901 out.flatten y = .ok () z →
         exec (.ckptLoad q) s = .next ((z.setCtx c (Context.reached { z.ctx c with
           steps := BitVec.ofNat 64 (leAt file 16 8), suspect := false
           denseTo := (z.ctx c).rollbackAt.or (z.ctx c).denseTo, rollbackAt := none })).finish q.src 0 0 0 0).settle))

/-! ## Steps and scales -/

/-- R359: STEP_MARK, where its count is the next one, no Proof check is open and its merge answers: a mismatch that was recorded
fails it with 0x1601; else the tensors and layers are updated, the count rises by one, the checkpoints that are due are promoted,
and the count is its result, unless an alarm stops it with 0x1507. A count that is neither 0 nor the next one fails with 0x1A63.
R129 to R132: SCALE_DECLARE applies a table of which every record is valid and which keeps the quotas, and else changes nothing:
the first invalid record i fails it with 0x1501 and the DETAIL i. -/
def Obligations.StepMark : Prop :=
  (∀ (s : State) (m : StepMarkIn) (t : State), s.admits 0x51 fromC (fun d => bodyOnly d [(8, 8)]) m.cmd t →
     let q := m.cmd.src
     let c := ctxOf q
     let n := field (descOf m.cmd 0x51) 8 8
     (n ≠ 0 → n ≠ ((t.ctx c).steps.toNat + 1) % 2 ^ 64 → exec (.stepMark m) s = .next (t.fail q 0x1A63 0 0).settle) ∧
     ((n = 0 ∨ n = ((t.ctx c).steps.toNat + 1) % 2 ^ 64) → t.proofBusy c = false →
       ∀ most sums u, mergeStep q c (t.partOf q) m.peers t = .ok (most, sums) u →
       (∀ k, (u.ctx c).prfPend = some k → exec (.stepMark m) s =
         .next ((u.setCtx c { u.ctx c with prfPend := none }).fail q 0x1601 0 k.toNat).settle) ∧
       ((u.ctx c).prfPend = none →
         let w := (u.stepTensors c most).stepLayers c sums
         let y := (w.1.setCtx c (Context.reached { w.1.ctx c with steps := (w.1.ctx c).steps + 1 })).promote c
         exec (.stepMark m) s = .next (if w.2 then (y.fail q 0x1507 0 0).settle
           else (y.finish q 0 (y.ctx c).steps.toNat 0 0).settle)))) ∧
  (∀ (s : State) (q : CmdIn) (t : State),
     s.admits 0x61 fromC (fun d => bodyOnly d [(8, 12)] && countOk (field d 16 2) 16384 && decide (field d 18 2 < 4096)) q t →
     let d := descOf q 0x61
     let me := ctxOf q.src
     let c := field d 18 2
     let p := t.partOf q.src
     let n := field d 16 2
     (c = me ∨ ((t.ctx me).admin = true ∧ (t.ctx c).bound = true ∧ (t.ctx c).part.toNat = p)) →
     ∀ l u, vread { src := q.src, env := q.env } .copy 0x1901 (field d 8 8) (16 * n) t = .ok l u →
       let recs := (List.range n).map fun i => leAt l (16 * i) 16
       let bad := firstBad (u.part p).slice.isSome (u.tensorsOf c) recs
       let new := recs.foldl (fun (a : State) r => a.applyRec c r) u
       let quota := u.reg (fnOf p) .scl 0 0x44 0
       (∀ i, bad = some i → exec (.scaleDeclare q) s = .next (u.fail q.src 0x1501 i 0).settle) ∧
       (bad = none → overUse (u.scaleUse p).1 (new.scaleUse p).1 (bits quota 30 16) = false →
         overUse (u.scaleUse p).2 (new.scaleUse p).2 (bits quota 12 0) = false →
         overUse u.tensors.length new.tensors.length 16384 = false → overUse u.layers.length new.layers.length 4096 = false →
         exec (.scaleDeclare q) s = .next (new.finish q.src 0 0 0 0).settle))

/-- R133: what a STEP_MARK does with a DELAYED tensor: the maximum of the step enters its history, and its exponent follows the
greatest of the history, falls by at most DOWN_MAX where that is not 0, and stays within its limits; a step without a maximum, or in
the fallback, leaves the exponent. -/
def Obligations.ScaleFollows : Prop :=
  ∀ (t : Tensor) (a : Word32), t.delayed = true →
    let u := t.stepped a
    let top := u.hist.foldl maxF 0
    u.hist = t.hist.drop 1 ++ [a] ∧ u.last = top ∧ u.stepMax = 0 ∧ u.nonfin = false ∧
    (top = 0 ∨ t.fallback = true → u.x = t.x) ∧
    (top ≠ 0 → t.fallback = false →
      (t.xMin ≤ t.xMax → t.xMin ≤ u.x) ∧ u.x ≤ t.xMax ∧
      (t.downMax ≠ 0 → t.x ≤ t.xMax → 0 ≤ t.downMax → t.x - t.downMax ≤ u.x) ∧
      (t.downMax = 0 → u.x = min (max ((f32 top).ilog2 - fmtTop t.fmt.toNat + 1 + t.margin) t.xMin) t.xMax))

/-! ## Partitions and slices -/

/-- R371 to R373, R376, R377: BIND, RELEASE and PART_RESET, while the partition manager works and no request is under way. Each
completes. A host read that fails ends the request with ERR 15, a check of R372 that fails with its ERR; a request that is accepted
is held, and its partition enters BINDING, DRAINING or RESETTING, the last two with the teardown of its contexts.
R232, R270, R287, R302, R373, R376, R377, R379: what ends the sequences of the partition manager. At quiescence a bind moves its
resources, and a bind that removes no extent always does; a release whose teardowns are done frees its resources, and always does
where no counter block waits to be written back. The partition then returns to ACTIVE or enters FREE, once every way that left has
been flushed. A reset clears its clusters and settings and returns to ACTIVE; a way that left a partition is flushed, one that holds
no line at once; a cluster that is due to leave is handed back; a VF's Function Level Reset resets its partition. -/
def Obligations.PartitionCommands : Prop :=
  (∀ (s : State) (b : BindIn), s.partLive = true → s.bind = none →
     let all := fun (t : State) => exec (.bind b) s = .next t ∧ exec (.release b) s = .next t ∧ exec (.partReset b) s = .next t
     (b.req = none → all (s.bindEnd 15).settle) ∧
     (∀ w, b.req = some w →
       let r := w.toNat
       let p := field r 1 1
       let v := { s with bindPart := BitVec.ofNat 6 p }
       let u := { v with bindErr := 0, bind := some { op := BitVec.ofNat 8 (field r 0 1), part := BitVec.ofNat 6 p, req := w,
                                                      moved := false } }
       (v.bindCheck r ≠ 0 → all (v.bindEnd (v.bindCheck r)).settle) ∧
       (v.bindCheck r = 0 →
         (field r 0 1 = 1 → all (u.partTo p .binding).settle) ∧
         (field r 0 1 = 2 → all ((u.partTo p .draining).tearAll p).settle) ∧
         (field r 0 1 = 3 → all ((u.partTo p .resetting).tearAll p).settle)))) ∧
  (∀ (s : State),
     (∀ b, s.bind = some b → b.op = 1 → b.moved = false → s.partLive = true → s.quiescent b.part.toNat = true →
       (∀ c ∈ reqBits b.req.toNat 16 16, s.isReferee c = false) →
       (∀ t, bindMoves b.part.toNat b.req.toNat s = .ok () t → exec .bindQuiesced s = .next (t.movesDone b).settle) ∧
       (reqBits b.req.toNat 112 1 = [] → ∃ t, bindMoves b.part.toNat b.req.toNat s = .ok () t ∧
         exec .bindQuiesced s = .next (t.movesDone b).settle)) ∧
     (∀ b, s.bind = some b → b.op = 2 → b.moved = false → s.partLive = true → s.drained b.part.toNat = true →
       (∀ t, releaseMoves b.part.toNat s = .ok () t → exec .releaseDrained s = .next (t.movesDone b).settle) ∧
       ((∀ e ∈ s.ctrs, ∀ x, e.2 = some x → x.dirty = false) → ∃ t, releaseMoves b.part.toNat s = .ok () t ∧
         exec .releaseDrained s = .next (t.movesDone b).settle)) ∧
     (∀ b, (s.flushing = [] → b.op = 1 → s.movesDone b = s.bindFinish b.part.toNat) ∧
       (s.flushing = [] → b.op ≠ 1 → s.movesDone b = (s.partTo b.part.toNat .free).bindEnd 0) ∧
       (s.flushing ≠ [] → s.movesDone b = { s with bind := some { b with moved := true } })) ∧
     (∀ part : BitVec 6, (s.part part.toNat).state = .resetting → s.partLive = true → s.drained part.toNat = true →
       exec (.resetDrained part) s = .next (s.resetFinish part.toNat).settle) ∧
     (∀ way : BitVec 4, way ∈ s.flushing →
       let lids := s.cases.filterMap fun e => match e.2 with
         | some c => if c.way = way then some e.1 else none
         | none => none
       (∀ t, (lids.forM (writeBack Env.quiet) : M Unit) s = .ok () t →
         exec (.caseFlushDone way) s = .next (t.flushed way).settle) ∧
       (lids = [] → exec (.caseFlushDone way) s = .next (s.flushed way).settle)) ∧
     (∀ way : BitVec 4,
       let t := State.raise { s.caseKeep (fun _ c => c.way != way) with flushing := s.flushing.filter (· != way) } .mc 0 6 63
       ((∀ b, s.bind = some b → b.moved = false) → s.flushed way = t) ∧
       (∀ b, s.bind = some b → b.moved = true → s.flushed way = t.movesDone b)) ∧
     (∀ cl : BitVec 7,
       let c := cl.toNat
       let p := (s.cluster c).owner.toNat
       s.leaves c = true → s.atCommand p = true → (p ≠ 63 → (s.part p).state ≠ .binding) →
       let out := ((s.clearPages c).flashDone c).handCluster c 0x3F .fallow
       let t := if (s.cluster c).health = .confirmed then out.setCluster c { out.cluster c with inService := false }
         else (s.freeCluster c).raise .part 0 3 63
       let u := State.trackSizes s t
       exec (.clusterRemove cl) s = .next (if p ≠ 63 ∧ (u.clustersOf p).isEmpty then u.partHalt p else u).settle) ∧
     (∀ vf : BitVec 6, vf ≠ 0 → s.partLive = true →
       let p := vf.toNat - 1
       let mine := fun (e : Nat × Bool) => decide (e.1 / 16 ≠ vf.toNat)
       let t := { s with
         msixOpen := s.msixOpen.filter mine, msixPend := s.msixPend.filter mine
         hif := { s.hif with masters := tput false s.hif.masters vf.toNat false } }
       let u := if t.tdi p = .locked ∨ t.tdi p = .run
         then State.raise { t with hif := { t.hif with tdi := tput Tdi.unlocked t.hif.tdi p .error } } .hif 0 4 63 else t
       ((s.part p).state = .active ∨ (s.part p).state = .halted → exec (.vfFlr vf) s = .next (u.resetPart p).settle) ∧
       ((s.part p).state = .binding ∨ (s.part p).state = .draining →
         exec (.vfFlr vf) s = .next (u.setPart p { u.part p with flrDue := true })) ∧
       ((s.part p).state = .free ∨ (s.part p).state = .resetting → exec (.vfFlr vf) s = .next u)))

/-- R372: the checks of a request, in order: its form, 1; the state of its partition, 2, which also refuses a bind in EVACUATE, and in BRACED once EVACUATE is to follow; the
clusters that it adds or removes, 3. A request that passes all of them adds only in-service clusters of 0x3F and channels of 0x3F,
removes only clusters of the partition, and leaves the partition a cluster and an extent. -/
def Obligations.RequestChecks : Prop :=
  ∀ (s : State) (r : Nat),
    let p := field r 1 1
    let adds := reqBits r 16 16
    let drops := reqBits r 32 16
    let chans := reqBits r 48 64
    (reqForm r = false → s.bindCheck r = 1) ∧
    (reqForm r = true → (s.part p).state = .free → field r 0 1 ≠ 1 → s.bindCheck r = 2) ∧
    (reqForm r = true → (s.part p).state = .binding ∨ (s.part p).state = .draining ∨ (s.part p).state = .resetting →
      s.bindCheck r = 2) ∧
    (reqForm r = true → field r 0 1 = 1 → s.pwr.state = .evacuate ∨ s.mgt.replace = true → s.bindCheck r = 2) ∧
    (s.bindCheck r = 0 → field r 0 1 = 1 →
      (∀ c ∈ adds, (s.cluster c).owner = 0x3F ∧ (s.cluster c).inService = true) ∧
      (∀ c ∈ drops, (s.cluster c).owner.toNat = p) ∧ (∀ c ∈ chans, (s.chan c).owner = 0x3F) ∧
      (s.clustersOf p).length + adds.length ≠ drops.length)

/-- R67, R68: the power states of a cluster. FALLOW_REQ of an unbound cluster in service takes it into FALLOW, cleared, or starts the
flash-clear that wakes it; a virtual function's access to an unbound cluster's page is disallowed. A cluster without work enters IDLE. A flash-clear that
completes leaves the cluster's contents zero, clears CLEAR_BUSY and raises CLEAR_DONE.
R382 to R386: the slice in time. At the end of a slice, while no debug hold keeps a cluster of the partition, a ready context of at least the holder's priority makes a pre-emption due,
and else the slice is renewed; a context that has waited STARVE_MS counts as starved; at the boundary the switch charges the time and
the overrun and gives the slice to the next context; debug holds begin with their register and end with it or after 250 µs.
R385: a write of PART_DBG_HOLD. In confidential mode a HOLD of 1 is recorded as disallowed and starts nothing; else it holds the
named cluster, at once where that stands at a tile boundary or runs nothing, and a HOLD of 0 ends the hold. -/
def Obligations.ClustersAndSlices : Prop :=
  (∀ (s : State) (cl : BitVec 7),
     let c := cl.toNat
     let k := s.cluster c
     (∀ req, s.pageShown .cl = true → k.owner = 0x3F → k.inService = true →
       let v := s.clCtrl c
       let t := s.setReg 0 .cl c 0x10 0x1401 (v - 2 * (v / 2 % 2) + 2 * b2n req)
       (req = true → k.pwr ≠ .fallow → k.clear = false → t.isReferee c = false →
         exec (.fallowReq 0 cl req) s = .next (t.setCluster c { k.flash with pwr := .fallow, clear := false, worked := false })) ∧
       (req = false → k.pwr = .fallow → s.pwr.state ≠ .slumber →
         exec (.fallowReq 0 cl req) s = .next (t.setCluster c { k with pwr := .active, clear := true }))) ∧
     (∀ fn req, fn ≠ 0 → s.gate fn.toNat .cl c true true = .go → exec (.fallowReq fn cl req) s = .next s) ∧
     (∀ (fn : BitVec 6) req, fn ≠ 0 → k.owner = 0x3F →
       exec (.fallowReq fn cl req) s = .next (s.badAccess fn.toNat true false 4 (regOff .cl c 0x10))) ∧
     (k.pwr = .active → (s.clCtrl c).testBit 0 = true → k.clear = false →
       (∀ e ∈ k.slots, ∀ x, e.2 = some x → (s.ctx x.ctx.toNat).state ≠ .running ∧ (s.ctx x.ctx.toNat).state ≠ .runnable) →
       exec (.idleDelayExpiry cl) s = .next (s.setCluster c { k with pwr := .idle, worked := false })) ∧
     (k.clear = true →
       let t := (s.setCluster c { k.flash with clear := false, worked := false }).raise .cl c 4 63
       exec (.flashClearDone cl) s = .next (if (t.cluster c).owner = 0x3F ∧ (t.cluster c).inService = true ∧
         (t.clCtrl c).testBit 1 = true then t.setCluster c { t.cluster c with pwr := .fallow } else t))) ∧
  (∀ (s : State) (part : BitVec 6),
     let p := part.toNat
     let x := s.part p
     (∀ us h, x.holder = some h → s.dbgKeeps p = false →
       let rival := ∃ c ∈ x.queueing, ∃ n, s.readyPrio c.toNat = some n ∧ (s.readyPrio h.toNat).getD 0 ≤ n
       let t := s.chargeTime p us
       (rival → exec (.sliceEnd part us) s = .next (t.setPart p { t.part p with preemptDue := true }).settle) ∧
       (¬ rival → exec (.sliceEnd part us) s = .next (t.setCtx h.toNat { t.ctx h.toNat with
         owed := (t.ctx h.toNat).owed - t.sliceUs p h.toNat }).settle)) ∧
     (∀ c : BitVec 12, c ∈ (s.part (s.ctx c.toNat).part.toNat).queueing → (s.readyPrio c.toNat).isSome = true →
       exec (.starveExpiry c) s = .next (s.setCtx c.toNat { s.ctx c.toNat with starved := true }).settle) ∧
     (∀ us overrun h, x.holder = some h → x.preemptDue = true → s.atBoundary h.toNat = true → s.dbgKeeps p = false →
       (s.nextHolder x.queueing = none →
         exec (.preemptSwitch part us overrun) s = .next (s.setPart p { x with preemptDue := false })) ∧
       (∀ c, s.nextHolder x.queueing = some c →
         let t := (s.chargeTime p us).preempted h overrun
         exec (.preemptSwitch part us overrun) s =
           .next ((t.setPart p { t.part p with queueing := x.queueing ++ [h] }).giveSlice p c).settle)) ∧
     (∀ w : RegVal, w.fn = 0 → s.gate 0 .part 0 true false = .go → s.lockHolds 0 .part 0 = false →
       exec (.partDbgHold w) s = .next (s.dbgWrite 0 w.value.toNat)) ∧
     (s.dbg.hold = true → exec .debugHoldExpiry s = .next s.dbgEnd.settle)) ∧
  (∀ (s : State) (v : Nat),
     let cl := BitVec.ofNat 7 v
     (s.confidential = true → v.testBit 31 = true → s.dbgWrite 0 v = s.badAccess 0 true false 4 (regOff .part 0 0x88)) ∧
     (s.confidential = false → s.dbg.hold = false → v.testBit 31 = true →
       (s.dbgWrite 0 v).dbg.hold = true ∧ (s.dbgWrite 0 v).dbg.cl = cl ∧
       ((s.cluster cl.toNat).running = none → (s.dbgWrite 0 v).dbg.held = true) ∧
       (∀ n x p, (s.cluster cl.toNat).running = some n → (s.cluster cl.toNat).slot n = some x → x.prog = some p →
         x.ended = false → (s.dbgWrite 0 v).dbg.held = x.boundary)) ∧
     (s.dbg.hold = true → v.testBit 31 = false → s.dbgWrite 0 v = s.dbgEnd.settle))

/-! ## Doorbells -/

/-- R325, R327, R524: a doorbell write stores its TAIL where the TAIL lies within the ring; beyond it the context fails with 0x1A0F,
an enabled management queue stops. Enabling a management queue sets HEAD, TAIL and STOP to zero. -/
def Obligations.Doorbells : Prop :=
  ∀ (s : State),
    (∀ (fn : BitVec 6) (page : BitVec 12) (q : BitVec 4) (tail : Word32) (k : Queue), fn ≠ 0 → s.bellsLive fn.toNat = true →
      (s.ctx page.toNat).bound = true → (s.ctx page.toNat).part.toNat = fn.toNat - 1 → (s.ctx page.toNat).state ≠ .teardown →
      s.queue page.toNat q.toNat = some k →
      exec (.qdbTail fn page q tail) s = .next (if k.size < (tail - k.head).toNat then s.failCtx page.toNat 0x1A0F
        else s.setQueue page.toNat q.toNat (some { k with tail := tail })).settle) ∧
    (∀ (page : BitVec 12) (tail : Word32), s.bellsLive 0 = true → page.toNat < 16 →
      let x := s.mq page.toNat
      ((tail - x.head).toNat ≤ 2 ^ x.log2 →
        exec (.qdbTail 0 page 0 tail) s = .next (s.setMq page.toNat { x with tail := tail }).settle) ∧
      (2 ^ x.log2 < (tail - x.head).toNat → x.enable = true →
        exec (.qdbTail 0 page 0 tail) s = .next (s.mqStop page.toNat 1).settle)) ∧
    (∀ (w : RegVal), w.fn = 0 → s.gate 0 .cmdp 0 true false = .go → s.lockHolds 0 .cmdp 0 = false →
      let m := s.reg 0 .cmdp 0 0x40 0 % 16
      exec (.mqEnable w) s = .next (s.mqCtrl w.value.toNat) ∧
      (w.value.toNat.testBit 31 = true → (s.mq m).enable = false →
        let x := (s.mqCtrl w.value.toNat).mq m
        x.enable = true ∧ x.head = 0 ∧ x.tail = 0 ∧ x.done = 0 ∧ x.stop = 0 ∧ x.irq = w.value.toNat.testBit 30 ∧
        x.log2 = max 4 (min 16 (w.value.toNat % 32))))

/-! ## Lines, the Seal engine and the egress gate -/

/-- R217, R230, R242, R249, R253, R255, R256, R257: an access to one object line by the partition that owns the channel, where its
KeyID admits it and nothing stops it: a read hands its data over; a full write and a masked write store the line under its next
counter, the second once what it keeps of the line is verified, and a Case line of the same address is clean after them; a Case
access reads or writes through the Case, after its words have been corrected or a clean line of bad words has been dropped; a dirty
line of bad words halts its partition. An access for another partition than the channel's owner delivers nothing.
R243, R244: the cipher of a line is its own inverse: plaintext from ciphertext under the same key, counter, line and level. -/
def Obligations.LineAccesses : Prop :=
  (∀ (s : State) (l : LineAcc), l.line.toNat < objectLines → s.memLive = true →
     let s0 := { s with delivered := none }
     let a := accOf l
     let lid := lidOf a.ch a.line
     let key := keyCheck a.kid a.part a.agent (a.ch / 16)
     ((s.chan a.ch).owner ≠ l.part → ∀ (d : LineData) mask (w : Option LineData) ecc, ∀ i ∈ [Instr.sealLineRead l, .sealLineWrite l d,
       .sealPartialWrite l mask d, .caseLineAccess l w ecc], exec i s = .next s0) ∧
     ((s.chan a.ch).owner = l.part →
       (∀ d t, readLine l.env a s0 = .ok d t → exec (.sealLineRead l) s = .next { t with delivered := some d }) ∧
       (∀ d t u, key s0 = .ok () t → sealStore l.env a d t = .ok () u →
         exec (.sealLineWrite l d) s = .next (u.caseWritten lid d)) ∧
       (∀ mask d t old u, key s0 = .ok () t →
         (∀ c, t.caseLine lid = some c → old = c.data ∧ settleLine lid t = .ok () u) →
         (t.caseLine lid = none → mask ≠ BitVec.allOnes 64 → sealVerified l.env a t = .ok old u) →
         (t.caseLine lid = none → mask = BitVec.allOnes 64 → old = 0 ∧ u = t) →
         (mask = 0 → exec (.sealPartialWrite l mask d) s = .next u) ∧
         (∀ v, mask ≠ 0 → sealStore l.env a (mergeBytes old d mask) u = .ok () v →
           exec (.sealPartialWrite l mask d) s = .next (v.caseWritten lid (mergeBytes old d mask)))) ∧
       (∀ t, key s0 = .ok () t →
         (∀ ecc v, (t.caseLine lid = none ∨ ecc = .ok → v = t) →
           ((t.caseLine lid).isSome = true → ecc = .single → v = t.ceAt a.ch a.line 0) →
           (∀ c, t.caseLine lid = some c → ecc = .double → c.dirty = false ∧ v = t.setCaseLine lid none) →
           (∀ d u, readLine l.env a v = .ok d u → exec (.caseLineAccess l none ecc) s = .next { u with delivered := some d }) ∧
           (∀ d u, putLine l.env a (BitVec.allOnes 64) d v = .ok () u → exec (.caseLineAccess l (some d) ecc) s = .next u)) ∧
         (∀ c w, t.caseLine lid = some c → c.dirty = true →
           exec (.caseLineAccess l w .double) s = .next ((t.setCaseLine lid none).partHalt c.part.toNat).settle)))) ∧
  (∀ (k : BitVec 256) (c lid level : Nat) (d : LineData), crypt k c lid level (crypt k c lid level d) = d)

/-- R247, R249: a write raises the logical counter of its line by one while the minor counter has room, and leaves the counters of the
other 63 lines of the block. -/
def Obligations.CounterRises : Prop :=
  ∀ (b : CtrBlk) (i : Nat), i < 64 → b.min i < 63 →
    (b.setMin i (b.min i + 1)).count i = b.count i + 1 ∧
    ∀ j, j < 64 → j ≠ i → (b.setMin i (b.min i + 1)).count j = b.count j

/-- R39, R253, R254, R257, R258, R265, R275: a pending read of a quadrant whose check passes in time leaves the list, its counter
blocks become verified, its latency is recorded, and the register fields that waited for it change; one whose check fails, and one
that stays unverified past VERIFY_LIMIT, Seal-halts.
R242, R252: a counter block leaves the cache, written back first where it is dirty; a key-cache entry is filled for a KEYED KeyID that misses.
R225, R234, R235, R236: Harrow. A patrol read corrects what it can; an uncorrectable object line is reported to its owner, one of a
tenant's counter tree Seal-halts. The erase pass rewrites the next line as EMPTY unless it is of this ERA, and at its last object
line the pass completes. -/
def Obligations.SealRows : Prop :=
  (∀ (s : State) (q : BitVec 2),
     (∀ n r rest, takeFirst (fun (r : PendRead) => r.q == q) s.reads = some (r, rest) →
       let late := haltAt .verifyTimeout (r.lid / 2 ^ 24) 0 (r.lid % 2 ^ 24)
       (s.verifyLimit r.stack.toNat < n → exec (.sealVerifyDone q n) s = .next (s.sealHaltNow late)) ∧
       (n ≤ s.verifyLimit r.stack.toNat → r.bad = none → exec (.sealVerifyDone q n) s =
         .next ((({ s with reads := rest } : State).readDone r).latency r.stack.toNat n).lateDone) ∧
       (∀ h, n ≤ s.verifyLimit r.stack.toNat → r.bad = some h → exec (.sealVerifyDone q n) s = .next (s.sealHaltNow h))) ∧
     (∀ r, (s.reads.find? fun r => r.q == q) = some r →
       exec (.verifyTimeout q) s = .next (s.sealHaltNow (haltAt .verifyTimeout (r.lid / 2 ^ 24) 0 (r.lid % 2 ^ 24)))) ∧
     (∀ h, exec (.sealHalt h) s = .next (s.sealHaltNow h))) ∧
  (∀ (s : State), s.memLive = true →
     (∀ (ch : BitVec 9) (level : BitVec 2) (blk : BitVec 18) t, level ≠ 0 →
       (s.ctr ch.toNat level.toNat blk.toNat).isSome = true → flushCtr Env.quiet ch.toNat level.toNat blk.toNat s = .ok () t →
       exec (.counterEvict ch level blk) s = .next (t.setCtr ch.toNat level.toNat blk.toNat none)) ∧
     (∀ (ch : BitVec 9) (level : BitVec 2) (blk : BitVec 18) x, level ≠ 0 → s.ctr ch.toNat level.toNat blk.toNat = some x →
       x.dirty = false → exec (.counterEvict ch level blk) s = .next (s.setCtr ch.toNat level.toNat blk.toNat none)) ∧
     (∀ (kid : BitVec 16) t, (s.kid kid.toNat).state = .keyed → (s.kid kid.toNat).cached = false → fillKey kid.toNat s = .ok () t →
       exec (.keyCacheFill kid) s = .next t)) ∧
  (∀ (s : State) (ch : BitVec 9) (err : BitVec 640), s.memLive = true →
     let c := ch.toNat
     let k := c / 16
     (∀ (line : BitVec 24) (r : Option Line) (t : State), line.toNat < channelLines →
       (s.reg 0 .mc k 0x10 0x180421).testBit 0 = true → s.mcRead c line.toNat (Env.onLine (lidOf c line.toNat) err) = (r, t) →
       let p := (t.chan c).owner.toNat
       let level := treeLevel line.toNat
       (r.isSome = true → exec (.harrowPatrolRead ch line err) s = .next t) ∧
       (r = none → level = 0 → exec (.harrowPatrolRead ch line err) s = .next ((t.errBit .mc k 2 p).raise .mc k 2 p)) ∧
       (r = none → level ≠ 0 → p = 63 → exec (.harrowPatrolRead ch line err) s = .next t) ∧
       (r = none → level ≠ 0 → p ≠ 63 →
         exec (.harrowPatrolRead ch line err) s = .next (t.sealHaltNow (haltAt .treeUE c level line.toNat)))) ∧
     (∀ n r t, (s.chan c).front = some n → s.mcRead c n.toNat (Env.onLine (lidOf c n.toNat) err) = (r, t) →
       let era := (s.chan c).era
       let kept := ∃ l, r = some l ∧ l.state.toNat % 2 ^ 14 = era.toNat
       let u := t.setLine (lidOf c n.toNat) (Line.make 0 0 0 era.toNat)
       let after := fun (v : State) => if n.toNat + 1 = objectLines then v.eraseDone c
         else v.setChan c { v.chan c with front := some (n + 1) }
       (kept → exec (.harrowEraseLine ch err) s = .next (after t)) ∧
       (¬ kept → exec (.harrowEraseLine ch err) s = .next (after u))))

/-- R266: a Seal halt of a device that is not HALTED: it is HALTED with HALT_N low, nothing is dispatched, every port is DOWN, no
key is cached, the tree keys, the reset nonce and the counter roots are gone, the Case and the counter caches are
empty, and the first cause is recorded. A device that is HALTED stays as it is. -/
def Obligations.SealHaltEffect : Prop :=
  ∀ (s : State) (h : HaltAt),
    let t := s.sealHaltNow h
    (s.pwr.state = .halted → t = s) ∧
    (s.pwr.state ≠ .halted →
      t.pwr.state = .halted ∧ t.pwr.sealHalt = true ∧ t.pwr.haltN = true ∧ t.dispatches = false ∧ t.inflight = [] ∧
      t.colls = [] ∧ t.reads = [] ∧ t.cases = [] ∧ t.ctrs = [] ∧ t.sec.nonce = 0 ∧ t.sec.treeKeys = none ∧
      (∀ e ∈ t.kids, e.2.cached = false ∧ e.2.seed = 0) ∧ (∀ e ∈ t.chans, e.2.gen = 0) ∧
      (∀ p, p < 8 → (t.port p).state = .down) ∧
      t.halt = some { cause := BitVec.ofNat 16 (haltCode h.cause), stack := h.stack, level := h.level, loc := h.loc,
                      line := h.line })

/-- R258 to R263: the epochs and the gate. An epoch advances by one while the core clock runs; a sample stamps a path's new entries with
the four epochs; an entry is enqueued behind the others once its buffer has room. -/
def Obligations.EgressGate : Prop :=
  ∀ (s : State),
    (∀ q : BitVec 2, s.pwr.state ≠ .slumber →
      exec (.epochAdvance q) s = .next { s with epochs := tput 0 s.epochs q.toNat (s.epoch q.toNat + 1) }) ∧
    (∀ p : Path,
      let now := (tget [] s.egress (pathNum p)).map fun e =>
        if e.stamp = none ∧ e.free = false then { e with stamp := some ((List.range 4).map s.epoch) } else e
      exec (.egressSample p) s = .next { s with egress := tput [] s.egress (pathNum p) now }) ∧
    (∀ (p : Path) (stamped : Bool) (d : List Byte), s.gateUsed (gateBuffer p).1 + d.length ≤ (gateBuffer p).2 →
      (stamped = true → s.pwr.state ≠ .halted) →
      exec (.egressEnqueue p stamped d) s = .next (s.emit (pathNum p) (!stamped) none (match p with
        | .port k => .packet k d
        | _ => .record d)))

/-- R258, R260, R261, R266, R469: nothing leaves that rests on unverified data. An entry that the gate lets pass is an unstamped
record, or its stamp lies at or below the watermark of every quadrant, and then every read that still pends in a quadrant was made in a
later epoch than the entry's stamp for it; nothing stamped passes in BRACED, in HALTED or after PWR_OK has fallen. A path forms its
entries at the end of its buffer and releases the oldest: a stamped one that may not pass stays, and every stamped one behind it with
it, while an unstamped record passes at once; what passes leaves for the host, its port or its line. -/
def Obligations.NothingUnverifiedLeaves : Prop :=
  ∀ (s : State),
    (∀ e, s.passes e = true → e.free = false → ∃ st, e.stamp = some st ∧ s.pwr.state ≠ .braced ∧
      s.pwr.state ≠ .halted ∧ s.pwr.offHold = false ∧
      (∀ q, q < 4 → ((st.getD q 0).toNat : Int) ≤ s.wmark q) ∧ ∀ r ∈ s.reads, (st.getD r.q.toNat 0).toNat < r.stamp.toNat) ∧
    (∀ k free src ev, tget [] (s.emit k free src ev).egress k =
      tget [] s.egress k ++ [{ stamp := none, free := free, src := src, seq := (src.bind s.cmdOf).map (·.seq), ev := ev }]) ∧
    ∀ (p : Path),
      let l := tget [] s.egress (pathNum p)
      (∀ e x rest, s.nextOut l = some (x, rest) → l.head? = some e →
        (s.passes e = true → x = e ∧ rest = l.tail) ∧ (s.passes e = false → x.free = true ∧ x ∈ l)) ∧
      (s.nextOut l = none → exec (.egressRelease p) s = .next s) ∧
      (∀ x rest, s.nextOut l = some (x, rest) → s.pathOpen p = true →
        let t := { s with egress := tput [] s.egress (pathNum p) rest }
        (p ∈ [Path.cxl, .cache, .staging] → exec (.egressRelease p) s = .next (t.toHost x).settle) ∧
        (p ∉ [Path.cxl, .cache, .staging] → exec (.egressRelease p) s = .next (t.deliver x).settle))

/-! ## Proof units -/

/-- R280, R281, R283, R284, R286: a check of a captured pass resolves. The unit computes the CRC-64 of each chunk from the captured
operand blocks and compares them with the array's. Agreement counts for the cluster. A narrow-format disagreement falls on the Proof
unit when its own self-check fails, and is else a mismatch of the cluster; a wide-format one waits for a referee, whose Forme store
takes the operands, or is unresolved without one; the CRCs of the referee's pass over them then decide, and it is flash-cleared.
R293: the laggard window: each partition's clusters that were dispatched are compared with the median of the rates of those that
completed a pass, where at least four did; a cluster below LAG_PCT % of it becomes a laggard, one at 5 % above that or more ceases to be one. -/
def Obligations.ProofRows : Prop :=
  (∀ (s : State),
     (∀ (p : ProofIn) (k : Capture),
       let q := p.q.toNat
       let cl := p.cl.toNat
       let mine := fun (k : Capture) => k.cl == p.cl && k.referee.isNone
       let done := s.resolve q mine k
       let array := withErrs k.crcs p.arrayErr
       let own := withErrs (k.blocks.map fun b => chunkCrc k.fa.toNat k.fb.toNat b.1 b.2) p.proofErr
       (s.unit q).queue.find? mine = some k →
       (array = own → exec (.proofChunkCheck p) s = .next (done.passGood cl).settle) ∧
       (array ≠ own → k.wide = false → p.selfBad = true →
         exec (.proofChunkCheck p) s = .next ((done.passGood cl).unitOffline q).settle) ∧
       (array ≠ own → k.wide = false → p.selfBad = false →
         exec (.proofChunkCheck p) s = .next (done.mismatch q 2 k).settle) ∧
       (array ≠ own → k.wide = true → s.referees cl = [] →
         exec (.proofChunkCheck p) s = .next (((done.errBit .prf q 2 63).raise .prf q 2 63).mismatch q 3 k).settle) ∧
       (∀ r t, array ≠ own → k.wide = true → s.referees cl ≠ [] →
         s.choose ((s.referees cl).filter fun c => !s.isReferee c && !(s.cluster c).clear) = (some r, t) →
         let u := t.setCluster r (({ t.cluster r with pwr := .active }).formeWrite 0 k.bytesOf)
         exec (.proofChunkCheck p) s = .next (u.setUnit q { u.unit q with
           queue := (u.unit q).queue.modify ((u.unit q).queue.findIdx mine) fun x => { x with
             referee := some (BitVec.ofNat 7 r), crcs := array, own := own } }))) ∧
     (∀ (q : BitVec 2) (err : List Word64) (k : Capture) (r : BitVec 7),
       let u := q.toNat
       let mine := fun (k : Capture) => k.referee.isSome
       (s.unit u).queue.find? mine = some k → k.referee = some r →
       let crcs := withErrs (((s.cluster r.toNat).blocksOf k).map fun b => chunkCrc k.fa.toNat k.fb.toNat b.1 b.2) err
       let t := s.resolve u mine k
       let t := t.setCluster r.toNat { (t.cluster r.toNat).flash with clear := true }
       (crcs = k.own → exec (.refereePassDone q err) s = .next (t.mismatch u 2 k).settle) ∧
       (crcs ≠ k.own → crcs = k.crcs →
         exec (.refereePassDone q err) s = .next ((t.passGood k.cl.toNat).unitOffline u).settle) ∧
       (crcs ≠ k.own → crcs ≠ k.crcs →
         exec (.refereePassDone q err) s = .next (((t.errBit .prf u 2 63).raise .prf u 2 63).mismatch u 3 k).settle)) ∧
     (∀ (cl : BitVec 7),
       let k := s.cluster cl.toNat
       k.health = .suspect → 2 ^ bits s.prfCtrl 20 16 ≤ k.sampled →
       exec (.suspectClear cl) s =
         .next ((s.setCluster cl.toNat { k with health := .normal, sampled := 0 }).journalHealth (cl.toNat / 32)))) ∧
  (∀ (s : State) (rates : List RateIn),
     exec (.lagWindow rates) s = .next ((List.range 63).foldl (fun (t : State) p => t.lagPart p rates) s) ∧
     (∀ p, (rates.filter fun r => r.ideal != 0 && r.busy != 0 && (s.cluster r.cl.toNat).owner.toNat == p).length < 4 →
       s.lagPart p rates = s))

/-- R286, R287: a finding against a cluster: NORMAL becomes SUSPECT, or CONFIRMED within the span of its last finding, and a cluster
that is not NORMAL becomes CONFIRMED; it is counted, up to 255, its age starts anew, and PRF_LAST records it. -/
def Obligations.Findings : Prop :=
  ∀ (s : State) (cl kind ctx part id : Nat), cl < 128 →
    let k := s.cluster cl
    let t := s.finding cl kind ctx part id
    let span := max 1 (bits s.prfCtrl 7 0)
    (k.health = .normal → span ≤ k.hours.toNat → (t.cluster cl).health = .suspect) ∧
    (k.health = .normal → k.hours.toNat < span → (t.cluster cl).health = .confirmed) ∧
    (k.health ≠ .normal → (t.cluster cl).health = .confirmed) ∧
    (t.cluster cl).hours = 0 ∧ (t.cluster cl).sampled = 0 ∧
    (t.cluster cl).findings = BitVec.ofNat 8 (min 255 (k.findings.toNat + 1)) ∧
    t.prfLast = { kind := BitVec.ofNat 2 kind, cl := BitVec.ofNat 7 cl, ctx := BitVec.ofNat 12 ctx, part := BitVec.ofNat 6 part,
                  id := BitVec.ofNat 64 id }

/-! ## The host interface -/

/-- R298, R299, R300, R302, R312: the CXL link and its events. The link comes up at the rate and width of the event; a retrain
stores the new ones and counts; a failed training is counted and journaled, and the eighth leaves the link in Detect; a link that goes
down takes every IDE stream to Insecure, clears CACHE_ACTIVE and keeps the device's state, its SPDM session and the HIF cache, and
every TDI in LOCKED or RUN enters ERROR; an integrity failure takes its stream to Insecure; when the grace period ends the host
transmit queue is discarded; a Function Level Reset of PF0 is a warm device reset.
R301, R303, R314, R523: writes to the configuration space of a function. Bus Master Enable is each function's; VF Enable and the
DVSEC Range 1 base are PF0's, and a VF that is no longer enabled leaves LOCKED and RUN for ERROR; AER status bits clear by writing 1. A
write to a VF that is LOCKED or RUN, but for one that only clears error status, takes its TDI to ERROR, STOP_INTERFACE to UNLOCKED.
R301, R311, R313, R314: the SPDM responder, while the link is up. DOE Discovery names the three data object types. The request
codes that it takes are those of log entry 43. A request with another code is answered with ERROR; KEY_EXCHANGE begins a session,
which FINISH opens, and a FINISH without one is unexpected; END_SESSION closes it; an IDE_KM message sets or stops the keys of one of
the six streams, in a session only; a TSP message moves the TDI of an enabled VF from UNLOCKED to LOCKED and from LOCKED to RUN, in a
session only, and one that finds the TDI in another state leaves it. -/
def Obligations.HostLink : Prop :=
  (∀ (s : State),
     (∀ (rate : BitVec 3) (width : BitVec 5), 1 ≤ rate.toNat → rate.toNat ≤ 4 → width.toNat ∈ [4, 8, 16] →
       (s.hif.up = false → s.hif.stuck = false → s.pwr.offHold = false → s.pwr.refCxl = true →
         exec (.cxlLinkUp rate width) s = .next (State.ideMoved s
           { s with hif := { s.hif with up := true, rate := rate, width := width, tries := 0, cacheOn := true } }).settle) ∧
       (s.hif.up = true →
         let t := State.bumpHalf { s with hif := { s.hif with rate := rate, width := width } } .hif 0 0x40 true
         exec (.cxlRetrain rate width) s =
           .next (if s.hif.rate = rate ∧ s.hif.width = width then t else t.raise .hif 0 1 63))) ∧
     (s.hif.up = false → s.hif.stuck = false → s.pwr.offHold = false →
       exec .linkTrainFail s = .next (State.event { s with hif := { s.hif with
         tries := s.hif.tries + 1, stuck := decide (7 ≤ s.hif.tries) } } evLink 0 (s.hif.tries + 1))) ∧
     (s.hif.up = true →
       let t := s.cxlDown
       exec .linkDown s = .next t ∧ t.hif.up = false ∧ t.hif.ide = 0 ∧ t.hif.cacheOn = false ∧ t.hif.session = s.hif.session ∧
         t.hif.hostCache = s.hif.hostCache ∧ t.hif.txQueue = s.hif.txQueue ∧ t.inflight = s.inflight ∧
         t.lines = s.lines ∧ t.ctxs = s.ctxs ∧
         ∀ p, p < 63 → t.tdi p = if s.tdi p = Tdi.locked ∨ s.tdi p = Tdi.run then Tdi.error else s.tdi p) ∧
     (s.pwr.offHold = false → exec .pf0Flr s = .next (s.warm .flr)) ∧
     (∀ n : BitVec 3, n.toNat < 6 → s.hif.ide.toNat.testBit n.toNat = true →
       exec (.ideRxFail n) s =
         .next (State.setIde { s with hif := { s.hif with fails := min 65535 (s.hif.fails + 1) } } n.toNat false).settle) ∧
     (s.confidential = true → s.ideSecure = false →
       exec .ideGraceExpiry s =
         .next (State.discardTx { s with hif := { s.hif with txQueue := [], graceOut := true } } s.hif.txQueue).settle)) ∧
  (∀ (s : State) (vf : BitVec 6),
     let p := vf.toNat - 1
     let err := fun (t : State) => State.raise { t with hif := { t.hif with tdi := tput Tdi.unlocked t.hif.tdi p .error } } .hif 0 4 63
     (∀ w, exec (.tdiConfigChange ⟨0, w⟩) s = .next (s.cfgWrite 0 w)) ∧
     (vf ≠ 0 → ∀ w, (∀ m, w ≠ .aerClear m) →
       let t := s.cfgWrite vf.toNat w
       (s.tdi p = .locked ∨ s.tdi p = .run → exec (.tdiConfigChange ⟨vf, w⟩) s = .next (err t)) ∧
       (s.tdi p = .unlocked ∨ s.tdi p = .error → exec (.tdiConfigChange ⟨vf, w⟩) s = .next t)) ∧
     (∀ m, exec (.tdiConfigChange ⟨vf, .aerClear m⟩) s = .next { s with hif := { s.hif with
       aer := tput 0 s.hif.aer vf.toNat (tget 0 s.hif.aer vf.toNat &&& ~~~ m) } }) ∧
     (∀ fn on, s.cfgWrite fn (.busMaster on) = { s with hif := { s.hif with masters := tput false s.hif.masters fn on } }) ∧
     (∀ fn w, fn ≠ 0 → (∀ on, w ≠ .busMaster on) → (∀ m, w ≠ .aerClear m) → s.cfgWrite fn w = s) ∧
     (∀ base, s.cfgWrite 0 (.hdmRange base) =
       { s with hif := { s.hif with hdm := base.map fun b => b &&& 0xFFFFFFFFF0000000 } }) ∧
     (∀ on n,
       let k : BitVec 6 := if on then n else 0
       let t := s.cfgWrite 0 (.vfEnable on n)
       t.hif.numVfs = k ∧ ∀ q, q < 63 → t.tdi q =
         if k.toNat ≤ q ∧ (s.tdi q = Tdi.locked ∨ s.tdi q = Tdi.run) then Tdi.error else s.tdi q) ∧
     (vf ≠ 0 → exec (.stopInterface vf) s =
       .next { s with hif := { s.hif with tdi := tput Tdi.unlocked s.hif.tdi p .unlocked } })) ∧
  (∀ (s : State), s.hif.up = true →
     let err := fun (code : Byte) => s.say (.spdm false code .none)
     (∀ i : BitVec 8, (i.toNat ≤ 2 → exec (.spdmRequest (.discovery i)) s =
         .next (s.say (.spdm true 0 (.objectType 1 i.toNat (if i = 2 then 0 else i.toNat + 1))))) ∧
       (2 < i.toNat → exec (.spdmRequest (.discovery i)) s = .next (err 0x01))) ∧
     (∀ c : Byte, c.toNat ∉ spdmCodes → exec (.spdmRequest (.standard c)) s = .next (err 0x07)) ∧
     (∀ c : Byte, c.toNat ∈ spdmCodes → c ≠ 0xE4 → c ≠ 0xE5 → c ≠ 0xEC →
       exec (.spdmRequest (.standard c)) s =
         .next ((s.spdmData c).2.say (.spdm true (BitVec.ofNat 8 (c.toNat - 0x80)) (s.spdmData c).1))) ∧
     (let t := (s.spdmData 0xE4).2
      exec (.spdmRequest (.standard 0xE4)) s =
        .next (State.say { t with hif := { t.hif with keyEx := true } } (.spdm true 0x64 (s.spdmData 0xE4).1))) ∧
     (s.hif.keyEx = true → exec (.spdmRequest (.standard 0xE5)) s =
       .next (State.say { s with hif := { s.hif with session := true, keyEx := false } } (.spdm true 0x65 .none))) ∧
     (s.hif.keyEx = false → exec (.spdmRequest (.standard 0xE5)) s = .next (err 0x04)) ∧
     (∀ r ∈ [SpdmReq.endSession, .standard 0xEC], exec (.spdmRequest r) s =
       .next (State.say { s with hif := { s.hif with session := false } } (.spdm true 0x6C .none))) ∧
     (s.hif.session = false → ∀ n vf,
       exec (.spdmRequest (.tdiLock vf)) s = .next (err 0x0B) ∧
       exec (.spdmRequest (.tdiStart vf)) s = .next (err 0x0B).settle ∧
       exec (.spdmRequest (.keySet n)) s = .next (err 0x0B).settle ∧
       exec (.spdmRequest (.keyStop n)) s = .next (err 0x0B).settle) ∧
     (s.hif.session = true → ∀ (vf : BitVec 6),
       let here := vf ≠ 0 ∧ vf.toNat ≤ s.hif.numVfs.toNat
       let moved := fun (x : Tdi) => State.say { s with hif := { s.hif with
         tdi := tput Tdi.unlocked s.hif.tdi (vf.toNat - 1) x } } (.spdm true 0x7E .none)
       (here → s.tdi (vf.toNat - 1) = Tdi.unlocked → exec (.spdmRequest (.tdiLock vf)) s = .next (moved .locked)) ∧
       (here → s.tdi (vf.toNat - 1) = Tdi.locked → exec (.spdmRequest (.tdiStart vf)) s = .next (moved .run).settle) ∧
       (¬ here ∨ s.tdi (vf.toNat - 1) ≠ Tdi.unlocked → exec (.spdmRequest (.tdiLock vf)) s = .next (err 0x04)) ∧
       (¬ here ∨ s.tdi (vf.toNat - 1) ≠ Tdi.locked → exec (.spdmRequest (.tdiStart vf)) s = .next (err 0x04).settle)) ∧
     (s.hif.session = true → ∀ n : BitVec 3,
       (n.toNat < 6 →
         exec (.spdmRequest (.keySet n)) s = .next ((s.setIde n.toNat true).say (.spdm true 0x7E .none)).settle ∧
         exec (.spdmRequest (.keyStop n)) s = .next ((s.setIde n.toNat false).say (.spdm true 0x7E .none)).settle) ∧
       (6 ≤ n.toNat →
         exec (.spdmRequest (.keySet n)) s = .next (err 0x01).settle ∧
         exec (.spdmRequest (.keyStop n)) s = .next (err 0x01).settle)))

/-- R303, R306, R307, R308, R315: CXL.mem, at an address of the HDM range. A read that reaches a mapped object byte answers the
verified line; one that does not answers all ones, is counted and, the first since the count was read, recorded. A write that reaches
one is stored; one that does not, and a poisoned one, is discarded, poison is reported through AER, and every write is answered. A
read whose check fails Seal-halts the device and answers all ones. An address outside the range is not this device's. -/
def Obligations.HostMemory : Prop :=
  ∀ (s : State) (addr : Word64) (env : Env),
    (s.hdmOff addr = none → ∀ mask d poison,
      exec (.cxlMemRead addr env) s = .next s ∧ exec (.cxlMemWrite addr mask d poison env) s = .next s) ∧
    (∀ base, s.hif.hdm = some base → (s.hdmOff addr).isSome = decide (base.toNat ≤ addr.toNat ∧ addr.toNat < base.toNat + 2 ^ 36)) ∧
    ∀ off, s.hdmOff addr = some off → s.hif.up = true →
      (∀ c, s.windowAt off = .inl c →
        exec (.cxlMemRead addr env) s = .next ((s.memRej false c off).say (.memRead (BitVec.allOnes 512))) ∧
        (∀ mask d, exec (.cxlMemWrite addr mask d false env) s = .next ((s.memRej true c off).say .memCmp)) ∧
        (∀ mask d, exec (.cxlMemWrite addr mask d true env) s = .next (((s.aerReport 0 12).memRej true c off).say .memCmp)) ∧
        ∀ w, (s.memRej w c off).lines = s.lines ∧
          (s.hif.rejInfo = none → (s.memRej w c off).hif.rejInfo =
            some (w, BitVec.ofNat 3 c, BitVec.ofNat 8 (off.toNat / 2 ^ 28), off &&& 0xFFFFFFFC0)) ∧
          (s.hif.rejInfo ≠ none → (s.memRej w c off).hif.rejInfo = s.hif.rejInfo)) ∧
      (∀ a, s.windowAt off = .inr a →
        (∀ mask d, exec (.cxlMemWrite addr mask d true env) s = .next ((s.aerReport 0 12).say .memCmp)) ∧
        (s.memLive = false →
          exec (.cxlMemRead addr env) s = .next (s.say (.memRead (BitVec.allOnes 512))) ∧
          ∀ mask d, exec (.cxlMemWrite addr mask d false env) s = .next (s.say .memCmp)) ∧
        (s.memLive = true →
          (∀ d t, memReadBody env a s = .ok d t → exec (.cxlMemRead addr env) s = .next (t.say (.memRead d))) ∧
          (∀ h t, memReadBody env a s = .error (.halt h) t →
            exec (.cxlMemRead addr env) s = .next ((t.sealHaltNow h).say (.memRead (BitVec.allOnes 512)))) ∧
          (∀ mask d t, writeLine env a mask d (s.touchWindow off mask) = .ok () t →
            exec (.cxlMemWrite addr mask d false env) s = .next (t.say .memCmp))))

/-- R304, R305, R306, R310, R315, R316, R523: a snoop is answered from the HIF cache, a modified line is forwarded, and SnpInv leaves the
device no copy; a ring fetch that fails stops its queue, another host read that fails faults its command; a refused write, counted
and reported through AER, faults its command with 0x1804, stops its queue or ends its request; a slot whose checks pass is mapped and holds its object, one whose checks
fail keeps its mapping and shows the first failure, and unmapping it drops the hold. -/
def Obligations.HostEvents : Prop :=
  ∀ (s : State),
    (s.hif.up = true → ∀ addr,
      (tget none s.hif.hostCache (addr / 64) = none → ∀ k, exec (.hostSnoop k addr) s = .next (s.say (.snoop none))) ∧
      (∀ l, tget none s.hif.hostCache (addr / 64) = some l → ∀ k, ∃ t, exec (.hostSnoop k addr) s = .next t ∧
        t.out = s.out ++ [.snoop (if l.modified = true then some l.data else none)] ∧
        (k = .inv → tget none t.hif.hostCache (addr / 64) = none) ∧
        (k = .data → tget none t.hif.hostCache (addr / 64) = some { l with modified := false }) ∧
        (k = .cur → tget none t.hif.hostCache (addr / 64) = some l))) ∧
    (∀ q e,
      let t := s.aerReport (fnOf (s.partOf q)) (hostErrBit e)
      (s.wouldFetch q = true →
        (∀ m, q = .mgmt m → exec (.hostReadError q e true) s = .next (t.mqStop m.toNat 2).settle) ∧
        (∀ c n, q = .ctx c n → exec (.hostReadError q e true) s = .next (t.failCtx c.toNat 0x1A07).settle)) ∧
      (∀ c, s.cmdOf q = some c → c.started = true →
        exec (.hostReadError q e false) s = .next (t.fail q (hostErrCode e) 0 0).settle)) ∧
    (let u := fun fn => (s.errBit .hif 0 4 63).aerReport fn 20
     (∀ q c, s.cmdOf q = some c →
       exec (.hostWriteRefused (.forCmd q)) s = .next ((u (fnOf (s.partOf q))).fail q 0x1804 0 0).settle) ∧
     (∀ q, s.cmdOf q = none → exec (.hostWriteRefused (.forCmd q)) s = .next (u (fnOf (s.partOf q))).settle) ∧
     (∀ m, exec (.hostWriteRefused (.record (.mgmt m))) s =
       .next ((u (fnOf (s.partOf (.mgmt m)))).mqStop m.toNat 3).settle) ∧
     (∀ c n, exec (.hostWriteRefused (.record (.ctx c n))) s =
       .next ((u (fnOf (s.partOf (.ctx c n)))).failCtx c.toNat 0x1A07).settle) ∧
     (∀ fn, exec (.hostWriteRefused (.colophon fn)) s =
       .next ((u fn.toNat).setColo fn.toNat { s.coloOf fn.toNat with status := 4 }).settle) ∧
     exec (.hostWriteRefused .mailbox) s = .next (State.settle { u 0 with sec := { s.sec with status := 7 } })) ∧
    (∀ w : RegVal, w.fn = 0 → s.gate 0 .hif 0 true false = .go → s.lockHolds 0 .hif 0 = false →
      let v := w.value.toNat
      let n := s.reg 0 .hif 0 0x44 0 % 256
      let h := s.reg (64 + n) .hif 0 0x48 0
      let o := s.reg (64 + n) .hif 0 0x4C 0
      (v.testBit 31 = true →
        (s.stgCheck n (v % 64) h o = 0 → exec (.stagingMap w) s = .next ((s.addHold (h % 2 ^ 20) 1).setStg n
          { mapped := true, part := BitVec.ofNat 6 (v % 64), handle := BitVec.ofNat 32 h, off4k := o, err := 0 })) ∧
        (s.stgCheck n (v % 64) h o ≠ 0 → ∃ t, exec (.stagingMap w) s = .next t ∧
          (t.stg n).mapped = (s.stg n).mapped ∧ (t.stg n).err = BitVec.ofNat 3 (s.stgCheck n (v % 64) h o) ∧ t.objs = s.objs)) ∧
      (v.testBit 31 = false → (s.stg n).mapped = true →
        exec (.stagingUnmap w) s = .next ((s.dropHold ((s.stg n).handle.toNat % 2 ^ 20)).setStg n
          { mapped := false, part := BitVec.ofNat 6 (v % 64), handle := 0, off4k := 0, err := 0 }).settle))

/-! ## The fabric -/

/-- R393, R414, R417, R418, R470: the states of a port. ENABLE and RESET act through the driver; TRAIN_RETRY_MS lets a port that may train
train again; a training that does not end in 200 ms and a retrain that does not end in 10 ms take the port DOWN with REASON 2; a lost
lane or a burst of uncorrectable codewords starts a retrain; a burst of failed hop tags takes the port DOWN with REASON 8, a packet
replayed 8 times with REASON 9, a halt frame with REASON 11; at 2^31 packets the ends agree new keys.
R395, R397, R441: who the partner of a training port is. An identity record without a known magic leaves the port as it is; one
of version 2 of a fitting kind leads a device to ATTESTING and a switch to the plan check; an unfitting kind is FENCED with REASON 6, a
version that is not 2 with REASON 3 or DOWN. Evidence that passes and is of the identified device gives the port its session and leads
it to the plan check; other evidence, and none within 50 ms, FENCES the port with REASON 4. -/
def Obligations.FabricPorts : Prop :=
  (∀ (s : State) (port : BitVec 3),
     let p := port.toNat
     let x := s.port p
     (s.gate 0 .ctn p true false = .go →
       (∀ on, s.lockHolds 0 .ctn p = false →
         exec (.ctnEnable 0 port on) s = .next (s.ctnWrite p (s.ctnCtrl p / 2 * 2 + b2n on)).settle) ∧
       exec (.linkReset 0 port) s = .next ((if x.state = .down then s else s.portDown p 12).train p).settle) ∧
     exec (.trainRetryExpiry port) s = .next ((s.setPort p { x with retryOk := true }).train p).settle ∧
     (x.state = .training → x.retrain = false →
       exec (.trainingTimeout port) s = .next ((s.errBit .ctn p 1 63).portDown p 2).settle) ∧
     (x.state = .training → x.retrain = true →
       exec (.retrainTimeout port) s = .next ((s.errBit .ctn p 1 63).portDown p 2).settle) ∧
     (x.state = .up →
       (let t := s.setPort p { x with retrain := true, idOk := false }
        exec (.portRetrain port false) s = .next ((t.portMove p .training 0).raise .ctn p 4 63).settle) ∧
       (let u := ((s.bump 0 .ctn p 0x64 64).errBit .ctn p 2 63).raise .ctn p 3 63
        let t := u.setPort p { u.port p with retrain := true, idOk := false }
        exec (.portRetrain port true) s = .next ((t.portMove p .training 0).raise .ctn p 4 63).settle) ∧
       exec (.hopAuthFail port) s = .next ((((s.errBit .ctn p 3 63).raise .ctn p 2 63).portFail p 8).settle) ∧
       exec (.replayExhausted port) s = .next ((((s.bump 0 .ctn p 0x68 8).errBit .ctn p 4 63).portFail p 9).settle) ∧
       (x.session ≠ none → 2 ^ 31 ≤ x.txSeq.toNat ∨ 2 ^ 31 ≤ x.rxSeq.toNat →
         (∃ keys n, exec (.hopRekey port true) s = .next (State.setPort { s with freeCtr := n } p
           { x with session := some keys, txSeq := 0, rxSeq := 0 })) ∧
         exec (.hopRekey port false) s = .next ((((s.errBit .ctn p 3 63).raise .ctn p 2 63).portFail p 8).settle))) ∧
     exec (.haltFrame port) s = .next ((s.portFail p 11).settle)) ∧
  (∀ (s : State) (port : BitVec 3),
     let p := port.toNat
     let x := s.port p
     (∀ rec lanes, x.state = .training →
       let r := rec.toNat
       let magic := field r 0 4
       let version := if (field r 4 1).testBit 2 then 2 else if (field r 4 1).testBit 1 then 1 else 0
       let t := s.setPort p (x.identified r version lanes)
       let fits := lanes = 0xFF ∨ ((s.ctnCtrl p).testBit 3 = true ∧ (lanes = 0x0F ∨ lanes = 0xF0))
       (magic ≠ 0x44394C49 → magic ≠ 0x53394C49 → exec (.identityRecord port rec lanes) s = .next s) ∧
       (fits → magic = 0x44394C49 ∨ magic = 0x53394C49 →
         (version = 0 → exec (.identityRecord port rec lanes) s = .next ((t.errBit .ctn p 1 63).portDown p 3).settle) ∧
         (version = 1 →
           exec (.identityRecord port rec lanes) s = .next (((t.dropSession p).errBit .ctn p 1 63).portMove p .fenced 3).settle) ∧
         (version = 2 → magic = 0x53394C49 →
           exec (.identityRecord port rec lanes) s =
             .next (if p < 6 then (t.dropSession p).portMove p .fenced 6 else t.place' p).settle) ∧
         (version = 2 → magic = 0x44394C49 →
           (6 ≤ p → exec (.identityRecord port rec lanes) s = .next ((t.dropSession p).portMove p .fenced 6).settle) ∧
           (p < 6 → x.retrain = false →
             exec (.identityRecord port rec lanes) s = .next ((t.dropSession p).portMove p .attesting 0).settle)))) ∧
     (x.state = .attesting → ∀ ev,
       let passes := ev.verifies = true ∧ ev.confidential = true ∧ (ev.lifecycle = 2 ∨ ev.lifecycle = 3) ∧ ev.nonceOk = true ∧
         ev.serial = x.serial
       (passes → ∃ keys n, exec (.attestationEvidence port ev) s = .next (((State.setPort { s with freeCtr := n } p
         { x with attested := true, meas := ev.meas, session := some keys, txSeq := 0, rxSeq := 0 }).place' p).settle)) ∧
       (¬ passes → exec (.attestationEvidence port ev) s = .next (((s.errBit .ctn p 0 63).portMove p .fenced 4).settle))) ∧
     (x.state = .attesting → exec (.attestTimeout port) s = .next (((s.errBit .ctn p 0 63).portMove p .fenced 4).settle)))

/-- R401: a torus port whose partner passes the plan check in fixed mode has the partner that the plan names for its own role: the
plan is the same, the entry is present, and the serial number, the device number and the partner's port are those of the entry. -/
def Obligations.PlanCheckFixed : Prop :=
  ∀ (s : State) (p r : Nat), p < 6 → s.planAt 6 1 % 2 = 0 → s.torusCheck p = .inr r →
    r = p ∧ (s.port p).planId.toNat = s.planAt 8 8 ∧ s.nbrPresent p = true ∧ s.nbr p 0 8 = (s.port p).serial.toNat ∧
    s.nbr p 8 2 % 1024 = (s.port p).peerDev.toNat ∧ s.nbr p 10 1 = (s.port p).peerPort.toNat ∧
    ((s.port p).peerRole = 0xFF ∨ (s.port p).peerRole.toNat = opposite p)

/-- R404, R406, R407, R411 to R415: packets. A returned credit frees units and what it acknowledges and lets what waits go; a VC0 packet
without a credit for too long is discarded; a packet of a started command is injected, or its command faults; a packet that is received
with a good hop tag in order takes effect, one with a bad tag is counted, one out of order on a torus port changes nothing; a LOSS packet
faults the command that sent the lost one; a link report of a device of the group enters the map.
R409, R410: pair sessions. Evidence of a device of another group that passes opens the session, which carries what waited; evidence
that fails, and none within 50 ms, faults the commands that wait with 0x2903; a close request ends the session once nothing of it is on
its way, an acknowledgement ends the session that this device closes. -/
def Obligations.FabricPackets : Prop :=
  (∀ (s : State),
     (∀ (port : BitVec 3) (vc : BitVec 2) (cls : BitVec 1) units,
       let p := port.toNat
       let x := s.port p
       let key := vc.toNat * 2 + cls.toNat
       x.state = .up → exec (.creditReturn port vc cls units) s = .next ((s.setPort p { x with
         credits := tput 0 x.credits key (tget 0 x.credits key - units), replay := acked key units x.replay }).drainPort p x.txq.length)) ∧
     (∀ (port : BitVec 3) k rest, takeFirst (fun (k : Pkt) => pktVc k.data == 0) (s.port port.toNat).txq = some (k, rest) →
       exec (.vc0CreditTimeout port) s = .next ((s.setPort port.toNat { s.port port.toNat with txq := rest }).discard
         (some port.toNat) k 0).settle) ∧
     (∀ (w : InjectIn) c, s.cmdOf w.src = some c → c.started = true → w.payload.length ≤ 1024 →
       (∀ code, s.inject w = .inl code → exec (.packetInject w) s = .next (s.fail w.src code 0 0).settle) ∧
       (∀ t, s.inject w = .inr t → exec (.packetInject w) s = .next t.settle)) ∧
     (∀ (w : PacketIn),
       let p := w.port.toNat
       let x := s.port p
       let d := leBytes 16 w.header.toNat ++ w.payload
       x.state = .up → w.payload.length = pktLen d + (if pktMgmt d = true then 0 else 16) →
       (w.hopOk = false → exec (.packetReceive w) s = .next (s.bump 0 .ctn p 0x6C 1)) ∧
       (w.hopOk = true → p < 6 →
         (w.hopSeq ≠ x.rxSeq → exec (.packetReceive w) s = .next s) ∧
         (w.hopSeq = x.rxSeq →
           exec (.packetReceive w) s = .next ((s.setPort p { x with rxSeq := x.rxSeq + 1 }).takePacket p d w.jobOk).settle))) ∧
     (∀ (l : LossIn) p c, s.sliceOwner l.slice.toNat = some p → s.cmdOf l.src = some c → s.partOf l.src = p →
       exec (.lossPacket l) s = .next (((s.bump2 p .frt 0 0x68 1).raise .frt 0 4 p).fail l.src 0x2901 0 0).settle) ∧
     (∀ r : LinkRep, s.frt.plan ≠ none → r.dev.toNat ≠ s.devNum → s.devExists r.dev.toNat = true →
       s.sameGroup s.devNum r.dev.toNat = true →
       ∃ t, exec (.linkReport r) s = .next t ∧ r ∈ t.frt.map ∧ ∀ y ∈ t.frt.map, y.dev = r.dev → y = r)) ∧
  (∀ (s : State) (dev : BitVec 10),
     let d := dev.toNat
     let gone : State := { s with frt := { s.frt with pairs := s.frt.pairs.filter fun e => e.1 != dev } }
     (s.pairPeer d = true → ∀ ev,
       (∀ x, s.pair d = some x →
         (evidencePasses ev = true → ∃ keys n, exec (.pairAttest dev ev) s = .next (((State.setPair { s with freeCtr := n } d
           { x with up := true, keys := keys, rxSeq := none, closing := false, used := s.pairUse }).pairGo d).settle)) ∧
         (evidencePasses ev = false → x.up = false → exec (.pairAttest dev ev) s = .next ((s.pairDead d).settle))) ∧
       (s.pair d = none → evidencePasses ev = true → s.frt.pairs.length < 1024 →
         ∃ keys n, exec (.pairAttest dev ev) s = .next ((State.setPair { s with freeCtr := n } d
           { up := true, keys := keys, waiting := [], closing := false, used := s.pairUse, rxSeq := none }).mgmtPacket d 3 []))) ∧
     (∀ x, s.pair d = some x → x.up = false → exec (.pairAttestTimeout dev) s = .next ((s.pairDead d).settle)) ∧
     (∀ x, s.pair d = some x →
       (x.closing = true → exec (.pairClose dev true) s = .next gone) ∧
       (s.pairBusy d = false → exec (.pairClose dev false) s = .next (gone.mgmtPacket d 3 [2])) ∧
       (s.pairBusy d = true → exec (.pairClose dev false) s = .next s)))

/-- R399, R404: a plan is loaded through the driver: a host read that fails ends with ERR 1, a check that fails with the lowest number
that applies, and both leave the plan; a plan that passes is the device's plan, and its ports, routes and sizes follow it. OPEN is
stored as written while no partition holds a slice, and as 0 else. -/
def Obligations.FabricPlan : Prop :=
  ∀ (s : State), s.gate 0 .frt 0 true false = .go →
    (s.partLive = true →
      exec (.planLoad 0 none) s = .next ((State.raise { s with frt := { s.frt with planErr := 1 } } .frt 0 0 63).settle) ∧
      ∀ l, (s.planCheck l ≠ 0 → exec (.planLoad 0 (some l)) s = .next ((State.raise { s with frt := { s.frt with
          planErr := BitVec.ofNat 4 (s.planCheck l) } } .frt 0 0 63).settle)) ∧
        (s.planCheck l = 0 →
          let u : State := { s with frt := { s.frt with planErr := 0, plan := some l } }
          let near := fun (d : BitVec 10) => u.devExists d.toNat && u.sameGroup u.devNum d.toNat && d.toNat != u.devNum
          let v : State := { u with frt := { u.frt with
            map := s.frt.map.filter fun r => near r.dev, twoMeas := s.frt.twoMeas.filter near } }
          exec (.planLoad 0 (some l)) s = .next (((State.replanned s v).raise .frt 0 0 63).settle))) ∧
    (s.lockHolds 0 .frt 0 = false → ∀ w : RegVal, w.fn = 0 →
      let free := ∀ e ∈ s.parts, e.2.slice = none
      let on := w.value.toNat % 2 = 1 ∧ free
      let t := s.setReg 0 .frt 0 0x10 0 (if on then 1 else 0)
      exec (.frtOpen w) s = .next (if t.openMode = s.openMode then t else (State.replanned s t).settle))

/-! ## Security -/

/-- R434, R438, R445: KEY_LOAD. A blob of this boot in the issuer's partition whose tag verifies: one for memory makes its BOUND KeyID
KEYED where its mask admits the life cycle, one for a job installs the job whose record the device holds and whose measurement and
slice fit. A blob of another boot faults with 0x0402, one that does not unwrap with 0x0401, one of another partition or KeyID with
0x0403, and SEC_KEY_FAULT records it.
R428, R440, R450, R451: the mailbox. An operation that is started while none is in progress reads its request: a failed read ends it
with STATUS 7; else it ends with the STATUS of its checks and changes nothing, or performs and answers through the gate a response that
fits its buffer; a reserved OPCODE ends with STATUS 1; BUSY is 0 after each, and START is ignored while it is 1. A life-cycle word that
is burned is followed by a warm device reset. -/
def Obligations.KeysAndMailbox : Prop :=
  (∀ (s : State) (q : CmdIn) (t : State), s.admits 0x71 fromC (fun d => bodyOnly d [(8, 2), (16, 12)]) q t →
     let d := descOf q 0x71
     let kid := field d 8 2
     let p := t.partOf q.src
     ∀ b u, field d 24 4 = 128 → vread { src := q.src, env := q.env } .copy 0x1901 (field d 16 8) 128 t = .ok b u → blobForm b = true →
       let faulted := fun (code : Nat) => (((({ u with sec := { u.sec with
         keyFault := (BitVec.ofNat 12 (ctxOf q.src), BitVec.ofNat 16 code) } } : State).errBit .sec 0 2 63).raise .sec 0 1 63).fail
           q.src code 0 0).settle
       (leAt b 8 8 ≠ u.bootId → exec (.keyLoad q) s = .next (faulted 0x0402)) ∧
       (leAt b 8 8 = u.bootId →
         (u.unwrap b = none → exec (.keyLoad q) s = .next (faulted 0x0401)) ∧
         (∀ secret, u.unwrap b = some secret →
           (leAt b 6 1 = 1 →
             (leAt b 16 1 ≠ p ∨ leAt b 18 2 ≠ kid → exec (.keyLoad q) s = .next (faulted 0x0403)) ∧
             (leAt b 16 1 = p → leAt b 18 2 = kid →
               ((u.kid kid).state ≠ .bound ∨ (u.kid kid).owner.toNat ≠ p → exec (.keyLoad q) s = .next (faulted 0x0404)) ∧
               ((u.kid kid).state = .bound → (u.kid kid).owner.toNat = p → 1 ≤ u.lifecycle → u.lifecycle ≤ 4 →
                 ((leAt b 20 4).testBit (23 + u.lifecycle) = false → exec (.keyLoad q) s = .next (faulted 0x0405)) ∧
                 ((leAt b 20 4).testBit (23 + u.lifecycle) = true → exec (.keyLoad q) s =
                   .next ((u.setKid kid { u.kid kid with state := .keyed, blob := BitVec.ofNat 1024 (ofLe b) }).finish
                     q.src 0 0 0 0).settle)))) ∧
           (leAt b 6 1 = 2 → leAt b 16 1 = p → kid = 0 → (u.part p).job = none →
             ∀ r, (u.sec.jobRecs.find? fun r => (r.1.setWidth 224).toNat == leAt b 36 28) = some r → jobMeas r.2 = u.sec.m4 →
               (∀ n, jobSlice r.2 = some n → ((u.part p).slice.map (·.toNat)) = some n) →
               exec (.keyLoad q) s =
                 .next ((u.installJob p r.1 (BitVec.ofNat 256 (ofLe secret)) r.2).finish q.src 0 0 0 0).settle)))) ∧
  (∀ (s : State) (m : MbIn), s.mbLive = true →
     (s.sec.busy = true → ∀ i ∈ [Instr.keyGen m, .keyRelease m, .shareSubmit m, .releaseExport m, .jobDrop m], exec i s = .next s) ∧
     (s.sec.busy = false →
       exec (.keyGen m) s = .next (s.mbPerform 2 m keyGenOp) ∧ exec (.keyRelease m) s = .next (s.mbPerform 3 m keyReleaseOp) ∧
       exec (.shareSubmit m) s = .next (s.mbPerform 4 m shareSubmitOp) ∧
       exec (.releaseExport m) s = .next (s.mbPerform 5 m releaseExportOp) ∧
       exec (.jobDrop m) s = .next (s.mbPerform 7 m jobDropOp) ∧
       (let t := s.mbPerform 6 m lcAdvanceOp
        exec (.lcAdvance m) s = .next (if t.sec.lc = s.sec.lc then t else t.warm .lcAdvance)) ∧
       (∀ op : Byte, (Instr.secMbReservedOpcode op m).wellFormed = true →
         exec (.secMbReservedOpcode op m) s = .next (s.mbPerform op.toNat m fun _ _ => .refuse 1))) ∧
     exec (.getEvidence m) s = .next (s.mbPerform 1 m evidenceOp) ∧
     ∀ (op : Nat) (body : State → List Byte → MbEnd),
       let v := s.setReg 0 .sec 0 0x40 0 op
       let t := s.mbPerform op m body
       t.sec.busy = false ∧
       (m.req = none → t.sec.status = 7 ∧ t.sec.respLen = 0) ∧
       (∀ l n, m.req = some l → body v l = .refuse n → t = v.mbEnd n 0) ∧
       (∀ l n r u, m.req = some l → body v l = .done n r u →
         (v.mbBuf < r.length → t = v.mbEnd 1 0) ∧
         (r.length ≤ v.mbBuf → r ≠ [] → t = (u.hostPost 0 .mailbox none none v.mbAddr r).mbEnd n r.length)))

/-- R434, R442, R451, R452: which request KEY_GEN performs. It answers a blob of 128 bytes only in a life-cycle state that has memory keys,
for an ACTIVE partition and a KeyID that is BOUND to it, with a mask without reserved bits and no WORLD value that needs a digest; and
it changes nothing but the generator's place. -/
def Obligations.KeyGenChecks : Prop :=
  ∀ (s : State) (r : List Byte) n b t, keyGenOp s r = .done n b t →
    n = 0 ∧ b.length = 128 ∧ 8 ≤ r.length ∧ s.lifecycle ∈ [1, 2, 3, 4] ∧ (s.part (leAt r 0 1)).state = .active ∧
    (s.kid (leAt r 2 2)).state = .bound ∧ (s.kid (leAt r 2 2)).owner.toNat = leAt r 0 1 ∧
    bits (leAt r 4 4) 31 28 = 0 ∧ bits (leAt r 4 4) 17 16 = 0 ∧ ∃ k, t = { s with freeCtr := k }

/-- R426: the life-cycle word. Each bit is the majority of the three copies; the six words of the table name their states, and any other
reads as SCRAP; burning a word only sets bits; each state's word includes every bit of the states before it, so burning moves the state
only forward. -/
def Obligations.LifeCycleWord : Prop :=
  (∀ (s t : State) (a b c m : BitVec 16), s.sec.lc = [a, b, c] → t.sec.lc = [m, m, m] →
    (∀ i, i < 16 → (m.getLsbD i = true ↔ 2 ≤ ([a, b, c].filter fun w => w.getLsbD i).length)) → s.lifecycle = t.lifecycle) ∧
  (∀ (s : State) (m : BitVec 16), s.sec.lc = [m, m, m] → s.lifecycle = if m = 0x0000 then 0 else if m = 0x000F then 1
    else if m = 0x00FF then 2 else if m = 0x0FFF then 3 else if m = 0x3FFF then 4 else 5) ∧
  (∀ (s : State) (code k i : Nat) (a : BitVec 16), s.sec.lc[k]? = some a → a.getLsbD i = true →
    ∃ b : BitVec 16, (s.burnLife code).sec.lc[k]? = some b ∧ b.getLsbD i = true) ∧
  (∀ a b, a ≤ b → b ≤ 5 → lifeWord a &&& lifeWord b = lifeWord a) ∧
  ∀ (s : State) code, code ≤ 5 → s.lifecycle ≤ (s.burnLife code).lifecycle ∨ s.lifecycle = 5

/-- R425, R428, R429, R508: moves of the life cycle. A move of R428 that burns a word leads to the state that it names, entry to RETURN to
RETURN, and no device of SCRAP moves; the provisioning station writes DUS in MANUFACTURE and in no other state. -/
def Obligations.LifeCycle : Prop :=
  (∀ (s : State) target y, s.lifeMove target = some y → target ≠ 4 → (s.burnLife target).lifecycle = target) ∧
  (∀ s : State, s.lifecycle < 5 → s.returnEntry.lifecycle = 4) ∧ (∀ (s : State) target, s.lifecycle = 5 → s.lifeMove target = none) ∧
  (∀ (s : State) (v : BitVec 256),
    (s.lifecycle = 1 → exec (.jtagAccess (.writeDus v)) s = .next { s with sec := { s.sec with dus := some v } }) ∧
    (s.lifecycle ≠ 1 → exec (.jtagAccess (.writeDus v)) s = .next s) ∧ exec (.jtagAccess .other) s = .next s)

/-! ## Power, clocks and resets -/

/-- R455, R459 to R463, R468 to R471, R489, R502, R504: PWR_OK, the end of BOOT, the supply and the clocks. PWR_OK begins a power-on reset and
its fall stops the device; BOOT ends in SERVICE, or EVACUATE; an image that fails stops BOOT, a trial of it ends in the fallback; a
rail below UV_WARN takes a device in SERVICE or EVACUATE into BRACED, which it leaves once every rail has recovered; below UV_RESET it
resets, and after BRACE_MAX it takes a warm device reset; a lost reference clock takes the ports or the link down. -/
def Obligations.PowerEvents : Prop :=
  ∀ (s : State),
    (s.pwr.pwrOk = false → s.pwr.refAon = true → ∀ m,
      exec (.pwrOkRise m) s = .next (State.powerOn { s with pwr := { s.pwr with pwrOk := true, sbSmbus := m } } .pwrOk)) ∧
    (s.pwr.pwrOk = true → ∃ t, exec .pwrOkFall s = .next t ∧ t.pwr.pwrOk = false ∧ t.pwr.haltN = true ∧ t.dispatches = false) ∧
    (s.booting = true →
      (s.slotOk s.mgt.running = true → exec .bootDone s = .next s.bootEnd.settle) ∧
      (let b := s.mgt.running
       let t := State.event { s with mgt := s.mgt.setSlot b { s.mgt.slot b with valid := false } } evBoot 0 (b2n b)
       (s.mgt.tryUsed = true → exec .bootImageFail s = .next t.trialFail) ∧
       (s.mgt.tryUsed = false → exec .bootImageFail s = .next { t with
         pwr := { t.pwr with bootFail := true }, mgt := { t.mgt with recovery := !t.slotOk (!b) } })) ∧
      (s.mgt.tryUsed = true → exec .activationTimeout s = .next s.trialFail)) ∧
    (∀ (rail : Rail) (mv : BitVec 16) (warn : Nat), uvWarnMv rail.toNat = some warn →
      let k := rail.toNat
      (mv.toNat < warn → s.pwr.state = .service ∨ s.pwr.state = .evacuate →
        let t := s.sense k mv.toNat fun _ => true
        exec (.uvWarn rail mv) s =
          .next ((State.errBit { t with pwr := { t.pwr with state := .braced } } .pwr 0 0 63).raise .pwr 0 0 63)) ∧
      (warn ≤ mv.toNat → exec (.uvWarn rail mv) s = .next (s.sense k mv.toNat id)) ∧
      (mv.toNat < warn + 15 → exec (.railRecovered rail mv) s = .next (s.sense k mv.toNat id)) ∧
      (warn + 15 ≤ mv.toNat → s.pwr.state = .braced →
        let t := s.sense k mv.toNat fun _ => false
        exec (.railRecovered rail mv) s = .next (if t.pwr.rails.any (·.2.2) = true then t else t.unbrace))) ∧
    (∀ (rail : Rail) mv, uvWarnMv rail.toNat = none → exec (.uvWarn rail mv) s = .fault .noSuchRail ∧
      exec (.railRecovered rail mv) s = .fault .noSuchRail) ∧
    (∀ (rail : Rail) mv low b, s.pwr.rails[rail.toNat]? = some (mv, low, b) → s.pwr.pwrOk = true → s.pwr.refAon = true →
      rail.toNat ≤ 5 → exec (.uvReset rail) s = .next (State.powerOn { s with pwr := { s.pwr with
        rails := s.pwr.rails.set rail.toNat (mv, low, decide (rail.toNat < 5)) } } (.uv rail))) ∧
    (s.pwr.state = .braced → s.pwr.offHold = false → exec .braceMaxExpiry s = .next ((s.warm .braceMax).errBit .pwr 0 1 63)) ∧
    (s.gate 0 .pwr 0 true false = .go →
      exec (.warm 0) s = .next (if s.sensorHot = true ∨ s.pwr.offHold = true then s else s.warm .warm)) ∧
    exec (.refclkLoss .aon) s = .next { s with pwr := { s.pwr with refAon := false } } ∧
    exec (.refclkLoss .cxl) s = .next (State.cxlDown { s with pwr := { s.pwr with refCxl := false } }) ∧
    exec (.refclkLoss .fab) s = .next (((List.range 8).foldl (fun (t : State) p => t.portDown p 2)
      { s with pwr := { s.pwr with refFab := false } }).settle) ∧
    exec (.refclkReturn .cxl) s = .next { s with pwr := { s.pwr with refCxl := true } } ∧
    (s.pwr.refAon = false → s.pwr.pwrOk = true →
      exec (.refclkReturn .aon) s = .next (State.powerOn { s with pwr := { s.pwr with refAon := true } } .pwrOk)) ∧
    (s.pwr.refFab = true → exec (.refclkReturn .fab) s = .next s)

/-- R457, R464, R465: the governors. At a tick the thermal governor's N falls by one, to 8 at least, while a junction sensor reads above
T_THROT, and rises by one, to 16 at most, once all read more than 3 °C below; the power-cap governor's N does the same with the cap
and 40 W. A trip takes the device to HALTED with THERM_N and HALT_N low and records the sensor; the refresh rate of a stack doubles and
returns. PWR_STAT.N is the smaller of the two, and 8 at most in BRACED.
R466, R467: SLUMBER. A request is refused with SLUMBER_ERR 1 outside SERVICE and 2 while a partition changes; else dispatch stops, and
once every dispatched command has completed and every gate buffer is empty the device writes its caches back and enters SLUMBER, with
every port DOWN, every cluster in FALLOW and no key cached; it always does so where nothing is dirty. Clearing the request wakes it to
SERVICE. -/
def Obligations.GovernorsAndSlumber : Prop :=
  (∀ (s : State),
     (∀ l, let t := s.read l
       let hot := ∃ k, k < 32 ∧ t.throt < t.temp k
       let cool := ∀ k, k < 32 → t.temp k + 3 < t.throt
       (hot → exec (.thermalGovernorTick l) s = .next (t.setTherm (max 8 (s.pwr.nTherm - 1)))) ∧
       (¬ hot → cool → exec (.thermalGovernorTick l) s = .next (t.setTherm (min 16 (s.pwr.nTherm + 1)))) ∧
       (¬ hot → ¬ cool → exec (.thermalGovernorTick l) s = .next t)) ∧
     (∀ w : BitVec 11, ∃ t, exec (.powerCapTick w) s = .next t ∧ t.pwr.watts = w ∧ t.pwr.nTherm = s.pwr.nTherm ∧
       (s.capWatts ≠ 0 → s.capWatts < w.toNat → t.pwr.nCap = max 8 (s.pwr.nCap - 1)) ∧
       (w.toNat + 40 < s.capWatts → t.pwr.nCap = min 16 (s.pwr.nCap + 1)) ∧
       (s.capWatts ≠ 0 → s.capWatts ≤ w.toNat + 40 → w.toNat ≤ s.capWatts → t.pwr.nCap = s.pwr.nCap)) ∧
     (∀ (k : BitVec 6) (v : BitVec 8), s.pwr.state ≠ .halted → (if k.toNat < 32 then 110 else 105) ≤ v.toNat →
       ∃ t, exec (.thermalTrip k v) s = .next t ∧ t.pwr.state = .halted ∧ t.pwr.thermN = true ∧ t.pwr.haltN = true ∧
         t.pwr.trip = some (k, v) ∧ t.inflight = [] ∧ t.pwr.sealHalt = s.pwr.sealHalt) ∧
     (∀ (k : BitVec 5) (on : Bool), ∃ t, exec (.dramTHot k on) s = .next t ∧ t.pwr.dramHot.getLsbD k.toNat = on ∧
       ∀ j, j < 32 → j ≠ k.toNat → t.pwr.dramHot.getLsbD j = s.pwr.dramHot.getLsbD j) ∧
     s.coreN ≤ s.pwr.nTherm ∧ (s.pwr.state = .braced → s.coreN ≤ 8) ∧ (s.capWatts ≠ 0 → s.coreN ≤ s.pwr.nCap)) ∧
  (∀ (s : State),
     (s.gate 0 .pwr 0 true false = .go → s.lockHolds 0 .pwr 0 = false →
       exec (.slumberReq 0) s = .next s.slumberAsk.settle ∧ exec (.slumberReqClear 0) s = .next s.slumberDrop) ∧
     (s.pwr.slumWait = false →
       let moving := ∃ e ∈ s.parts, e.2.state = .binding ∨ e.2.state = .draining ∨ e.2.state = .resetting
       (s.pwr.state ≠ .service → s.slumberAsk.pwr.slumWait = false ∧ s.slumberAsk.pwr.slumErr = 1) ∧
       (s.pwr.state = .service → moving → s.slumberAsk.pwr.slumWait = false ∧ s.slumberAsk.pwr.slumErr = 2) ∧
       (s.pwr.state = .service → ¬ moving →
         s.slumberAsk.pwr.slumWait = true ∧ s.slumberAsk.pwr.slumErr = 0 ∧ s.slumberAsk.dispatches = false)) ∧
     (s.pwr.slumWait = true → s.pwr.state = .service → s.pwr.offHold = false → (∀ c ∈ s.inflight, c.started = false) → s.egress = [] →
       (∀ u, flushAll s = .ok () u → exec .slumberEnter s = .next u.slumberDown) ∧
       ((∀ e ∈ s.cases, ∀ c, e.2 = some c → c.dirty = false) → (∀ e ∈ s.ctrs, ∀ x, e.2 = some x → x.dirty = false) →
         ∃ u, flushAll s = .ok () u ∧ exec .slumberEnter s = .next u.slumberDown)) ∧
     (s.slumberDown.pwr.state = .slumber ∧ (∀ p, p < 8 → (s.slumberDown.port p).state = .down) ∧
       (∀ c, c < 128 → (s.slumberDown.cluster c).pwr = .fallow) ∧ ∀ e ∈ s.slumberDown.kids, e.2.cached = false ∧ e.2.seed = 0))

/-! ## Management -/

/-- R474 to R477, R299, R428: the sideband, while it answers. Each command is acknowledged with its data; GET_SENSOR of a sensor that does
not exist, a life-cycle token that does not verify and an unknown code are answered with a NACK and change nothing else. READ_JOURNAL
answers the committed record of the least SEQ at or above the argument. -/
def Obligations.SidebandCommands : Prop :=
  ∀ (s : State), s.sideband = true →
    (∃ d n, exec .getStatus s = .next (State.sbAck { s with freeCtr := n } d) ∧ d.length = 16 ∧
      (s.confidential = false → n = s.freeCtr)) ∧
    (∀ k : BitVec 8,
      (63 < k.toNat → exec (.getSensor k) s = .next s.sbNack) ∧
      (k.toNat ≤ 63 → s.confidential = false →
        let v := tget (0, 0, 0) s.pwr.temps k.toNat
        exec (.getSensor k) s = .next (State.sbAck { s with pwr := { s.pwr with
          temps := tput (0, 0, 0) s.pwr.temps k.toNat (v.1, v.2.1, v.1) } } [BitVec.ofNat 8 v.1, BitVec.ofNat 8 v.2.2]))) ∧
    (∀ (n : Word64), s.mgt.store ≠ 2 →
      ((∀ r ∈ s.mgt.good, r.seq.toNat < n.toNat) → exec (.readJournal n) s = .next (s.sbAck [])) ∧
      (∀ r ∈ s.mgt.good, n.toNat ≤ r.seq.toNat → (∀ x ∈ s.mgt.good, n.toNat ≤ x.seq.toNat → x = r ∨ r.seq.toNat < x.seq.toNat) →
        exec (.readJournal n) s = .next (s.sbAck r.bytes))) ∧
    (∀ token,
      (s.sbLife token = none → exec (.sbLcAdvance token) s = .next s.sbNack) ∧
      (∀ t, s.sbLife token = some t → exec (.sbLcAdvance token) s = .next ((t.sbAck []).warm .lcAdvance))) ∧
    (s.pwr.offHold = false → exec .warmReset s = .next ((s.sbAck []).warm .sideband)) ∧
    (∃ t, exec .linkRetry s = .next t ∧ t.hif.tries = 0 ∧ t.hif.stuck = false ∧ t.hif.up = s.hif.up) ∧
    exec .wake s = .next (s.sbAck []).wakeUp ∧
    (∀ c, exec (.sidebandUnknownCommand c) s = .next s.sbNack)

/-- R481, R485, R486: the journal store, while it takes records. The next pending record is committed under the next SEQ, or, where the
flash fails, its sector is retired and the record stays; compaction rewrites what is current of the oldest sealed sector and erases
it; the hour count rises by one and is journaled.
R488 to R491: firmware, through the driver while no operation is in progress. STAGE checks the device, the store and the length and
begins; a bundle that was read, verifies and is at or above the floor is staged in the slot that is not running; ACTIVATE tries the
staged slot with a warm device reset; DISCARD forgets it; COMMIT_SVN raises the floor to the running SVN, never lowers it. -/
def Obligations.JournalAndFirmware : Prop :=
  (∀ (s : State), s.pwr.refAon = true →
     (s.mgt.store = 0 → ∀ r i m, s.nextRecord = some r → s.mgt.room r.size = some (i, m) →
       exec (.journalWrite { ok := true }) s = .next { s with mgt := { m.commit i r with queue := m.queue.erase r } } ∧
       exec (.journalWrite { ok := false }) s =
         .next (State.retireSector { s with mgt := m.setSector i { m.sector i with state := .sealedS } } i)) ∧
     (∀ (m : Mgt) i r, (m.commit i r).nextSeq = m.nextSeq + 1 ∧
       ((m.commit i r).sector i).recs = (m.sector i).recs ++ [{ r with seq := m.nextSeq }]) ∧
     (s.mgt.store = 0 → s.mgt.erased.length < 8 → ∀ i n, s.mgt.oldest = some i →
       let recs := (s.mgt.sector i).recs.filter (·.ok)
       let keep := recs.filter fun r => decide (r.type = .spare) || (r.type.isState && s.mgt.current r)
       s.mgt.rewrite keep = some n →
       let t := s.bump 0 .mgt 0 0x50 (recs.filter fun r => decide (r.type = .event)).length
       let erases := (s.mgt.sector i).erases + 1
       (erases < 90000 → exec (.journalCompaction { ok := true }) s =
         .next { t with mgt := n.setSector i { Sector.reset with erases := erases } }) ∧
       exec (.journalCompaction { ok := false }) s =
         .next (State.retireSector { t with mgt := n.setSector i { n.sector i with state := .stale } } i)) ∧
     (∃ t, exec .hoursTick s = .next t ∧ t.mgt.hours = s.mgt.hours + 1 ∧
       ∀ c, (s.cluster c).hours ≠ 0xFFFF → (t.cluster c).hours = (s.cluster c).hours + 1)) ∧
  (∀ (s : State),
     (s.gate 0 .mgt 0 true false = .go → s.mgt.fwBusy = false →
       exec (.stage 0) s = .next s.fwStage ∧
       (s.mgt.stagedB = none → exec (.activate 0) s = .next (s.fwEnd 5) ∧ exec (.discard 0) s = .next (s.fwEnd 5)) ∧
       (∀ b, s.mgt.stagedB = some b →
         (s.mgt.store = 0 → s.pwr.offHold = false → exec (.activate 0) s = .next ((State.journalImage { s with mgt := { s.mgt with
           tryB := some b, tryUsed := false, fwErr := 0 } }).warm .sideband)) ∧
         exec (.discard 0) s = .next ((State.fwEnd { s with mgt := { s.mgt with stagedB := none } } 0).journalImage)) ∧
       (s.pwr.state = .service ∨ s.pwr.state = .evacuate → ∃ t, exec (.commitSvn 0) s = .next t ∧
         t.sec.floor.toNat = max s.sec.floor.toNat (s.mgt.slot s.mgt.running).svn.toNat)) ∧
     (let len := s.reg 0 .mgt 0 0x5C 0
      (s.bootsImages = true → s.mgt.store = 0 → (len < 64 ∨ 16777216 < len) → s.fwStage = s.fwEnd 2) ∧
      (s.bootsImages = true → s.mgt.store = 0 → 64 ≤ len → len ≤ 16777216 →
        s.fwStage = { s with mgt := { s.mgt with fwBusy := true, fwErr := 0, fwLen := len } })) ∧
     (s.mgt.fwBusy = true → s.pwr.refAon = true → ∀ b : BundleIn,
       (b.hostOk = false → exec (.stageDone b) s =
         .next ((State.fwEnd { s with mgt := { s.mgt with stagedB := none } } 1).journalImage)) ∧
       (b.hostOk = true → b.valid = true → s.confidential = false ∨ s.sec.floor.toNat ≤ b.svn.toNat →
         ∃ t, exec (.stageDone b) s = .next t ∧ t.mgt.stagedB = some s.mgt.target ∧ t.mgt.fwBusy = false ∧ t.mgt.fwErr = 0 ∧
           t.mgt.slot s.mgt.target = { valid := true, svn := b.svn, meas := b.meas } ∧
           t.mgt.slot (!s.mgt.target) = s.mgt.slot (!s.mgt.target)) ∧
       (b.hostOk = true → b.valid = false → ∃ t, exec (.stageDone b) s = .next t ∧ t.mgt.stagedB = none ∧ t.mgt.fwErr = 3)))

/-! ## Registers -/

/-- R9, R39, R40, R42, R43, R360: register reads. A read that is not of 4 bytes at a multiple of 4 or of 8 at a multiple of 8 is recorded and
answers zero; a read of a register that the function reaches answers its value and clears what a read clears, one of a register that
is hidden answers zero, one that is disallowed answers zero and is recorded; an 8-byte read is two 4-byte reads, the lower first.
R33, R34, R35, R40, R43, R360, R385: register writes. A write that is not of 4 bytes at a multiple of 4 or of 8 at a multiple of 8 is
recorded and does nothing else; a write that a hidden page ignores is recorded where another rule makes it disallowed; a lockable
register ignores a write that its lock holds, which is recorded; a write of xx_LOCK under
SEALED is recorded and changes nothing; xx_INT_SET latches the flags that the page has, and in confidential mode is recorded and
does nothing; unmasking a vector sends the message that is pending; a Colophon request of a function that is served runs at once, and one of a function whose registers do not answer is ignored. -/
def Obligations.RegisterAccesses : Prop :=
  (∀ (s : State) (fn : BitVec 6) (off : BitVec 26) (size : Nat),
     let f := fn.toNat
     let o := off.toNat
     let answer := fun (v : Nat) (t : State) => t.say (.regRead (BitVec.ofNat 64 v))
     (∀ bar2, accessOk o size = false →
       exec (.registerRead { fn := fn, bar2 := bar2, off := off, size := size }) s =
         .next (answer 0 (s.badAccess f false bar2 size o))) ∧
     (∀ b inst r, pageAt o = some (b, inst, r) → o % 4 = 0 →
       let go : Instr := .registerRead { fn := fn, bar2 := false, off := off, size := 4 }
       (s.regGate f b inst r false = .zero → exec go s = .next (answer 0 s)) ∧
       (s.regGate f b inst r false = .bad → exec go s = .next (answer 0 (s.badAccess f false false 4 o))) ∧
       (s.regGate f b inst r false = .go → exec go s = .next (answer (s.readReg f b inst r).1 (s.readReg f b inst r).2))) ∧
     (∀ bar2, o % 8 = 0 →
       let lo := s.readOne f bar2 o
       let hi := lo.2.2.readOne f bar2 (o + 4)
       exec (.registerRead { fn := fn, bar2 := bar2, off := off, size := 8 }) s = .next (answer (lo.1 + hi.1 * 2 ^ 32)
         (if lo.2.1 = true ∨ hi.2.1 = true then hi.2.2.badAccess f false bar2 8 o else hi.2.2))) ∧
     (s.gate f .dev 0 true false = .go → exec (.devBadaccCntRead fn) s = .next (answer (s.reg 0 .dev 0 0x68 0) s.clearBad)) ∧
     (s.gate f .hif 0 true false = .go → exec (.hifMemrejCntRead fn) s = .next (answer (s.reg 0 .hif 0 0x64 0) s.clearRej))) ∧
  (∀ (s : State) (fn : BitVec 6) (off : BitVec 26) (v : Word64),
     let f := fn.toNat
     let o := off.toNat
     (∀ bar2 size, accessOk o size = false →
       exec (.registerWrite { fn := fn, bar2 := bar2, off := off, size := size, value := v }) s =
         .next (s.badAccess f true bar2 size o)) ∧
     (∀ b inst r, pageAt o = some (b, inst, r) → o % 4 = 0 →
       let go : Instr := .registerWrite { fn := fn, bar2 := false, off := off, size := 4, value := v }
       let w := v.toNat % 2 ^ 32
       (s.regGate f b inst r true = .zero →
         exec go s = .next (if (s.writeReg f b inst r w).1 = true then s.badAccess f true false 4 o else s)) ∧
       (s.regGate f b inst r true = .bad → exec go s = .next (s.badAccess f true false 4 o)) ∧
       (s.regGate f b inst r true = .go →
         let t := (s.writeReg f b inst r w).2
         exec go s = .next (if (s.writeReg f b inst r w).1 = true then t.badAccess f true false 4 o else t) ∧
         (0x40 ≤ r → lockable b r = true → s.lockHolds f b inst = true → b ≠ .sec →
           exec go s = .next (s.badAccess f true false 4 o)) ∧
         (r = 0x30 → (s.reg 0 b inst 0x30 0).testBit 1 = true → exec go s = .next (s.badAccess f true false 4 o)))) ∧
     (∀ b inst, pageAt o = some (b, inst, 0x2C) → o % 4 = 0 →
       (s.confidential = false → s.regGate f b inst 0x2C true = .go →
         exec (.intSet { fn := fn, bar2 := false, off := off, size := 4, value := v }) s = .next (s.latchInt (copyOf b f) b inst
           (v.toNat % 2 ^ 32 &&& b.flags) (s.intTarget (copyOf b f) b inst))) ∧
       (s.confidential = false → s.regGate f b inst 0x2C true = .zero →
         exec (.intSet { fn := fn, bar2 := false, off := off, size := 4, value := v }) s = .next s) ∧
       (s.confidential = true ∨ s.regGate f b inst 0x2C true = .bad →
         exec (.intSet { fn := fn, bar2 := false, off := off, size := 4, value := v }) s = .next (s.badAccess f true false 4 o))) ∧
     (∀ n : BitVec 4,
       let k := f * 16 + n.toNat
       let t := { s with msixOpen := tput false s.msixOpen k true }
       (tget false s.msixPend k = false → exec (.msixUnmask fn n) s = .next t) ∧
       (tget false s.msixPend k = true → exec (.msixUnmask fn n) s =
         .next (State.emit { t with msixPend := tput false s.msixPend k false } 0 false none (.msix fn n)))) ∧
     (s.fnOpen f = true → (s.coloOf f).busy = false →
       exec (.devColophonStart fn) s = .next ((s.setColo f { s.coloOf f with busy := true }).coloRun f)) ∧
     (s.fnOpen f = false ∨ (s.coloOf f).busy = true → exec (.devColophonStart fn) s = .next s))

/-- R43: disallowed accesses. The count rises by one and saturates; the record holds the first since the count was read, with its size,
its offset, its direction and its partition (a size of 16 or more is held modulo 16, the model's choice, log entry 192); reading the count sets it to zero and lets the next access be recorded.
R43, R267, R314, R468: what is hidden. Through a virtual function whose TDI is not in RUN every aligned access of a BAR reads zero,
writes nothing and leaves the state as it is, but for the record of one that is disallowed. In HALTED every page but DEV, PWR, SEAL, MGT and SEC reads zero through PF0, and every page
through a virtual function. -/
def Obligations.HiddenAccesses : Prop :=
  (∀ (s : State) (fn : Nat) (w bar2 : Bool) (size off : Nat), s.reg 0 .dev 0 0x68 0 < 2 ^ 32 →
     let t := s.badAccess fn w bar2 size off
     t.reg 0 .dev 0 0x68 0 = min 0xFFFFFFFF (s.reg 0 .dev 0 0x68 0 + 1) ∧ t.badacc.valid = true ∧
     (s.badacc.valid = true → t.badacc = s.badacc) ∧
     (s.badacc.valid = false → t.badacc.write = w ∧ (t.badacc.vf = true ↔ fn ≠ 0) ∧
       t.badacc.part = (if fn = 0 then 0x3F else BitVec.ofNat 6 (fn - 1)) ∧ t.badacc.bar = (if bar2 = true then 2 else 0) ∧
       t.badacc.size = BitVec.ofNat 4 size ∧ t.badacc.off = BitVec.ofNat 32 off) ∧
     t.clearBad.reg 0 .dev 0 0x68 0 = 0 ∧ t.clearBad.badacc.valid = false) ∧
  (∀ (s : State) (fn off size v : Nat) (bar2 : Bool),
     (fn ≠ 0 → s.tdi (fn - 1) ≠ Tdi.run → accessOk off size = true →
       (s.regRead fn bar2 off size).1 = 0 ∧
       ((s.regRead fn bar2 off size).2 = s ∨ (s.regRead fn bar2 off size).2 = s.badAccess fn false bar2 size off) ∧
       (s.regWrite fn bar2 off size v = s ∨ s.regWrite fn bar2 off size v = s.badAccess fn true bar2 size off)) ∧
     (s.pwr.state = .halted → ∀ b i r, pageAt off = some (b, i, r) → fn ≠ 0 ∨ b ∉ [Blk.dev, .pwr, .seal, .mgt, .sec] →
       (s.readWord fn off).1 = 0 ∧ (s.readWord fn off).2.2 = s ∧ (s.writeWord fn off v).2 = s))

/-- R36, R521: every register cell is its own. A register that is written reads as written, and no other copy, instance, offset or block
changes with it: what one function writes in its copy of a shared page no other function reads. -/
def Obligations.RegisterCells : Prop :=
  ∀ (s : State) (fn fn' : Nat) (b b' : Blk) (i i' off off' r r' v : Nat), i < 128 → i' < 128 → off < 4096 → off' < 4096 →
    off % 4 = 0 → off' % 4 = 0 → v < 2 ^ 32 → r < 2 ^ 32 →
    (s.setReg fn b i off r v).reg fn b i off r = v ∧
    ((fn, b, i, off) ≠ (fn', b', i', off') → (s.setReg fn b i off r v).reg fn' b' i' off' r' = s.reg fn' b' i' off' r')

/-! ## The queue of commands, reset and tile words -/

/-- A step runs the command at the front of the queue on the state with the queue's rest; with an empty queue the device idles (the
model's choice, log entry 12). -/
def Obligations.StepRunsTheCommand : Prop :=
  ∀ (s : State),
    (∀ c rest, s.pending = c :: rest → step s = exec c { s with pending := rest }) ∧ (s.pending = [] → step s = .next s)

/-- R45, R232, R302, R393, R404, R455: the state after a power-on reset. The device is in BOOT, every partition is FREE, every cluster
belongs to no partition, no context is bound, no object, fence or region is open, every port is DOWN, there is no plan, the egress is
empty, nothing is recorded, no DRAM line is listed, and every register of RW fields reads the value that its table gives. -/
def Obligations.ResetState : Prop :=
  let s := State.reset
  s.pwr.state = .boot ∧ (∀ p, (s.part p).state = .free) ∧ (∀ c, (s.cluster c).owner = 0x3F) ∧ (∀ c, (s.chan c).owner = 0x3F) ∧
    (∀ c, (s.ctx c).bound = false) ∧ (∀ h, s.obj h = none) ∧ (∀ n, s.fence n = none) ∧ (∀ n, s.region n = none) ∧
    (∀ p, (s.port p).state = .down) ∧ s.frt.plan = none ∧ s.openMode = true ∧ s.egress = [] ∧ s.inflight = [] ∧ s.halt = none ∧
    s.badacc.valid = false ∧ s.lines = [] ∧ s.hif.up = false ∧ (∀ p, s.tdi p = Tdi.unlocked) ∧
    (∀ fn b inst off r, rwOf b off = some r → s.rw fn b inst off = r.reset) ∧
    ∀ b inst, s.reg 0 b inst 0x10 b.ctrl.2.2 = b.ctrl.2.2

/-- R255: lines of memory keep their canonical form: what stores a line or erases it leaves the table of lines in rising order with no line
that equals an EMPTY one, a line reads as it was stored, and every other line as before. -/
def Obligations.LinesCanonical : Prop :=
  ∀ (s : State) (lid : Nat) (l : Line), Tab.wf Line.empty s.lines = true →
    Tab.wf Line.empty (s.setLine lid l).lines = true ∧ (s.setLine lid l).line lid = l ∧
    (∀ k, k ≠ lid → (s.setLine lid l).line k = s.line k) ∧ (s.setLine lid (s.line lid)) = s

/-- R74, R75: decoding the word of a tile instruction gives the instruction back with every field, for each instruction of the tables
and each reserved pair of CLASS and OP; and the word of what a word decodes to is the word. -/
def Obligations.TileWordsRoundTrip : Prop :=
  (∀ (i : Instr) cls op t, tileParts i = some (cls, op, t) → i.wellFormed = true →
    tileDecode t.cl t.up (tileWordOf cls op t) = i) ∧
  ∀ (cl : BitVec 7) (up : Upset) (w : Word64), (tileDecode cl up w).wellFormed = true ∧ tileEncode (tileDecode cl up w) = some w
end

