-- ==== Sys2Proof/Laws/Bytes.lean ====
section
/-!
SUPPORT. Byte strings: lengths, numbers in little-endian bytes, slices; what AES-256-GCM encrypts it decrypts.
-/

namespace Sys2Proof.Machine

@[simp] theorem leBytes_length (n v : Nat) : (leBytes n v).length = n := by
  induction n generalizing v with
  | zero => rfl
  | succ n ih => simp [leBytes, ih]

@[simp] theorem beBytes_length (n v : Nat) : (beBytes n v).length = n := by simp [beBytes]

theorem ofLe_leBytes (n v : Nat) : ofLe (leBytes n v) = v % 2 ^ (8 * n) := by
  induction n generalizing v with
  | zero => simp [leBytes, ofLe, Nat.mod_one]
  | succ n ih =>
    rw [leBytes, ofLe, ih, BitVec.toNat_ofNat, Nat.mul_succ, Nat.add_comm (8 * n) 8, Nat.pow_add]
    exact (Nat.mod_mul (x := v) (a := 2 ^ 8) (b := 2 ^ (8 * n))).symm

theorem ofLe_lt (l : List Byte) : ofLe l < 2 ^ (8 * l.length) := by
  induction l with
  | nil => simp [ofLe]
  | cons b l ih =>
    rw [ofLe, List.length_cons, Nat.mul_succ, Nat.pow_add]
    have := b.isLt
    omega

theorem leBytes_ofLe (l : List Byte) : leBytes l.length (ofLe l) = l := by
  induction l with
  | nil => rfl
  | cons b l ih =>
    have hb := b.isLt
    have h1 : (b.toNat + 256 * ofLe l) / 256 = ofLe l := by omega
    rw [List.length_cons, ofLe, leBytes, h1, ih]
    congr 1
    apply BitVec.eq_of_toNat_eq
    simp only [BitVec.toNat_ofNat]
    omega

@[simp] theorem slice_length (l : List Byte) (off len : Nat) : (slice l off len).length = len := by
  simp only [slice, List.length_append, List.length_replicate, List.length_take]
  omega

theorem slice_mid (a b c : List Byte) (n m : Nat) (h : a.length = n) (k : b.length = m) : slice (a ++ (b ++ c)) n m = b := by
  subst h k; simp [slice]

@[simp] theorem gcmCrypt_length (key : BitVec 256) (iv l : List Byte) : (gcmCrypt key iv l).length = l.length := by simp [gcmCrypt]

/-- Decryption under the same key and IV gives the text back. -/
theorem gcmOpen_gcmSeal (key : BitVec 256) (iv aad text : List Byte) : gcmOpen key iv (gcmSeal key iv aad text).1 = text := by
  apply List.ext_getElem
  · simp [gcmOpen, gcmSeal]
  · intro i h1 h2
    simp [gcmOpen, gcmSeal, gcmCrypt, h2]

/-- The tag of an encryption is the tag of its ciphertext. -/
theorem gcmSeal_tag (key : BitVec 256) (iv aad text : List Byte) :
    (gcmSeal key iv aad text).2 = gcmTag key iv aad (gcmSeal key iv aad text).1 := rfl

end Sys2Proof.Machine
end

