-- ==== Sys2Proof/Laws/Run.lean ====
section
/-!
SUPPORT. How the result monad of compound commands runs: one lemma per primitive.
-/

namespace Sys2Proof.Machine

@[simp] theorem run_pure {α : Type} (x : α) (s : State) : (pure x : M α) s = .ok x s := rfl

@[simp] theorem run_bind {α β : Type} (m : M α) (f : α → M β) (s : State) :
    (m >>= f) s = match m s with
      | .ok a t => f a t
      | .error e t => .error e t := by
  simp only [bind, EStateM.bind]
  cases m s <;> rfl

@[simp] theorem run_map {α β : Type} (f : α → β) (m : M α) (s : State) :
    (f <$> m) s = match m s with
      | .ok a t => .ok (f a) t
      | .error e t => .error e t := by
  simp only [Functor.map, EStateM.map]
  cases m s <;> rfl

@[simp] theorem run_look {α : Type} (f : State → α) (s : State) : look f s = .ok (f s) s := rfl

@[simp] theorem run_upd (f : State → State) (s : State) : upd f s = .ok () (f s) := rfl

@[simp] theorem run_act {α : Type} (f : State → α × State) (s : State) : act f s = .ok (f s).1 (f s).2 := rfl

@[simp] theorem run_attempt {α : Type} (m : M α) (s : State) :
    attempt m s = match m s with
      | .ok a t => .ok (some a) t
      | .error _ t => .ok none t := rfl

@[simp] theorem run_waitHere {α : Type} (s : State) : (waitHere : M α) s = .error .hold s := rfl

@[simp] theorem run_flt {α : Type} (code d i : Nat) (s : State) :
    (flt code d i : M α) s = .error (.fault code d i) s := rfl

@[simp] theorem run_ite {α : Type} (c : Prop) [Decidable c] (m n : M α) (s : State) :
    (if c then m else n) s = if c then m s else n s := by split <;> rfl

@[simp] theorem run_need (c : Bool) (code d i : Nat) (s : State) :
    need c code d i s = if c then .ok () s else .error (.fault code d i) s := by
  simp only [need]; split <;> rfl

/-- A condition that holds. -/
theorem need_ok {c : Bool} {code d i : Nat} {s : State} (h : c = true) : need c code d i s = .ok () s := by simp [h]

end Sys2Proof.Machine
end

