-- ==== Sys2Proof/Laws/Cmd.lean ====
section
/-!
SUPPORT. What a descriptor row does with a command that is admitted, and with one that fails a check (R350).
-/

namespace Sys2Proof.Machine

/-- An admitted command runs its body. -/
theorem present_admitted {s t : State} {r : Row} {q : CmdIn} (h : s.admits r.op r.issuer r.fields q t) :
    ∃ keep, s.present r q = t.runFor keep q.src (r.body q (descOf q r.op)) := by
  obtain ⟨v, ⟨idx, u, h1, h0, h2, hv⟩, h3, h4, h5, h6, h7, h8, h9, ht⟩ := h
  refine ⟨v.sliceFor r.op (v.partOf q.src) (ctxOf q.src), ?_⟩
  have hd : v.dispatch r q = t.runFor (v.sliceFor r.op (v.partOf q.src) (ctxOf q.src)) q.src (r.body q (descOf q r.op)) := by
    have h8' : v.mayDispatch r.op (q.d.toNat * 256 + r.op) q.src = true := h8
    simp only [State.dispatch, h8', h9, Bool.not_true, Bool.false_eq_true, if_false, ht]; rfl
  have hc : v.check r q = v.dispatch r q := by
    simp only [State.check, descOf] at *
    rw [h3, h4, h5, h6]
    by_cases h2 : descSync (q.d.toNat * 256 + r.op) = 2
    · simp [h2, h7 h2]
    · simp [h2]
  rw [← hd, ← hc, hv]
  simp only [State.present, h1, h0, h2, Bool.false_eq_true, if_false]

/-- An admitted command that completes. -/
theorem descriptor_done {s t u : State} {r : Row} {q : CmdIn} {c r0 r1 x : Nat}
    (h : s.admits r.op r.issuer r.fields q t) (hb : r.body q (descOf q r.op) t = .ok (.done c r0 r1 x) u) :
    descriptor r q s = .next (u.finish q.src c r0 r1 x).settle := by
  obtain ⟨keep, hk⟩ := present_admitted h
  simp only [descriptor, hk, State.runFor, hb]

/-- An admitted command that goes on. -/
theorem descriptor_goes {s t u : State} {r : Row} {q : CmdIn} {st : CmdStage}
    (h : s.admits r.op r.issuer r.fields q t) (hb : r.body q (descOf q r.op) t = .ok (.runs st) u) :
    descriptor r q s = .next (u.setCmd q.src fun c => { c with stage := st }).settle := by
  obtain ⟨keep, hk⟩ := present_admitted h
  simp only [descriptor, hk, State.runFor, hb]

/-- An admitted command that faults. -/
theorem descriptor_faults {s t u : State} {r : Row} {q : CmdIn} {c x i : Nat}
    (h : s.admits r.op r.issuer r.fields q t) (hb : r.body q (descOf q r.op) t = .error (.fault c x i) u) :
    descriptor r q s = .next (u.fail q.src c x i).settle := by
  obtain ⟨keep, hk⟩ := present_admitted h
  simp only [descriptor, hk, State.runFor, hb]

end Sys2Proof.Machine
end

