-- ==== Sys2Proof/Laws/Tab.lean ====
section
/-!
SUPPORT. The laws of the sparse tables: a read after a write, and the canonical form that every write keeps.
-/

namespace Sys2Proof.Machine

variable {α : Type}

theorem tdel_cons (k a : Nat) (v : α) (t : Tab α) :
    tdel k ((a, v) :: t) = if a = k then tdel k t else (a, v) :: tdel k t := by
  by_cases h : a = k
  · simp [tdel, h]
  · simp [tdel, h]

theorem tget_tdel_ne (d : α) {k j : Nat} (h : j ≠ k) : ∀ t : Tab α, tget d (tdel k t) j = tget d t j
  | [] => rfl
  | (a, v) :: t => by
    rw [tdel_cons]
    split
    · rename_i ha
      simp [tget, ha, h.symm, tget_tdel_ne d h t]
    · simp [tget, tget_tdel_ne d h t]

theorem tget_tdel_same (d : α) (k : Nat) : ∀ t : Tab α, tget d (tdel k t) k = d
  | [] => rfl
  | (a, v) :: t => by
    rw [tdel_cons]
    split
    · exact tget_tdel_same d k t
    · rename_i ha
      simp [tget, ha, tget_tdel_same d k t]

theorem tget_tins_same (d : α) (k : Nat) (v : α) : ∀ t : Tab α, (∀ e ∈ t, e.1 ≠ k) → tget d (tins k v t) k = v
  | [], _ => by simp [tins, tget]
  | (a, w) :: t, h => by
    have ha : a ≠ k := h (a, w) (by simp)
    simp only [tins]
    split
    · simp [tget]
    · simp [tget, ha, tget_tins_same d k v t fun e he => h e (by simp [he])]

theorem tget_tins_ne (d : α) {k j : Nat} (h : j ≠ k) (v : α) : ∀ t : Tab α, tget d (tins k v t) j = tget d t j
  | [] => by simp [tins, tget, h.symm]
  | (a, w) :: t => by
    simp only [tins]
    split
    · simp [tget, h.symm]
    · simp [tget, tget_tins_ne d h v t]

theorem tdel_keys (k : Nat) (t : Tab α) : ∀ e ∈ tdel k t, e.1 ≠ k := by
  intro e he
  simpa using (List.mem_filter.mp he).2

/-- A read after a write of the same key. -/
@[simp] theorem tget_tput_same [DecidableEq α] (d : α) (t : Tab α) (k : Nat) (v : α) : tget d (tput d t k v) k = v := by
  simp only [tput]
  split
  · rename_i h; rw [h]; exact tget_tdel_same d k t
  · exact tget_tins_same d k v _ (tdel_keys k t)

/-- A write leaves every other key alone. -/
theorem tget_tput_ne [DecidableEq α] (d : α) (t : Tab α) {k j : Nat} (h : j ≠ k) (v : α) :
    tget d (tput d t k v) j = tget d t j := by
  simp only [tput]
  split
  · exact tget_tdel_ne d h t
  · rw [tget_tins_ne d h, tget_tdel_ne d h]

theorem mem_tins {k : Nat} {v : α} {e : Nat × α} : ∀ {t : Tab α}, e ∈ tins k v t ↔ e = (k, v) ∨ e ∈ t
  | [] => by simp [tins]
  | (a, w) :: t => by
    simp only [tins]
    split
    · simp
    · simp [mem_tins (t := t)]; tauto

theorem tins_sorted {k : Nat} {v : α} : ∀ {t : Tab α}, (t.map (·.1)).Pairwise (· < ·) → (∀ e ∈ t, e.1 ≠ k) →
    ((tins k v t).map (·.1)).Pairwise (· < ·)
  | [], _, _ => by simp [tins]
  | (a, w) :: t, h, hk => by
    have ha : a ≠ k := hk (a, w) (by simp)
    simp only [List.map_cons, List.pairwise_cons] at h
    simp only [tins]
    split
    · rename_i hlt
      simp only [List.map_cons, List.pairwise_cons]
      refine ⟨fun b hb => ?_, h⟩
      rcases List.mem_cons.mp hb with rfl | hb
      · exact hlt
      · exact lt_trans hlt (h.1 b hb)
    · rename_i hge
      simp only [List.map_cons, List.pairwise_cons]
      refine ⟨fun b hb => ?_, tins_sorted h.2 fun e he => hk e (by simp [he])⟩
      obtain ⟨e, he, rfl⟩ := List.mem_map.mp hb
      rcases mem_tins.mp he with rfl | he
      · show a < k; omega
      · exact h.1 _ (List.mem_map.mpr ⟨e, he, rfl⟩)

/-- A write keeps the canonical form. -/
theorem tput_wf [DecidableEq α] (d : α) (t : Tab α) (k : Nat) (v : α) (h : Tab.wf d t = true) :
    Tab.wf d (tput d t k v) = true := by
  simp only [Tab.wf, Bool.and_eq_true, decide_eq_true_eq, List.all_eq_true] at h ⊢
  have hs : ((tdel k t).map (·.1)).Pairwise (· < ·) := by
    exact List.Pairwise.sublist (List.Sublist.map _ List.filter_sublist) h.1
  have hv : ∀ e ∈ tdel k t, e.2 ≠ d := fun e he => h.2 e (List.mem_filter.mp he).1
  simp only [tput]
  split
  · exact ⟨hs, hv⟩
  · rename_i hd
    refine ⟨tins_sorted hs (tdel_keys k t), fun e he => ?_⟩
    rcases mem_tins.mp he with rfl | he
    · exact hd
    · exact hv e he

end Sys2Proof.Machine
end

