-- ==== Sys2Proof/Laws/State.lean ====
section
/-!
SUPPORT. What the updates of the state leave: each writes one field and keeps every other, reading a cell that was written gives
what was written, and reading another cell what it held.
-/

namespace Sys2Proof.Machine

/-! ## setCluster -/

@[simp] theorem State.setCluster_pending (s : State) (c : Nat) (x : Cluster) : (s.setCluster c x).pending = s.pending := rfl
@[simp] theorem State.setCluster_freeCtr (s : State) (c : Nat) (x : Cluster) : (s.setCluster c x).freeCtr = s.freeCtr := rfl
@[simp] theorem State.setCluster_out (s : State) (c : Nat) (x : Cluster) : (s.setCluster c x).out = s.out := rfl
@[simp] theorem State.setCluster_regs (s : State) (c : Nat) (x : Cluster) : (s.setCluster c x).regs = s.regs := rfl
@[simp] theorem State.setCluster_latch (s : State) (c : Nat) (x : Cluster) : (s.setCluster c x).latch = s.latch := rfl
@[simp] theorem State.setCluster_badacc (s : State) (c : Nat) (x : Cluster) : (s.setCluster c x).badacc = s.badacc := rfl
@[simp] theorem State.setCluster_colo (s : State) (c : Nat) (x : Cluster) : (s.setCluster c x).colo = s.colo := rfl
@[simp] theorem State.setCluster_coloGen (s : State) (c : Nat) (x : Cluster) : (s.setCluster c x).coloGen = s.coloGen := rfl
@[simp] theorem State.setCluster_msixOpen (s : State) (c : Nat) (x : Cluster) : (s.setCluster c x).msixOpen = s.msixOpen := rfl
@[simp] theorem State.setCluster_msixPend (s : State) (c : Nat) (x : Cluster) : (s.setCluster c x).msixPend = s.msixPend := rfl
@[simp] theorem State.setCluster_pwr (s : State) (c : Nat) (x : Cluster) : (s.setCluster c x).pwr = s.pwr := rfl
@[simp] theorem State.setCluster_sec (s : State) (c : Nat) (x : Cluster) : (s.setCluster c x).sec = s.sec := rfl
@[simp] theorem State.setCluster_mgt (s : State) (c : Nat) (x : Cluster) : (s.setCluster c x).mgt = s.mgt := rfl
@[simp] theorem State.setCluster_hif (s : State) (c : Nat) (x : Cluster) : (s.setCluster c x).hif = s.hif := rfl
@[simp] theorem State.setCluster_ports (s : State) (c : Nat) (x : Cluster) : (s.setCluster c x).ports = s.ports := rfl
@[simp] theorem State.setCluster_frt (s : State) (c : Nat) (x : Cluster) : (s.setCluster c x).frt = s.frt := rfl
@[simp] theorem State.setCluster_dbg (s : State) (c : Nat) (x : Cluster) : (s.setCluster c x).dbg = s.dbg := rfl
@[simp] theorem State.setCluster_chans (s : State) (c : Nat) (x : Cluster) : (s.setCluster c x).chans = s.chans := rfl
@[simp] theorem State.setCluster_lines (s : State) (c : Nat) (x : Cluster) : (s.setCluster c x).lines = s.lines := rfl
@[simp] theorem State.setCluster_ctrs (s : State) (c : Nat) (x : Cluster) : (s.setCluster c x).ctrs = s.ctrs := rfl
@[simp] theorem State.setCluster_cases (s : State) (c : Nat) (x : Cluster) : (s.setCluster c x).cases = s.cases := rfl
@[simp] theorem State.setCluster_flushing (s : State) (c : Nat) (x : Cluster) : (s.setCluster c x).flushing = s.flushing := rfl
@[simp] theorem State.setCluster_kids (s : State) (c : Nat) (x : Cluster) : (s.setCluster c x).kids = s.kids := rfl
@[simp] theorem State.setCluster_retiring (s : State) (c : Nat) (x : Cluster) : (s.setCluster c x).retiring = s.retiring := rfl
@[simp] theorem State.setCluster_reads (s : State) (c : Nat) (x : Cluster) : (s.setCluster c x).reads = s.reads := rfl
@[simp] theorem State.setCluster_shown (s : State) (c : Nat) (x : Cluster) : (s.setCluster c x).shown = s.shown := rfl
@[simp] theorem State.setCluster_epochs (s : State) (c : Nat) (x : Cluster) : (s.setCluster c x).epochs = s.epochs := rfl
@[simp] theorem State.setCluster_halt (s : State) (c : Nat) (x : Cluster) : (s.setCluster c x).halt = s.halt := rfl
@[simp] theorem State.setCluster_vlat (s : State) (c : Nat) (x : Cluster) : (s.setCluster c x).vlat = s.vlat := rfl
@[simp] theorem State.setCluster_delivered (s : State) (c : Nat) (x : Cluster) : (s.setCluster c x).delivered = s.delivered := rfl
@[simp] theorem State.setCluster_egress (s : State) (c : Nat) (x : Cluster) : (s.setCluster c x).egress = s.egress := rfl
@[simp] theorem State.setCluster_regions (s : State) (c : Nat) (x : Cluster) : (s.setCluster c x).regions = s.regions := rfl
@[simp] theorem State.setCluster_colls (s : State) (c : Nat) (x : Cluster) : (s.setCluster c x).colls = s.colls := rfl
@[simp] theorem State.setCluster_skews (s : State) (c : Nat) (x : Cluster) : (s.setCluster c x).skews = s.skews := rfl
@[simp] theorem State.setCluster_tensors (s : State) (c : Nat) (x : Cluster) : (s.setCluster c x).tensors = s.tensors := rfl
@[simp] theorem State.setCluster_layers (s : State) (c : Nat) (x : Cluster) : (s.setCluster c x).layers = s.layers := rfl
@[simp] theorem State.setCluster_ckpts (s : State) (c : Nat) (x : Cluster) : (s.setCluster c x).ckpts = s.ckpts := rfl
@[simp] theorem State.setCluster_ckptId (s : State) (c : Nat) (x : Cluster) : (s.setCluster c x).ckptId = s.ckptId := rfl
@[simp] theorem State.setCluster_ctxs (s : State) (c : Nat) (x : Cluster) : (s.setCluster c x).ctxs = s.ctxs := rfl
@[simp] theorem State.setCluster_mqs (s : State) (c : Nat) (x : Cluster) : (s.setCluster c x).mqs = s.mqs := rfl
@[simp] theorem State.setCluster_objs (s : State) (c : Nat) (x : Cluster) : (s.setCluster c x).objs = s.objs := rfl
@[simp] theorem State.setCluster_objGen (s : State) (c : Nat) (x : Cluster) : (s.setCluster c x).objGen = s.objGen := rfl
@[simp] theorem State.setCluster_fences (s : State) (c : Nat) (x : Cluster) : (s.setCluster c x).fences = s.fences := rfl
@[simp] theorem State.setCluster_inflight (s : State) (c : Nat) (x : Cluster) : (s.setCluster c x).inflight = s.inflight := rfl
@[simp] theorem State.setCluster_sent (s : State) (c : Nat) (x : Cluster) : (s.setCluster c x).sent = s.sent := rfl
@[simp] theorem State.setCluster_parts (s : State) (c : Nat) (x : Cluster) : (s.setCluster c x).parts = s.parts := rfl
@[simp] theorem State.setCluster_bind (s : State) (c : Nat) (x : Cluster) : (s.setCluster c x).bind = s.bind := rfl
@[simp] theorem State.setCluster_bindErr (s : State) (c : Nat) (x : Cluster) : (s.setCluster c x).bindErr = s.bindErr := rfl
@[simp] theorem State.setCluster_bindPart (s : State) (c : Nat) (x : Cluster) : (s.setCluster c x).bindPart = s.bindPart := rfl
@[simp] theorem State.setCluster_sizesGen (s : State) (c : Nat) (x : Cluster) : (s.setCluster c x).sizesGen = s.sizesGen := rfl
@[simp] theorem State.setCluster_units (s : State) (c : Nat) (x : Cluster) : (s.setCluster c x).units = s.units := rfl
@[simp] theorem State.setCluster_prfLast (s : State) (c : Nat) (x : Cluster) : (s.setCluster c x).prfLast = s.prfLast := rfl
@[simp] theorem State.setCluster_get_chan (s : State) (c : Nat) (x : Cluster) (j : Nat) : (s.setCluster c x).chan j = s.chan j := rfl
@[simp] theorem State.setCluster_get_line (s : State) (c : Nat) (x : Cluster) (j : Nat) : (s.setCluster c x).line j = s.line j := rfl
@[simp] theorem State.setCluster_get_kid (s : State) (c : Nat) (x : Cluster) (j : Nat) : (s.setCluster c x).kid j = s.kid j := rfl
@[simp] theorem State.setCluster_get_ctx (s : State) (c : Nat) (x : Cluster) (j : Nat) : (s.setCluster c x).ctx j = s.ctx j := rfl
@[simp] theorem State.setCluster_get_part (s : State) (c : Nat) (x : Cluster) (j : Nat) : (s.setCluster c x).part j = s.part j := rfl
@[simp] theorem State.setCluster_get_mq (s : State) (c : Nat) (x : Cluster) (j : Nat) : (s.setCluster c x).mq j = s.mq j := rfl
@[simp] theorem State.setCluster_get_obj (s : State) (c : Nat) (x : Cluster) (j : Nat) : (s.setCluster c x).obj j = s.obj j := rfl
@[simp] theorem State.setCluster_get_fence (s : State) (c : Nat) (x : Cluster) (j : Nat) : (s.setCluster c x).fence j = s.fence j := rfl
@[simp] theorem State.setCluster_get_unit (s : State) (c : Nat) (x : Cluster) (j : Nat) : (s.setCluster c x).unit j = s.unit j := rfl
@[simp] theorem State.setCluster_get_port (s : State) (c : Nat) (x : Cluster) (j : Nat) : (s.setCluster c x).port j = s.port j := rfl
@[simp] theorem State.setCluster_get_caseLine (s : State) (c : Nat) (x : Cluster) (j : Nat) : (s.setCluster c x).caseLine j = s.caseLine j := rfl
@[simp] theorem State.setCluster_get_region (s : State) (c : Nat) (x : Cluster) (j : Nat) : (s.setCluster c x).region j = s.region j := rfl
@[simp] theorem State.setCluster_get_tensor (s : State) (c : Nat) (x : Cluster) (j j' : Nat) : (s.setCluster c x).tensor j j' = s.tensor j j' := rfl
@[simp] theorem State.setCluster_get_layer (s : State) (c : Nat) (x : Cluster) (j j' : Nat) : (s.setCluster c x).layer j j' = s.layer j j' := rfl
@[simp] theorem State.setCluster_same (s : State) (c : Nat) (x : Cluster) : (s.setCluster c x).cluster c = x := tget_tput_same _ _ _ _
theorem State.setCluster_ne (s : State) (c : Nat) (x : Cluster) {j : Nat} (h : j ≠ c) : (s.setCluster c x).cluster j = s.cluster j := tget_tput_ne _ _ h _

/-! ## setChan -/

@[simp] theorem State.setChan_pending (s : State) (c : Nat) (x : Channel) : (s.setChan c x).pending = s.pending := rfl
@[simp] theorem State.setChan_freeCtr (s : State) (c : Nat) (x : Channel) : (s.setChan c x).freeCtr = s.freeCtr := rfl
@[simp] theorem State.setChan_out (s : State) (c : Nat) (x : Channel) : (s.setChan c x).out = s.out := rfl
@[simp] theorem State.setChan_regs (s : State) (c : Nat) (x : Channel) : (s.setChan c x).regs = s.regs := rfl
@[simp] theorem State.setChan_latch (s : State) (c : Nat) (x : Channel) : (s.setChan c x).latch = s.latch := rfl
@[simp] theorem State.setChan_badacc (s : State) (c : Nat) (x : Channel) : (s.setChan c x).badacc = s.badacc := rfl
@[simp] theorem State.setChan_colo (s : State) (c : Nat) (x : Channel) : (s.setChan c x).colo = s.colo := rfl
@[simp] theorem State.setChan_coloGen (s : State) (c : Nat) (x : Channel) : (s.setChan c x).coloGen = s.coloGen := rfl
@[simp] theorem State.setChan_msixOpen (s : State) (c : Nat) (x : Channel) : (s.setChan c x).msixOpen = s.msixOpen := rfl
@[simp] theorem State.setChan_msixPend (s : State) (c : Nat) (x : Channel) : (s.setChan c x).msixPend = s.msixPend := rfl
@[simp] theorem State.setChan_pwr (s : State) (c : Nat) (x : Channel) : (s.setChan c x).pwr = s.pwr := rfl
@[simp] theorem State.setChan_sec (s : State) (c : Nat) (x : Channel) : (s.setChan c x).sec = s.sec := rfl
@[simp] theorem State.setChan_mgt (s : State) (c : Nat) (x : Channel) : (s.setChan c x).mgt = s.mgt := rfl
@[simp] theorem State.setChan_hif (s : State) (c : Nat) (x : Channel) : (s.setChan c x).hif = s.hif := rfl
@[simp] theorem State.setChan_ports (s : State) (c : Nat) (x : Channel) : (s.setChan c x).ports = s.ports := rfl
@[simp] theorem State.setChan_frt (s : State) (c : Nat) (x : Channel) : (s.setChan c x).frt = s.frt := rfl
@[simp] theorem State.setChan_clusters (s : State) (c : Nat) (x : Channel) : (s.setChan c x).clusters = s.clusters := rfl
@[simp] theorem State.setChan_dbg (s : State) (c : Nat) (x : Channel) : (s.setChan c x).dbg = s.dbg := rfl
@[simp] theorem State.setChan_lines (s : State) (c : Nat) (x : Channel) : (s.setChan c x).lines = s.lines := rfl
@[simp] theorem State.setChan_ctrs (s : State) (c : Nat) (x : Channel) : (s.setChan c x).ctrs = s.ctrs := rfl
@[simp] theorem State.setChan_cases (s : State) (c : Nat) (x : Channel) : (s.setChan c x).cases = s.cases := rfl
@[simp] theorem State.setChan_flushing (s : State) (c : Nat) (x : Channel) : (s.setChan c x).flushing = s.flushing := rfl
@[simp] theorem State.setChan_kids (s : State) (c : Nat) (x : Channel) : (s.setChan c x).kids = s.kids := rfl
@[simp] theorem State.setChan_retiring (s : State) (c : Nat) (x : Channel) : (s.setChan c x).retiring = s.retiring := rfl
@[simp] theorem State.setChan_reads (s : State) (c : Nat) (x : Channel) : (s.setChan c x).reads = s.reads := rfl
@[simp] theorem State.setChan_shown (s : State) (c : Nat) (x : Channel) : (s.setChan c x).shown = s.shown := rfl
@[simp] theorem State.setChan_epochs (s : State) (c : Nat) (x : Channel) : (s.setChan c x).epochs = s.epochs := rfl
@[simp] theorem State.setChan_halt (s : State) (c : Nat) (x : Channel) : (s.setChan c x).halt = s.halt := rfl
@[simp] theorem State.setChan_vlat (s : State) (c : Nat) (x : Channel) : (s.setChan c x).vlat = s.vlat := rfl
@[simp] theorem State.setChan_delivered (s : State) (c : Nat) (x : Channel) : (s.setChan c x).delivered = s.delivered := rfl
@[simp] theorem State.setChan_egress (s : State) (c : Nat) (x : Channel) : (s.setChan c x).egress = s.egress := rfl
@[simp] theorem State.setChan_regions (s : State) (c : Nat) (x : Channel) : (s.setChan c x).regions = s.regions := rfl
@[simp] theorem State.setChan_colls (s : State) (c : Nat) (x : Channel) : (s.setChan c x).colls = s.colls := rfl
@[simp] theorem State.setChan_skews (s : State) (c : Nat) (x : Channel) : (s.setChan c x).skews = s.skews := rfl
@[simp] theorem State.setChan_tensors (s : State) (c : Nat) (x : Channel) : (s.setChan c x).tensors = s.tensors := rfl
@[simp] theorem State.setChan_layers (s : State) (c : Nat) (x : Channel) : (s.setChan c x).layers = s.layers := rfl
@[simp] theorem State.setChan_ckpts (s : State) (c : Nat) (x : Channel) : (s.setChan c x).ckpts = s.ckpts := rfl
@[simp] theorem State.setChan_ckptId (s : State) (c : Nat) (x : Channel) : (s.setChan c x).ckptId = s.ckptId := rfl
@[simp] theorem State.setChan_ctxs (s : State) (c : Nat) (x : Channel) : (s.setChan c x).ctxs = s.ctxs := rfl
@[simp] theorem State.setChan_mqs (s : State) (c : Nat) (x : Channel) : (s.setChan c x).mqs = s.mqs := rfl
@[simp] theorem State.setChan_objs (s : State) (c : Nat) (x : Channel) : (s.setChan c x).objs = s.objs := rfl
@[simp] theorem State.setChan_objGen (s : State) (c : Nat) (x : Channel) : (s.setChan c x).objGen = s.objGen := rfl
@[simp] theorem State.setChan_fences (s : State) (c : Nat) (x : Channel) : (s.setChan c x).fences = s.fences := rfl
@[simp] theorem State.setChan_inflight (s : State) (c : Nat) (x : Channel) : (s.setChan c x).inflight = s.inflight := rfl
@[simp] theorem State.setChan_sent (s : State) (c : Nat) (x : Channel) : (s.setChan c x).sent = s.sent := rfl
@[simp] theorem State.setChan_parts (s : State) (c : Nat) (x : Channel) : (s.setChan c x).parts = s.parts := rfl
@[simp] theorem State.setChan_bind (s : State) (c : Nat) (x : Channel) : (s.setChan c x).bind = s.bind := rfl
@[simp] theorem State.setChan_bindErr (s : State) (c : Nat) (x : Channel) : (s.setChan c x).bindErr = s.bindErr := rfl
@[simp] theorem State.setChan_bindPart (s : State) (c : Nat) (x : Channel) : (s.setChan c x).bindPart = s.bindPart := rfl
@[simp] theorem State.setChan_sizesGen (s : State) (c : Nat) (x : Channel) : (s.setChan c x).sizesGen = s.sizesGen := rfl
@[simp] theorem State.setChan_units (s : State) (c : Nat) (x : Channel) : (s.setChan c x).units = s.units := rfl
@[simp] theorem State.setChan_prfLast (s : State) (c : Nat) (x : Channel) : (s.setChan c x).prfLast = s.prfLast := rfl
@[simp] theorem State.setChan_get_cluster (s : State) (c : Nat) (x : Channel) (j : Nat) : (s.setChan c x).cluster j = s.cluster j := rfl
@[simp] theorem State.setChan_get_line (s : State) (c : Nat) (x : Channel) (j : Nat) : (s.setChan c x).line j = s.line j := rfl
@[simp] theorem State.setChan_get_kid (s : State) (c : Nat) (x : Channel) (j : Nat) : (s.setChan c x).kid j = s.kid j := rfl
@[simp] theorem State.setChan_get_ctx (s : State) (c : Nat) (x : Channel) (j : Nat) : (s.setChan c x).ctx j = s.ctx j := rfl
@[simp] theorem State.setChan_get_part (s : State) (c : Nat) (x : Channel) (j : Nat) : (s.setChan c x).part j = s.part j := rfl
@[simp] theorem State.setChan_get_mq (s : State) (c : Nat) (x : Channel) (j : Nat) : (s.setChan c x).mq j = s.mq j := rfl
@[simp] theorem State.setChan_get_obj (s : State) (c : Nat) (x : Channel) (j : Nat) : (s.setChan c x).obj j = s.obj j := rfl
@[simp] theorem State.setChan_get_fence (s : State) (c : Nat) (x : Channel) (j : Nat) : (s.setChan c x).fence j = s.fence j := rfl
@[simp] theorem State.setChan_get_unit (s : State) (c : Nat) (x : Channel) (j : Nat) : (s.setChan c x).unit j = s.unit j := rfl
@[simp] theorem State.setChan_get_port (s : State) (c : Nat) (x : Channel) (j : Nat) : (s.setChan c x).port j = s.port j := rfl
@[simp] theorem State.setChan_get_caseLine (s : State) (c : Nat) (x : Channel) (j : Nat) : (s.setChan c x).caseLine j = s.caseLine j := rfl
@[simp] theorem State.setChan_get_region (s : State) (c : Nat) (x : Channel) (j : Nat) : (s.setChan c x).region j = s.region j := rfl
@[simp] theorem State.setChan_get_tensor (s : State) (c : Nat) (x : Channel) (j j' : Nat) : (s.setChan c x).tensor j j' = s.tensor j j' := rfl
@[simp] theorem State.setChan_get_layer (s : State) (c : Nat) (x : Channel) (j j' : Nat) : (s.setChan c x).layer j j' = s.layer j j' := rfl
@[simp] theorem State.setChan_same (s : State) (c : Nat) (x : Channel) : (s.setChan c x).chan c = x := tget_tput_same _ _ _ _
theorem State.setChan_ne (s : State) (c : Nat) (x : Channel) {j : Nat} (h : j ≠ c) : (s.setChan c x).chan j = s.chan j := tget_tput_ne _ _ h _

/-! ## setLine -/

@[simp] theorem State.setLine_pending (s : State) (k : Nat) (x : Line) : (s.setLine k x).pending = s.pending := rfl
@[simp] theorem State.setLine_freeCtr (s : State) (k : Nat) (x : Line) : (s.setLine k x).freeCtr = s.freeCtr := rfl
@[simp] theorem State.setLine_out (s : State) (k : Nat) (x : Line) : (s.setLine k x).out = s.out := rfl
@[simp] theorem State.setLine_regs (s : State) (k : Nat) (x : Line) : (s.setLine k x).regs = s.regs := rfl
@[simp] theorem State.setLine_latch (s : State) (k : Nat) (x : Line) : (s.setLine k x).latch = s.latch := rfl
@[simp] theorem State.setLine_badacc (s : State) (k : Nat) (x : Line) : (s.setLine k x).badacc = s.badacc := rfl
@[simp] theorem State.setLine_colo (s : State) (k : Nat) (x : Line) : (s.setLine k x).colo = s.colo := rfl
@[simp] theorem State.setLine_coloGen (s : State) (k : Nat) (x : Line) : (s.setLine k x).coloGen = s.coloGen := rfl
@[simp] theorem State.setLine_msixOpen (s : State) (k : Nat) (x : Line) : (s.setLine k x).msixOpen = s.msixOpen := rfl
@[simp] theorem State.setLine_msixPend (s : State) (k : Nat) (x : Line) : (s.setLine k x).msixPend = s.msixPend := rfl
@[simp] theorem State.setLine_pwr (s : State) (k : Nat) (x : Line) : (s.setLine k x).pwr = s.pwr := rfl
@[simp] theorem State.setLine_sec (s : State) (k : Nat) (x : Line) : (s.setLine k x).sec = s.sec := rfl
@[simp] theorem State.setLine_mgt (s : State) (k : Nat) (x : Line) : (s.setLine k x).mgt = s.mgt := rfl
@[simp] theorem State.setLine_hif (s : State) (k : Nat) (x : Line) : (s.setLine k x).hif = s.hif := rfl
@[simp] theorem State.setLine_ports (s : State) (k : Nat) (x : Line) : (s.setLine k x).ports = s.ports := rfl
@[simp] theorem State.setLine_frt (s : State) (k : Nat) (x : Line) : (s.setLine k x).frt = s.frt := rfl
@[simp] theorem State.setLine_clusters (s : State) (k : Nat) (x : Line) : (s.setLine k x).clusters = s.clusters := rfl
@[simp] theorem State.setLine_dbg (s : State) (k : Nat) (x : Line) : (s.setLine k x).dbg = s.dbg := rfl
@[simp] theorem State.setLine_chans (s : State) (k : Nat) (x : Line) : (s.setLine k x).chans = s.chans := rfl
@[simp] theorem State.setLine_ctrs (s : State) (k : Nat) (x : Line) : (s.setLine k x).ctrs = s.ctrs := rfl
@[simp] theorem State.setLine_cases (s : State) (k : Nat) (x : Line) : (s.setLine k x).cases = s.cases := rfl
@[simp] theorem State.setLine_flushing (s : State) (k : Nat) (x : Line) : (s.setLine k x).flushing = s.flushing := rfl
@[simp] theorem State.setLine_kids (s : State) (k : Nat) (x : Line) : (s.setLine k x).kids = s.kids := rfl
@[simp] theorem State.setLine_retiring (s : State) (k : Nat) (x : Line) : (s.setLine k x).retiring = s.retiring := rfl
@[simp] theorem State.setLine_reads (s : State) (k : Nat) (x : Line) : (s.setLine k x).reads = s.reads := rfl
@[simp] theorem State.setLine_shown (s : State) (k : Nat) (x : Line) : (s.setLine k x).shown = s.shown := rfl
@[simp] theorem State.setLine_epochs (s : State) (k : Nat) (x : Line) : (s.setLine k x).epochs = s.epochs := rfl
@[simp] theorem State.setLine_halt (s : State) (k : Nat) (x : Line) : (s.setLine k x).halt = s.halt := rfl
@[simp] theorem State.setLine_vlat (s : State) (k : Nat) (x : Line) : (s.setLine k x).vlat = s.vlat := rfl
@[simp] theorem State.setLine_delivered (s : State) (k : Nat) (x : Line) : (s.setLine k x).delivered = s.delivered := rfl
@[simp] theorem State.setLine_egress (s : State) (k : Nat) (x : Line) : (s.setLine k x).egress = s.egress := rfl
@[simp] theorem State.setLine_regions (s : State) (k : Nat) (x : Line) : (s.setLine k x).regions = s.regions := rfl
@[simp] theorem State.setLine_colls (s : State) (k : Nat) (x : Line) : (s.setLine k x).colls = s.colls := rfl
@[simp] theorem State.setLine_skews (s : State) (k : Nat) (x : Line) : (s.setLine k x).skews = s.skews := rfl
@[simp] theorem State.setLine_tensors (s : State) (k : Nat) (x : Line) : (s.setLine k x).tensors = s.tensors := rfl
@[simp] theorem State.setLine_layers (s : State) (k : Nat) (x : Line) : (s.setLine k x).layers = s.layers := rfl
@[simp] theorem State.setLine_ckpts (s : State) (k : Nat) (x : Line) : (s.setLine k x).ckpts = s.ckpts := rfl
@[simp] theorem State.setLine_ckptId (s : State) (k : Nat) (x : Line) : (s.setLine k x).ckptId = s.ckptId := rfl
@[simp] theorem State.setLine_ctxs (s : State) (k : Nat) (x : Line) : (s.setLine k x).ctxs = s.ctxs := rfl
@[simp] theorem State.setLine_mqs (s : State) (k : Nat) (x : Line) : (s.setLine k x).mqs = s.mqs := rfl
@[simp] theorem State.setLine_objs (s : State) (k : Nat) (x : Line) : (s.setLine k x).objs = s.objs := rfl
@[simp] theorem State.setLine_objGen (s : State) (k : Nat) (x : Line) : (s.setLine k x).objGen = s.objGen := rfl
@[simp] theorem State.setLine_fences (s : State) (k : Nat) (x : Line) : (s.setLine k x).fences = s.fences := rfl
@[simp] theorem State.setLine_inflight (s : State) (k : Nat) (x : Line) : (s.setLine k x).inflight = s.inflight := rfl
@[simp] theorem State.setLine_sent (s : State) (k : Nat) (x : Line) : (s.setLine k x).sent = s.sent := rfl
@[simp] theorem State.setLine_parts (s : State) (k : Nat) (x : Line) : (s.setLine k x).parts = s.parts := rfl
@[simp] theorem State.setLine_bind (s : State) (k : Nat) (x : Line) : (s.setLine k x).bind = s.bind := rfl
@[simp] theorem State.setLine_bindErr (s : State) (k : Nat) (x : Line) : (s.setLine k x).bindErr = s.bindErr := rfl
@[simp] theorem State.setLine_bindPart (s : State) (k : Nat) (x : Line) : (s.setLine k x).bindPart = s.bindPart := rfl
@[simp] theorem State.setLine_sizesGen (s : State) (k : Nat) (x : Line) : (s.setLine k x).sizesGen = s.sizesGen := rfl
@[simp] theorem State.setLine_units (s : State) (k : Nat) (x : Line) : (s.setLine k x).units = s.units := rfl
@[simp] theorem State.setLine_prfLast (s : State) (k : Nat) (x : Line) : (s.setLine k x).prfLast = s.prfLast := rfl
@[simp] theorem State.setLine_get_cluster (s : State) (k : Nat) (x : Line) (j : Nat) : (s.setLine k x).cluster j = s.cluster j := rfl
@[simp] theorem State.setLine_get_chan (s : State) (k : Nat) (x : Line) (j : Nat) : (s.setLine k x).chan j = s.chan j := rfl
@[simp] theorem State.setLine_get_kid (s : State) (k : Nat) (x : Line) (j : Nat) : (s.setLine k x).kid j = s.kid j := rfl
@[simp] theorem State.setLine_get_ctx (s : State) (k : Nat) (x : Line) (j : Nat) : (s.setLine k x).ctx j = s.ctx j := rfl
@[simp] theorem State.setLine_get_part (s : State) (k : Nat) (x : Line) (j : Nat) : (s.setLine k x).part j = s.part j := rfl
@[simp] theorem State.setLine_get_mq (s : State) (k : Nat) (x : Line) (j : Nat) : (s.setLine k x).mq j = s.mq j := rfl
@[simp] theorem State.setLine_get_obj (s : State) (k : Nat) (x : Line) (j : Nat) : (s.setLine k x).obj j = s.obj j := rfl
@[simp] theorem State.setLine_get_fence (s : State) (k : Nat) (x : Line) (j : Nat) : (s.setLine k x).fence j = s.fence j := rfl
@[simp] theorem State.setLine_get_unit (s : State) (k : Nat) (x : Line) (j : Nat) : (s.setLine k x).unit j = s.unit j := rfl
@[simp] theorem State.setLine_get_port (s : State) (k : Nat) (x : Line) (j : Nat) : (s.setLine k x).port j = s.port j := rfl
@[simp] theorem State.setLine_get_caseLine (s : State) (k : Nat) (x : Line) (j : Nat) : (s.setLine k x).caseLine j = s.caseLine j := rfl
@[simp] theorem State.setLine_get_region (s : State) (k : Nat) (x : Line) (j : Nat) : (s.setLine k x).region j = s.region j := rfl
@[simp] theorem State.setLine_get_tensor (s : State) (k : Nat) (x : Line) (j j' : Nat) : (s.setLine k x).tensor j j' = s.tensor j j' := rfl
@[simp] theorem State.setLine_get_layer (s : State) (k : Nat) (x : Line) (j j' : Nat) : (s.setLine k x).layer j j' = s.layer j j' := rfl
@[simp] theorem State.setLine_same (s : State) (k : Nat) (x : Line) : (s.setLine k x).line k = x := tget_tput_same _ _ _ _
theorem State.setLine_ne (s : State) (k : Nat) (x : Line) {j : Nat} (h : j ≠ k) : (s.setLine k x).line j = s.line j := tget_tput_ne _ _ h _

/-! ## setKid -/

@[simp] theorem State.setKid_pending (s : State) (k : Nat) (x : KeyId) : (s.setKid k x).pending = s.pending := rfl
@[simp] theorem State.setKid_freeCtr (s : State) (k : Nat) (x : KeyId) : (s.setKid k x).freeCtr = s.freeCtr := rfl
@[simp] theorem State.setKid_out (s : State) (k : Nat) (x : KeyId) : (s.setKid k x).out = s.out := rfl
@[simp] theorem State.setKid_regs (s : State) (k : Nat) (x : KeyId) : (s.setKid k x).regs = s.regs := rfl
@[simp] theorem State.setKid_latch (s : State) (k : Nat) (x : KeyId) : (s.setKid k x).latch = s.latch := rfl
@[simp] theorem State.setKid_badacc (s : State) (k : Nat) (x : KeyId) : (s.setKid k x).badacc = s.badacc := rfl
@[simp] theorem State.setKid_colo (s : State) (k : Nat) (x : KeyId) : (s.setKid k x).colo = s.colo := rfl
@[simp] theorem State.setKid_coloGen (s : State) (k : Nat) (x : KeyId) : (s.setKid k x).coloGen = s.coloGen := rfl
@[simp] theorem State.setKid_msixOpen (s : State) (k : Nat) (x : KeyId) : (s.setKid k x).msixOpen = s.msixOpen := rfl
@[simp] theorem State.setKid_msixPend (s : State) (k : Nat) (x : KeyId) : (s.setKid k x).msixPend = s.msixPend := rfl
@[simp] theorem State.setKid_pwr (s : State) (k : Nat) (x : KeyId) : (s.setKid k x).pwr = s.pwr := rfl
@[simp] theorem State.setKid_sec (s : State) (k : Nat) (x : KeyId) : (s.setKid k x).sec = s.sec := rfl
@[simp] theorem State.setKid_mgt (s : State) (k : Nat) (x : KeyId) : (s.setKid k x).mgt = s.mgt := rfl
@[simp] theorem State.setKid_hif (s : State) (k : Nat) (x : KeyId) : (s.setKid k x).hif = s.hif := rfl
@[simp] theorem State.setKid_ports (s : State) (k : Nat) (x : KeyId) : (s.setKid k x).ports = s.ports := rfl
@[simp] theorem State.setKid_frt (s : State) (k : Nat) (x : KeyId) : (s.setKid k x).frt = s.frt := rfl
@[simp] theorem State.setKid_clusters (s : State) (k : Nat) (x : KeyId) : (s.setKid k x).clusters = s.clusters := rfl
@[simp] theorem State.setKid_dbg (s : State) (k : Nat) (x : KeyId) : (s.setKid k x).dbg = s.dbg := rfl
@[simp] theorem State.setKid_chans (s : State) (k : Nat) (x : KeyId) : (s.setKid k x).chans = s.chans := rfl
@[simp] theorem State.setKid_lines (s : State) (k : Nat) (x : KeyId) : (s.setKid k x).lines = s.lines := rfl
@[simp] theorem State.setKid_ctrs (s : State) (k : Nat) (x : KeyId) : (s.setKid k x).ctrs = s.ctrs := rfl
@[simp] theorem State.setKid_cases (s : State) (k : Nat) (x : KeyId) : (s.setKid k x).cases = s.cases := rfl
@[simp] theorem State.setKid_flushing (s : State) (k : Nat) (x : KeyId) : (s.setKid k x).flushing = s.flushing := rfl
@[simp] theorem State.setKid_retiring (s : State) (k : Nat) (x : KeyId) : (s.setKid k x).retiring = s.retiring := rfl
@[simp] theorem State.setKid_reads (s : State) (k : Nat) (x : KeyId) : (s.setKid k x).reads = s.reads := rfl
@[simp] theorem State.setKid_shown (s : State) (k : Nat) (x : KeyId) : (s.setKid k x).shown = s.shown := rfl
@[simp] theorem State.setKid_epochs (s : State) (k : Nat) (x : KeyId) : (s.setKid k x).epochs = s.epochs := rfl
@[simp] theorem State.setKid_halt (s : State) (k : Nat) (x : KeyId) : (s.setKid k x).halt = s.halt := rfl
@[simp] theorem State.setKid_vlat (s : State) (k : Nat) (x : KeyId) : (s.setKid k x).vlat = s.vlat := rfl
@[simp] theorem State.setKid_delivered (s : State) (k : Nat) (x : KeyId) : (s.setKid k x).delivered = s.delivered := rfl
@[simp] theorem State.setKid_egress (s : State) (k : Nat) (x : KeyId) : (s.setKid k x).egress = s.egress := rfl
@[simp] theorem State.setKid_regions (s : State) (k : Nat) (x : KeyId) : (s.setKid k x).regions = s.regions := rfl
@[simp] theorem State.setKid_colls (s : State) (k : Nat) (x : KeyId) : (s.setKid k x).colls = s.colls := rfl
@[simp] theorem State.setKid_skews (s : State) (k : Nat) (x : KeyId) : (s.setKid k x).skews = s.skews := rfl
@[simp] theorem State.setKid_tensors (s : State) (k : Nat) (x : KeyId) : (s.setKid k x).tensors = s.tensors := rfl
@[simp] theorem State.setKid_layers (s : State) (k : Nat) (x : KeyId) : (s.setKid k x).layers = s.layers := rfl
@[simp] theorem State.setKid_ckpts (s : State) (k : Nat) (x : KeyId) : (s.setKid k x).ckpts = s.ckpts := rfl
@[simp] theorem State.setKid_ckptId (s : State) (k : Nat) (x : KeyId) : (s.setKid k x).ckptId = s.ckptId := rfl
@[simp] theorem State.setKid_ctxs (s : State) (k : Nat) (x : KeyId) : (s.setKid k x).ctxs = s.ctxs := rfl
@[simp] theorem State.setKid_mqs (s : State) (k : Nat) (x : KeyId) : (s.setKid k x).mqs = s.mqs := rfl
@[simp] theorem State.setKid_objs (s : State) (k : Nat) (x : KeyId) : (s.setKid k x).objs = s.objs := rfl
@[simp] theorem State.setKid_objGen (s : State) (k : Nat) (x : KeyId) : (s.setKid k x).objGen = s.objGen := rfl
@[simp] theorem State.setKid_fences (s : State) (k : Nat) (x : KeyId) : (s.setKid k x).fences = s.fences := rfl
@[simp] theorem State.setKid_inflight (s : State) (k : Nat) (x : KeyId) : (s.setKid k x).inflight = s.inflight := rfl
@[simp] theorem State.setKid_sent (s : State) (k : Nat) (x : KeyId) : (s.setKid k x).sent = s.sent := rfl
@[simp] theorem State.setKid_parts (s : State) (k : Nat) (x : KeyId) : (s.setKid k x).parts = s.parts := rfl
@[simp] theorem State.setKid_bind (s : State) (k : Nat) (x : KeyId) : (s.setKid k x).bind = s.bind := rfl
@[simp] theorem State.setKid_bindErr (s : State) (k : Nat) (x : KeyId) : (s.setKid k x).bindErr = s.bindErr := rfl
@[simp] theorem State.setKid_bindPart (s : State) (k : Nat) (x : KeyId) : (s.setKid k x).bindPart = s.bindPart := rfl
@[simp] theorem State.setKid_sizesGen (s : State) (k : Nat) (x : KeyId) : (s.setKid k x).sizesGen = s.sizesGen := rfl
@[simp] theorem State.setKid_units (s : State) (k : Nat) (x : KeyId) : (s.setKid k x).units = s.units := rfl
@[simp] theorem State.setKid_prfLast (s : State) (k : Nat) (x : KeyId) : (s.setKid k x).prfLast = s.prfLast := rfl
@[simp] theorem State.setKid_get_cluster (s : State) (k : Nat) (x : KeyId) (j : Nat) : (s.setKid k x).cluster j = s.cluster j := rfl
@[simp] theorem State.setKid_get_chan (s : State) (k : Nat) (x : KeyId) (j : Nat) : (s.setKid k x).chan j = s.chan j := rfl
@[simp] theorem State.setKid_get_line (s : State) (k : Nat) (x : KeyId) (j : Nat) : (s.setKid k x).line j = s.line j := rfl
@[simp] theorem State.setKid_get_ctx (s : State) (k : Nat) (x : KeyId) (j : Nat) : (s.setKid k x).ctx j = s.ctx j := rfl
@[simp] theorem State.setKid_get_part (s : State) (k : Nat) (x : KeyId) (j : Nat) : (s.setKid k x).part j = s.part j := rfl
@[simp] theorem State.setKid_get_mq (s : State) (k : Nat) (x : KeyId) (j : Nat) : (s.setKid k x).mq j = s.mq j := rfl
@[simp] theorem State.setKid_get_obj (s : State) (k : Nat) (x : KeyId) (j : Nat) : (s.setKid k x).obj j = s.obj j := rfl
@[simp] theorem State.setKid_get_fence (s : State) (k : Nat) (x : KeyId) (j : Nat) : (s.setKid k x).fence j = s.fence j := rfl
@[simp] theorem State.setKid_get_unit (s : State) (k : Nat) (x : KeyId) (j : Nat) : (s.setKid k x).unit j = s.unit j := rfl
@[simp] theorem State.setKid_get_port (s : State) (k : Nat) (x : KeyId) (j : Nat) : (s.setKid k x).port j = s.port j := rfl
@[simp] theorem State.setKid_get_caseLine (s : State) (k : Nat) (x : KeyId) (j : Nat) : (s.setKid k x).caseLine j = s.caseLine j := rfl
@[simp] theorem State.setKid_get_region (s : State) (k : Nat) (x : KeyId) (j : Nat) : (s.setKid k x).region j = s.region j := rfl
@[simp] theorem State.setKid_get_tensor (s : State) (k : Nat) (x : KeyId) (j j' : Nat) : (s.setKid k x).tensor j j' = s.tensor j j' := rfl
@[simp] theorem State.setKid_get_layer (s : State) (k : Nat) (x : KeyId) (j j' : Nat) : (s.setKid k x).layer j j' = s.layer j j' := rfl
@[simp] theorem State.setKid_same (s : State) (k : Nat) (x : KeyId) : (s.setKid k x).kid k = x := tget_tput_same _ _ _ _
theorem State.setKid_ne (s : State) (k : Nat) (x : KeyId) {j : Nat} (h : j ≠ k) : (s.setKid k x).kid j = s.kid j := tget_tput_ne _ _ h _

/-! ## setCtx -/

@[simp] theorem State.setCtx_pending (s : State) (c : Nat) (x : Context) : (s.setCtx c x).pending = s.pending := rfl
@[simp] theorem State.setCtx_freeCtr (s : State) (c : Nat) (x : Context) : (s.setCtx c x).freeCtr = s.freeCtr := rfl
@[simp] theorem State.setCtx_out (s : State) (c : Nat) (x : Context) : (s.setCtx c x).out = s.out := rfl
@[simp] theorem State.setCtx_regs (s : State) (c : Nat) (x : Context) : (s.setCtx c x).regs = s.regs := rfl
@[simp] theorem State.setCtx_latch (s : State) (c : Nat) (x : Context) : (s.setCtx c x).latch = s.latch := rfl
@[simp] theorem State.setCtx_badacc (s : State) (c : Nat) (x : Context) : (s.setCtx c x).badacc = s.badacc := rfl
@[simp] theorem State.setCtx_colo (s : State) (c : Nat) (x : Context) : (s.setCtx c x).colo = s.colo := rfl
@[simp] theorem State.setCtx_coloGen (s : State) (c : Nat) (x : Context) : (s.setCtx c x).coloGen = s.coloGen := rfl
@[simp] theorem State.setCtx_msixOpen (s : State) (c : Nat) (x : Context) : (s.setCtx c x).msixOpen = s.msixOpen := rfl
@[simp] theorem State.setCtx_msixPend (s : State) (c : Nat) (x : Context) : (s.setCtx c x).msixPend = s.msixPend := rfl
@[simp] theorem State.setCtx_pwr (s : State) (c : Nat) (x : Context) : (s.setCtx c x).pwr = s.pwr := rfl
@[simp] theorem State.setCtx_sec (s : State) (c : Nat) (x : Context) : (s.setCtx c x).sec = s.sec := rfl
@[simp] theorem State.setCtx_mgt (s : State) (c : Nat) (x : Context) : (s.setCtx c x).mgt = s.mgt := rfl
@[simp] theorem State.setCtx_hif (s : State) (c : Nat) (x : Context) : (s.setCtx c x).hif = s.hif := rfl
@[simp] theorem State.setCtx_ports (s : State) (c : Nat) (x : Context) : (s.setCtx c x).ports = s.ports := rfl
@[simp] theorem State.setCtx_frt (s : State) (c : Nat) (x : Context) : (s.setCtx c x).frt = s.frt := rfl
@[simp] theorem State.setCtx_clusters (s : State) (c : Nat) (x : Context) : (s.setCtx c x).clusters = s.clusters := rfl
@[simp] theorem State.setCtx_dbg (s : State) (c : Nat) (x : Context) : (s.setCtx c x).dbg = s.dbg := rfl
@[simp] theorem State.setCtx_chans (s : State) (c : Nat) (x : Context) : (s.setCtx c x).chans = s.chans := rfl
@[simp] theorem State.setCtx_lines (s : State) (c : Nat) (x : Context) : (s.setCtx c x).lines = s.lines := rfl
@[simp] theorem State.setCtx_ctrs (s : State) (c : Nat) (x : Context) : (s.setCtx c x).ctrs = s.ctrs := rfl
@[simp] theorem State.setCtx_cases (s : State) (c : Nat) (x : Context) : (s.setCtx c x).cases = s.cases := rfl
@[simp] theorem State.setCtx_flushing (s : State) (c : Nat) (x : Context) : (s.setCtx c x).flushing = s.flushing := rfl
@[simp] theorem State.setCtx_kids (s : State) (c : Nat) (x : Context) : (s.setCtx c x).kids = s.kids := rfl
@[simp] theorem State.setCtx_retiring (s : State) (c : Nat) (x : Context) : (s.setCtx c x).retiring = s.retiring := rfl
@[simp] theorem State.setCtx_reads (s : State) (c : Nat) (x : Context) : (s.setCtx c x).reads = s.reads := rfl
@[simp] theorem State.setCtx_shown (s : State) (c : Nat) (x : Context) : (s.setCtx c x).shown = s.shown := rfl
@[simp] theorem State.setCtx_epochs (s : State) (c : Nat) (x : Context) : (s.setCtx c x).epochs = s.epochs := rfl
@[simp] theorem State.setCtx_halt (s : State) (c : Nat) (x : Context) : (s.setCtx c x).halt = s.halt := rfl
@[simp] theorem State.setCtx_vlat (s : State) (c : Nat) (x : Context) : (s.setCtx c x).vlat = s.vlat := rfl
@[simp] theorem State.setCtx_delivered (s : State) (c : Nat) (x : Context) : (s.setCtx c x).delivered = s.delivered := rfl
@[simp] theorem State.setCtx_egress (s : State) (c : Nat) (x : Context) : (s.setCtx c x).egress = s.egress := rfl
@[simp] theorem State.setCtx_regions (s : State) (c : Nat) (x : Context) : (s.setCtx c x).regions = s.regions := rfl
@[simp] theorem State.setCtx_colls (s : State) (c : Nat) (x : Context) : (s.setCtx c x).colls = s.colls := rfl
@[simp] theorem State.setCtx_skews (s : State) (c : Nat) (x : Context) : (s.setCtx c x).skews = s.skews := rfl
@[simp] theorem State.setCtx_tensors (s : State) (c : Nat) (x : Context) : (s.setCtx c x).tensors = s.tensors := rfl
@[simp] theorem State.setCtx_layers (s : State) (c : Nat) (x : Context) : (s.setCtx c x).layers = s.layers := rfl
@[simp] theorem State.setCtx_ckpts (s : State) (c : Nat) (x : Context) : (s.setCtx c x).ckpts = s.ckpts := rfl
@[simp] theorem State.setCtx_ckptId (s : State) (c : Nat) (x : Context) : (s.setCtx c x).ckptId = s.ckptId := rfl
@[simp] theorem State.setCtx_mqs (s : State) (c : Nat) (x : Context) : (s.setCtx c x).mqs = s.mqs := rfl
@[simp] theorem State.setCtx_objs (s : State) (c : Nat) (x : Context) : (s.setCtx c x).objs = s.objs := rfl
@[simp] theorem State.setCtx_objGen (s : State) (c : Nat) (x : Context) : (s.setCtx c x).objGen = s.objGen := rfl
@[simp] theorem State.setCtx_fences (s : State) (c : Nat) (x : Context) : (s.setCtx c x).fences = s.fences := rfl
@[simp] theorem State.setCtx_inflight (s : State) (c : Nat) (x : Context) : (s.setCtx c x).inflight = s.inflight := rfl
@[simp] theorem State.setCtx_sent (s : State) (c : Nat) (x : Context) : (s.setCtx c x).sent = s.sent := rfl
@[simp] theorem State.setCtx_parts (s : State) (c : Nat) (x : Context) : (s.setCtx c x).parts = s.parts := rfl
@[simp] theorem State.setCtx_bind (s : State) (c : Nat) (x : Context) : (s.setCtx c x).bind = s.bind := rfl
@[simp] theorem State.setCtx_bindErr (s : State) (c : Nat) (x : Context) : (s.setCtx c x).bindErr = s.bindErr := rfl
@[simp] theorem State.setCtx_bindPart (s : State) (c : Nat) (x : Context) : (s.setCtx c x).bindPart = s.bindPart := rfl
@[simp] theorem State.setCtx_sizesGen (s : State) (c : Nat) (x : Context) : (s.setCtx c x).sizesGen = s.sizesGen := rfl
@[simp] theorem State.setCtx_units (s : State) (c : Nat) (x : Context) : (s.setCtx c x).units = s.units := rfl
@[simp] theorem State.setCtx_prfLast (s : State) (c : Nat) (x : Context) : (s.setCtx c x).prfLast = s.prfLast := rfl
@[simp] theorem State.setCtx_get_cluster (s : State) (c : Nat) (x : Context) (j : Nat) : (s.setCtx c x).cluster j = s.cluster j := rfl
@[simp] theorem State.setCtx_get_chan (s : State) (c : Nat) (x : Context) (j : Nat) : (s.setCtx c x).chan j = s.chan j := rfl
@[simp] theorem State.setCtx_get_line (s : State) (c : Nat) (x : Context) (j : Nat) : (s.setCtx c x).line j = s.line j := rfl
@[simp] theorem State.setCtx_get_kid (s : State) (c : Nat) (x : Context) (j : Nat) : (s.setCtx c x).kid j = s.kid j := rfl
@[simp] theorem State.setCtx_get_part (s : State) (c : Nat) (x : Context) (j : Nat) : (s.setCtx c x).part j = s.part j := rfl
@[simp] theorem State.setCtx_get_mq (s : State) (c : Nat) (x : Context) (j : Nat) : (s.setCtx c x).mq j = s.mq j := rfl
@[simp] theorem State.setCtx_get_obj (s : State) (c : Nat) (x : Context) (j : Nat) : (s.setCtx c x).obj j = s.obj j := rfl
@[simp] theorem State.setCtx_get_fence (s : State) (c : Nat) (x : Context) (j : Nat) : (s.setCtx c x).fence j = s.fence j := rfl
@[simp] theorem State.setCtx_get_unit (s : State) (c : Nat) (x : Context) (j : Nat) : (s.setCtx c x).unit j = s.unit j := rfl
@[simp] theorem State.setCtx_get_port (s : State) (c : Nat) (x : Context) (j : Nat) : (s.setCtx c x).port j = s.port j := rfl
@[simp] theorem State.setCtx_get_caseLine (s : State) (c : Nat) (x : Context) (j : Nat) : (s.setCtx c x).caseLine j = s.caseLine j := rfl
@[simp] theorem State.setCtx_get_region (s : State) (c : Nat) (x : Context) (j : Nat) : (s.setCtx c x).region j = s.region j := rfl
@[simp] theorem State.setCtx_get_tensor (s : State) (c : Nat) (x : Context) (j j' : Nat) : (s.setCtx c x).tensor j j' = s.tensor j j' := rfl
@[simp] theorem State.setCtx_get_layer (s : State) (c : Nat) (x : Context) (j j' : Nat) : (s.setCtx c x).layer j j' = s.layer j j' := rfl
@[simp] theorem State.setCtx_same (s : State) (c : Nat) (x : Context) : (s.setCtx c x).ctx c = x := tget_tput_same _ _ _ _
theorem State.setCtx_ne (s : State) (c : Nat) (x : Context) {j : Nat} (h : j ≠ c) : (s.setCtx c x).ctx j = s.ctx j := tget_tput_ne _ _ h _

/-! ## setPart -/

@[simp] theorem State.setPart_pending (s : State) (p : Nat) (x : Partition) : (s.setPart p x).pending = s.pending := rfl
@[simp] theorem State.setPart_freeCtr (s : State) (p : Nat) (x : Partition) : (s.setPart p x).freeCtr = s.freeCtr := rfl
@[simp] theorem State.setPart_out (s : State) (p : Nat) (x : Partition) : (s.setPart p x).out = s.out := rfl
@[simp] theorem State.setPart_regs (s : State) (p : Nat) (x : Partition) : (s.setPart p x).regs = s.regs := rfl
@[simp] theorem State.setPart_latch (s : State) (p : Nat) (x : Partition) : (s.setPart p x).latch = s.latch := rfl
@[simp] theorem State.setPart_badacc (s : State) (p : Nat) (x : Partition) : (s.setPart p x).badacc = s.badacc := rfl
@[simp] theorem State.setPart_colo (s : State) (p : Nat) (x : Partition) : (s.setPart p x).colo = s.colo := rfl
@[simp] theorem State.setPart_coloGen (s : State) (p : Nat) (x : Partition) : (s.setPart p x).coloGen = s.coloGen := rfl
@[simp] theorem State.setPart_msixOpen (s : State) (p : Nat) (x : Partition) : (s.setPart p x).msixOpen = s.msixOpen := rfl
@[simp] theorem State.setPart_msixPend (s : State) (p : Nat) (x : Partition) : (s.setPart p x).msixPend = s.msixPend := rfl
@[simp] theorem State.setPart_pwr (s : State) (p : Nat) (x : Partition) : (s.setPart p x).pwr = s.pwr := rfl
@[simp] theorem State.setPart_sec (s : State) (p : Nat) (x : Partition) : (s.setPart p x).sec = s.sec := rfl
@[simp] theorem State.setPart_mgt (s : State) (p : Nat) (x : Partition) : (s.setPart p x).mgt = s.mgt := rfl
@[simp] theorem State.setPart_hif (s : State) (p : Nat) (x : Partition) : (s.setPart p x).hif = s.hif := rfl
@[simp] theorem State.setPart_ports (s : State) (p : Nat) (x : Partition) : (s.setPart p x).ports = s.ports := rfl
@[simp] theorem State.setPart_frt (s : State) (p : Nat) (x : Partition) : (s.setPart p x).frt = s.frt := rfl
@[simp] theorem State.setPart_clusters (s : State) (p : Nat) (x : Partition) : (s.setPart p x).clusters = s.clusters := rfl
@[simp] theorem State.setPart_dbg (s : State) (p : Nat) (x : Partition) : (s.setPart p x).dbg = s.dbg := rfl
@[simp] theorem State.setPart_chans (s : State) (p : Nat) (x : Partition) : (s.setPart p x).chans = s.chans := rfl
@[simp] theorem State.setPart_lines (s : State) (p : Nat) (x : Partition) : (s.setPart p x).lines = s.lines := rfl
@[simp] theorem State.setPart_ctrs (s : State) (p : Nat) (x : Partition) : (s.setPart p x).ctrs = s.ctrs := rfl
@[simp] theorem State.setPart_cases (s : State) (p : Nat) (x : Partition) : (s.setPart p x).cases = s.cases := rfl
@[simp] theorem State.setPart_flushing (s : State) (p : Nat) (x : Partition) : (s.setPart p x).flushing = s.flushing := rfl
@[simp] theorem State.setPart_kids (s : State) (p : Nat) (x : Partition) : (s.setPart p x).kids = s.kids := rfl
@[simp] theorem State.setPart_retiring (s : State) (p : Nat) (x : Partition) : (s.setPart p x).retiring = s.retiring := rfl
@[simp] theorem State.setPart_reads (s : State) (p : Nat) (x : Partition) : (s.setPart p x).reads = s.reads := rfl
@[simp] theorem State.setPart_shown (s : State) (p : Nat) (x : Partition) : (s.setPart p x).shown = s.shown := rfl
@[simp] theorem State.setPart_epochs (s : State) (p : Nat) (x : Partition) : (s.setPart p x).epochs = s.epochs := rfl
@[simp] theorem State.setPart_halt (s : State) (p : Nat) (x : Partition) : (s.setPart p x).halt = s.halt := rfl
@[simp] theorem State.setPart_vlat (s : State) (p : Nat) (x : Partition) : (s.setPart p x).vlat = s.vlat := rfl
@[simp] theorem State.setPart_delivered (s : State) (p : Nat) (x : Partition) : (s.setPart p x).delivered = s.delivered := rfl
@[simp] theorem State.setPart_egress (s : State) (p : Nat) (x : Partition) : (s.setPart p x).egress = s.egress := rfl
@[simp] theorem State.setPart_regions (s : State) (p : Nat) (x : Partition) : (s.setPart p x).regions = s.regions := rfl
@[simp] theorem State.setPart_colls (s : State) (p : Nat) (x : Partition) : (s.setPart p x).colls = s.colls := rfl
@[simp] theorem State.setPart_skews (s : State) (p : Nat) (x : Partition) : (s.setPart p x).skews = s.skews := rfl
@[simp] theorem State.setPart_tensors (s : State) (p : Nat) (x : Partition) : (s.setPart p x).tensors = s.tensors := rfl
@[simp] theorem State.setPart_layers (s : State) (p : Nat) (x : Partition) : (s.setPart p x).layers = s.layers := rfl
@[simp] theorem State.setPart_ckpts (s : State) (p : Nat) (x : Partition) : (s.setPart p x).ckpts = s.ckpts := rfl
@[simp] theorem State.setPart_ckptId (s : State) (p : Nat) (x : Partition) : (s.setPart p x).ckptId = s.ckptId := rfl
@[simp] theorem State.setPart_ctxs (s : State) (p : Nat) (x : Partition) : (s.setPart p x).ctxs = s.ctxs := rfl
@[simp] theorem State.setPart_mqs (s : State) (p : Nat) (x : Partition) : (s.setPart p x).mqs = s.mqs := rfl
@[simp] theorem State.setPart_objs (s : State) (p : Nat) (x : Partition) : (s.setPart p x).objs = s.objs := rfl
@[simp] theorem State.setPart_objGen (s : State) (p : Nat) (x : Partition) : (s.setPart p x).objGen = s.objGen := rfl
@[simp] theorem State.setPart_fences (s : State) (p : Nat) (x : Partition) : (s.setPart p x).fences = s.fences := rfl
@[simp] theorem State.setPart_inflight (s : State) (p : Nat) (x : Partition) : (s.setPart p x).inflight = s.inflight := rfl
@[simp] theorem State.setPart_sent (s : State) (p : Nat) (x : Partition) : (s.setPart p x).sent = s.sent := rfl
@[simp] theorem State.setPart_bind (s : State) (p : Nat) (x : Partition) : (s.setPart p x).bind = s.bind := rfl
@[simp] theorem State.setPart_bindErr (s : State) (p : Nat) (x : Partition) : (s.setPart p x).bindErr = s.bindErr := rfl
@[simp] theorem State.setPart_bindPart (s : State) (p : Nat) (x : Partition) : (s.setPart p x).bindPart = s.bindPart := rfl
@[simp] theorem State.setPart_sizesGen (s : State) (p : Nat) (x : Partition) : (s.setPart p x).sizesGen = s.sizesGen := rfl
@[simp] theorem State.setPart_units (s : State) (p : Nat) (x : Partition) : (s.setPart p x).units = s.units := rfl
@[simp] theorem State.setPart_prfLast (s : State) (p : Nat) (x : Partition) : (s.setPart p x).prfLast = s.prfLast := rfl
@[simp] theorem State.setPart_get_cluster (s : State) (p : Nat) (x : Partition) (j : Nat) : (s.setPart p x).cluster j = s.cluster j := rfl
@[simp] theorem State.setPart_get_chan (s : State) (p : Nat) (x : Partition) (j : Nat) : (s.setPart p x).chan j = s.chan j := rfl
@[simp] theorem State.setPart_get_line (s : State) (p : Nat) (x : Partition) (j : Nat) : (s.setPart p x).line j = s.line j := rfl
@[simp] theorem State.setPart_get_kid (s : State) (p : Nat) (x : Partition) (j : Nat) : (s.setPart p x).kid j = s.kid j := rfl
@[simp] theorem State.setPart_get_ctx (s : State) (p : Nat) (x : Partition) (j : Nat) : (s.setPart p x).ctx j = s.ctx j := rfl
@[simp] theorem State.setPart_get_mq (s : State) (p : Nat) (x : Partition) (j : Nat) : (s.setPart p x).mq j = s.mq j := rfl
@[simp] theorem State.setPart_get_obj (s : State) (p : Nat) (x : Partition) (j : Nat) : (s.setPart p x).obj j = s.obj j := rfl
@[simp] theorem State.setPart_get_fence (s : State) (p : Nat) (x : Partition) (j : Nat) : (s.setPart p x).fence j = s.fence j := rfl
@[simp] theorem State.setPart_get_unit (s : State) (p : Nat) (x : Partition) (j : Nat) : (s.setPart p x).unit j = s.unit j := rfl
@[simp] theorem State.setPart_get_port (s : State) (p : Nat) (x : Partition) (j : Nat) : (s.setPart p x).port j = s.port j := rfl
@[simp] theorem State.setPart_get_caseLine (s : State) (p : Nat) (x : Partition) (j : Nat) : (s.setPart p x).caseLine j = s.caseLine j := rfl
@[simp] theorem State.setPart_get_region (s : State) (p : Nat) (x : Partition) (j : Nat) : (s.setPart p x).region j = s.region j := rfl
@[simp] theorem State.setPart_get_tensor (s : State) (p : Nat) (x : Partition) (j j' : Nat) : (s.setPart p x).tensor j j' = s.tensor j j' := rfl
@[simp] theorem State.setPart_get_layer (s : State) (p : Nat) (x : Partition) (j j' : Nat) : (s.setPart p x).layer j j' = s.layer j j' := rfl
@[simp] theorem State.setPart_same (s : State) (p : Nat) (x : Partition) : (s.setPart p x).part p = x := tget_tput_same _ _ _ _
theorem State.setPart_ne (s : State) (p : Nat) (x : Partition) {j : Nat} (h : j ≠ p) : (s.setPart p x).part j = s.part j := tget_tput_ne _ _ h _

/-! ## setMq -/

@[simp] theorem State.setMq_pending (s : State) (m : Nat) (x : MgmtQ) : (s.setMq m x).pending = s.pending := rfl
@[simp] theorem State.setMq_freeCtr (s : State) (m : Nat) (x : MgmtQ) : (s.setMq m x).freeCtr = s.freeCtr := rfl
@[simp] theorem State.setMq_out (s : State) (m : Nat) (x : MgmtQ) : (s.setMq m x).out = s.out := rfl
@[simp] theorem State.setMq_regs (s : State) (m : Nat) (x : MgmtQ) : (s.setMq m x).regs = s.regs := rfl
@[simp] theorem State.setMq_latch (s : State) (m : Nat) (x : MgmtQ) : (s.setMq m x).latch = s.latch := rfl
@[simp] theorem State.setMq_badacc (s : State) (m : Nat) (x : MgmtQ) : (s.setMq m x).badacc = s.badacc := rfl
@[simp] theorem State.setMq_colo (s : State) (m : Nat) (x : MgmtQ) : (s.setMq m x).colo = s.colo := rfl
@[simp] theorem State.setMq_coloGen (s : State) (m : Nat) (x : MgmtQ) : (s.setMq m x).coloGen = s.coloGen := rfl
@[simp] theorem State.setMq_msixOpen (s : State) (m : Nat) (x : MgmtQ) : (s.setMq m x).msixOpen = s.msixOpen := rfl
@[simp] theorem State.setMq_msixPend (s : State) (m : Nat) (x : MgmtQ) : (s.setMq m x).msixPend = s.msixPend := rfl
@[simp] theorem State.setMq_pwr (s : State) (m : Nat) (x : MgmtQ) : (s.setMq m x).pwr = s.pwr := rfl
@[simp] theorem State.setMq_sec (s : State) (m : Nat) (x : MgmtQ) : (s.setMq m x).sec = s.sec := rfl
@[simp] theorem State.setMq_mgt (s : State) (m : Nat) (x : MgmtQ) : (s.setMq m x).mgt = s.mgt := rfl
@[simp] theorem State.setMq_hif (s : State) (m : Nat) (x : MgmtQ) : (s.setMq m x).hif = s.hif := rfl
@[simp] theorem State.setMq_ports (s : State) (m : Nat) (x : MgmtQ) : (s.setMq m x).ports = s.ports := rfl
@[simp] theorem State.setMq_frt (s : State) (m : Nat) (x : MgmtQ) : (s.setMq m x).frt = s.frt := rfl
@[simp] theorem State.setMq_clusters (s : State) (m : Nat) (x : MgmtQ) : (s.setMq m x).clusters = s.clusters := rfl
@[simp] theorem State.setMq_dbg (s : State) (m : Nat) (x : MgmtQ) : (s.setMq m x).dbg = s.dbg := rfl
@[simp] theorem State.setMq_chans (s : State) (m : Nat) (x : MgmtQ) : (s.setMq m x).chans = s.chans := rfl
@[simp] theorem State.setMq_lines (s : State) (m : Nat) (x : MgmtQ) : (s.setMq m x).lines = s.lines := rfl
@[simp] theorem State.setMq_ctrs (s : State) (m : Nat) (x : MgmtQ) : (s.setMq m x).ctrs = s.ctrs := rfl
@[simp] theorem State.setMq_cases (s : State) (m : Nat) (x : MgmtQ) : (s.setMq m x).cases = s.cases := rfl
@[simp] theorem State.setMq_flushing (s : State) (m : Nat) (x : MgmtQ) : (s.setMq m x).flushing = s.flushing := rfl
@[simp] theorem State.setMq_kids (s : State) (m : Nat) (x : MgmtQ) : (s.setMq m x).kids = s.kids := rfl
@[simp] theorem State.setMq_retiring (s : State) (m : Nat) (x : MgmtQ) : (s.setMq m x).retiring = s.retiring := rfl
@[simp] theorem State.setMq_reads (s : State) (m : Nat) (x : MgmtQ) : (s.setMq m x).reads = s.reads := rfl
@[simp] theorem State.setMq_shown (s : State) (m : Nat) (x : MgmtQ) : (s.setMq m x).shown = s.shown := rfl
@[simp] theorem State.setMq_epochs (s : State) (m : Nat) (x : MgmtQ) : (s.setMq m x).epochs = s.epochs := rfl
@[simp] theorem State.setMq_halt (s : State) (m : Nat) (x : MgmtQ) : (s.setMq m x).halt = s.halt := rfl
@[simp] theorem State.setMq_vlat (s : State) (m : Nat) (x : MgmtQ) : (s.setMq m x).vlat = s.vlat := rfl
@[simp] theorem State.setMq_delivered (s : State) (m : Nat) (x : MgmtQ) : (s.setMq m x).delivered = s.delivered := rfl
@[simp] theorem State.setMq_egress (s : State) (m : Nat) (x : MgmtQ) : (s.setMq m x).egress = s.egress := rfl
@[simp] theorem State.setMq_regions (s : State) (m : Nat) (x : MgmtQ) : (s.setMq m x).regions = s.regions := rfl
@[simp] theorem State.setMq_colls (s : State) (m : Nat) (x : MgmtQ) : (s.setMq m x).colls = s.colls := rfl
@[simp] theorem State.setMq_skews (s : State) (m : Nat) (x : MgmtQ) : (s.setMq m x).skews = s.skews := rfl
@[simp] theorem State.setMq_tensors (s : State) (m : Nat) (x : MgmtQ) : (s.setMq m x).tensors = s.tensors := rfl
@[simp] theorem State.setMq_layers (s : State) (m : Nat) (x : MgmtQ) : (s.setMq m x).layers = s.layers := rfl
@[simp] theorem State.setMq_ckpts (s : State) (m : Nat) (x : MgmtQ) : (s.setMq m x).ckpts = s.ckpts := rfl
@[simp] theorem State.setMq_ckptId (s : State) (m : Nat) (x : MgmtQ) : (s.setMq m x).ckptId = s.ckptId := rfl
@[simp] theorem State.setMq_ctxs (s : State) (m : Nat) (x : MgmtQ) : (s.setMq m x).ctxs = s.ctxs := rfl
@[simp] theorem State.setMq_objs (s : State) (m : Nat) (x : MgmtQ) : (s.setMq m x).objs = s.objs := rfl
@[simp] theorem State.setMq_objGen (s : State) (m : Nat) (x : MgmtQ) : (s.setMq m x).objGen = s.objGen := rfl
@[simp] theorem State.setMq_fences (s : State) (m : Nat) (x : MgmtQ) : (s.setMq m x).fences = s.fences := rfl
@[simp] theorem State.setMq_inflight (s : State) (m : Nat) (x : MgmtQ) : (s.setMq m x).inflight = s.inflight := rfl
@[simp] theorem State.setMq_sent (s : State) (m : Nat) (x : MgmtQ) : (s.setMq m x).sent = s.sent := rfl
@[simp] theorem State.setMq_parts (s : State) (m : Nat) (x : MgmtQ) : (s.setMq m x).parts = s.parts := rfl
@[simp] theorem State.setMq_bind (s : State) (m : Nat) (x : MgmtQ) : (s.setMq m x).bind = s.bind := rfl
@[simp] theorem State.setMq_bindErr (s : State) (m : Nat) (x : MgmtQ) : (s.setMq m x).bindErr = s.bindErr := rfl
@[simp] theorem State.setMq_bindPart (s : State) (m : Nat) (x : MgmtQ) : (s.setMq m x).bindPart = s.bindPart := rfl
@[simp] theorem State.setMq_sizesGen (s : State) (m : Nat) (x : MgmtQ) : (s.setMq m x).sizesGen = s.sizesGen := rfl
@[simp] theorem State.setMq_units (s : State) (m : Nat) (x : MgmtQ) : (s.setMq m x).units = s.units := rfl
@[simp] theorem State.setMq_prfLast (s : State) (m : Nat) (x : MgmtQ) : (s.setMq m x).prfLast = s.prfLast := rfl
@[simp] theorem State.setMq_get_cluster (s : State) (m : Nat) (x : MgmtQ) (j : Nat) : (s.setMq m x).cluster j = s.cluster j := rfl
@[simp] theorem State.setMq_get_chan (s : State) (m : Nat) (x : MgmtQ) (j : Nat) : (s.setMq m x).chan j = s.chan j := rfl
@[simp] theorem State.setMq_get_line (s : State) (m : Nat) (x : MgmtQ) (j : Nat) : (s.setMq m x).line j = s.line j := rfl
@[simp] theorem State.setMq_get_kid (s : State) (m : Nat) (x : MgmtQ) (j : Nat) : (s.setMq m x).kid j = s.kid j := rfl
@[simp] theorem State.setMq_get_ctx (s : State) (m : Nat) (x : MgmtQ) (j : Nat) : (s.setMq m x).ctx j = s.ctx j := rfl
@[simp] theorem State.setMq_get_part (s : State) (m : Nat) (x : MgmtQ) (j : Nat) : (s.setMq m x).part j = s.part j := rfl
@[simp] theorem State.setMq_get_obj (s : State) (m : Nat) (x : MgmtQ) (j : Nat) : (s.setMq m x).obj j = s.obj j := rfl
@[simp] theorem State.setMq_get_fence (s : State) (m : Nat) (x : MgmtQ) (j : Nat) : (s.setMq m x).fence j = s.fence j := rfl
@[simp] theorem State.setMq_get_unit (s : State) (m : Nat) (x : MgmtQ) (j : Nat) : (s.setMq m x).unit j = s.unit j := rfl
@[simp] theorem State.setMq_get_port (s : State) (m : Nat) (x : MgmtQ) (j : Nat) : (s.setMq m x).port j = s.port j := rfl
@[simp] theorem State.setMq_get_caseLine (s : State) (m : Nat) (x : MgmtQ) (j : Nat) : (s.setMq m x).caseLine j = s.caseLine j := rfl
@[simp] theorem State.setMq_get_region (s : State) (m : Nat) (x : MgmtQ) (j : Nat) : (s.setMq m x).region j = s.region j := rfl
@[simp] theorem State.setMq_get_tensor (s : State) (m : Nat) (x : MgmtQ) (j j' : Nat) : (s.setMq m x).tensor j j' = s.tensor j j' := rfl
@[simp] theorem State.setMq_get_layer (s : State) (m : Nat) (x : MgmtQ) (j j' : Nat) : (s.setMq m x).layer j j' = s.layer j j' := rfl
@[simp] theorem State.setMq_same (s : State) (m : Nat) (x : MgmtQ) : (s.setMq m x).mq m = x := tget_tput_same _ _ _ _
theorem State.setMq_ne (s : State) (m : Nat) (x : MgmtQ) {j : Nat} (h : j ≠ m) : (s.setMq m x).mq j = s.mq j := tget_tput_ne _ _ h _

/-! ## setObj -/

@[simp] theorem State.setObj_pending (s : State) (i : Nat) (x : Option Obj) : (s.setObj i x).pending = s.pending := rfl
@[simp] theorem State.setObj_freeCtr (s : State) (i : Nat) (x : Option Obj) : (s.setObj i x).freeCtr = s.freeCtr := rfl
@[simp] theorem State.setObj_out (s : State) (i : Nat) (x : Option Obj) : (s.setObj i x).out = s.out := rfl
@[simp] theorem State.setObj_regs (s : State) (i : Nat) (x : Option Obj) : (s.setObj i x).regs = s.regs := rfl
@[simp] theorem State.setObj_latch (s : State) (i : Nat) (x : Option Obj) : (s.setObj i x).latch = s.latch := rfl
@[simp] theorem State.setObj_badacc (s : State) (i : Nat) (x : Option Obj) : (s.setObj i x).badacc = s.badacc := rfl
@[simp] theorem State.setObj_colo (s : State) (i : Nat) (x : Option Obj) : (s.setObj i x).colo = s.colo := rfl
@[simp] theorem State.setObj_coloGen (s : State) (i : Nat) (x : Option Obj) : (s.setObj i x).coloGen = s.coloGen := rfl
@[simp] theorem State.setObj_msixOpen (s : State) (i : Nat) (x : Option Obj) : (s.setObj i x).msixOpen = s.msixOpen := rfl
@[simp] theorem State.setObj_msixPend (s : State) (i : Nat) (x : Option Obj) : (s.setObj i x).msixPend = s.msixPend := rfl
@[simp] theorem State.setObj_pwr (s : State) (i : Nat) (x : Option Obj) : (s.setObj i x).pwr = s.pwr := rfl
@[simp] theorem State.setObj_sec (s : State) (i : Nat) (x : Option Obj) : (s.setObj i x).sec = s.sec := rfl
@[simp] theorem State.setObj_mgt (s : State) (i : Nat) (x : Option Obj) : (s.setObj i x).mgt = s.mgt := rfl
@[simp] theorem State.setObj_hif (s : State) (i : Nat) (x : Option Obj) : (s.setObj i x).hif = s.hif := rfl
@[simp] theorem State.setObj_ports (s : State) (i : Nat) (x : Option Obj) : (s.setObj i x).ports = s.ports := rfl
@[simp] theorem State.setObj_frt (s : State) (i : Nat) (x : Option Obj) : (s.setObj i x).frt = s.frt := rfl
@[simp] theorem State.setObj_clusters (s : State) (i : Nat) (x : Option Obj) : (s.setObj i x).clusters = s.clusters := rfl
@[simp] theorem State.setObj_dbg (s : State) (i : Nat) (x : Option Obj) : (s.setObj i x).dbg = s.dbg := rfl
@[simp] theorem State.setObj_chans (s : State) (i : Nat) (x : Option Obj) : (s.setObj i x).chans = s.chans := rfl
@[simp] theorem State.setObj_lines (s : State) (i : Nat) (x : Option Obj) : (s.setObj i x).lines = s.lines := rfl
@[simp] theorem State.setObj_ctrs (s : State) (i : Nat) (x : Option Obj) : (s.setObj i x).ctrs = s.ctrs := rfl
@[simp] theorem State.setObj_cases (s : State) (i : Nat) (x : Option Obj) : (s.setObj i x).cases = s.cases := rfl
@[simp] theorem State.setObj_flushing (s : State) (i : Nat) (x : Option Obj) : (s.setObj i x).flushing = s.flushing := rfl
@[simp] theorem State.setObj_kids (s : State) (i : Nat) (x : Option Obj) : (s.setObj i x).kids = s.kids := rfl
@[simp] theorem State.setObj_retiring (s : State) (i : Nat) (x : Option Obj) : (s.setObj i x).retiring = s.retiring := rfl
@[simp] theorem State.setObj_reads (s : State) (i : Nat) (x : Option Obj) : (s.setObj i x).reads = s.reads := rfl
@[simp] theorem State.setObj_shown (s : State) (i : Nat) (x : Option Obj) : (s.setObj i x).shown = s.shown := rfl
@[simp] theorem State.setObj_epochs (s : State) (i : Nat) (x : Option Obj) : (s.setObj i x).epochs = s.epochs := rfl
@[simp] theorem State.setObj_halt (s : State) (i : Nat) (x : Option Obj) : (s.setObj i x).halt = s.halt := rfl
@[simp] theorem State.setObj_vlat (s : State) (i : Nat) (x : Option Obj) : (s.setObj i x).vlat = s.vlat := rfl
@[simp] theorem State.setObj_delivered (s : State) (i : Nat) (x : Option Obj) : (s.setObj i x).delivered = s.delivered := rfl
@[simp] theorem State.setObj_egress (s : State) (i : Nat) (x : Option Obj) : (s.setObj i x).egress = s.egress := rfl
@[simp] theorem State.setObj_regions (s : State) (i : Nat) (x : Option Obj) : (s.setObj i x).regions = s.regions := rfl
@[simp] theorem State.setObj_colls (s : State) (i : Nat) (x : Option Obj) : (s.setObj i x).colls = s.colls := rfl
@[simp] theorem State.setObj_skews (s : State) (i : Nat) (x : Option Obj) : (s.setObj i x).skews = s.skews := rfl
@[simp] theorem State.setObj_tensors (s : State) (i : Nat) (x : Option Obj) : (s.setObj i x).tensors = s.tensors := rfl
@[simp] theorem State.setObj_layers (s : State) (i : Nat) (x : Option Obj) : (s.setObj i x).layers = s.layers := rfl
@[simp] theorem State.setObj_ckpts (s : State) (i : Nat) (x : Option Obj) : (s.setObj i x).ckpts = s.ckpts := rfl
@[simp] theorem State.setObj_ckptId (s : State) (i : Nat) (x : Option Obj) : (s.setObj i x).ckptId = s.ckptId := rfl
@[simp] theorem State.setObj_ctxs (s : State) (i : Nat) (x : Option Obj) : (s.setObj i x).ctxs = s.ctxs := rfl
@[simp] theorem State.setObj_mqs (s : State) (i : Nat) (x : Option Obj) : (s.setObj i x).mqs = s.mqs := rfl
@[simp] theorem State.setObj_objGen (s : State) (i : Nat) (x : Option Obj) : (s.setObj i x).objGen = s.objGen := rfl
@[simp] theorem State.setObj_fences (s : State) (i : Nat) (x : Option Obj) : (s.setObj i x).fences = s.fences := rfl
@[simp] theorem State.setObj_inflight (s : State) (i : Nat) (x : Option Obj) : (s.setObj i x).inflight = s.inflight := rfl
@[simp] theorem State.setObj_sent (s : State) (i : Nat) (x : Option Obj) : (s.setObj i x).sent = s.sent := rfl
@[simp] theorem State.setObj_parts (s : State) (i : Nat) (x : Option Obj) : (s.setObj i x).parts = s.parts := rfl
@[simp] theorem State.setObj_bind (s : State) (i : Nat) (x : Option Obj) : (s.setObj i x).bind = s.bind := rfl
@[simp] theorem State.setObj_bindErr (s : State) (i : Nat) (x : Option Obj) : (s.setObj i x).bindErr = s.bindErr := rfl
@[simp] theorem State.setObj_bindPart (s : State) (i : Nat) (x : Option Obj) : (s.setObj i x).bindPart = s.bindPart := rfl
@[simp] theorem State.setObj_sizesGen (s : State) (i : Nat) (x : Option Obj) : (s.setObj i x).sizesGen = s.sizesGen := rfl
@[simp] theorem State.setObj_units (s : State) (i : Nat) (x : Option Obj) : (s.setObj i x).units = s.units := rfl
@[simp] theorem State.setObj_prfLast (s : State) (i : Nat) (x : Option Obj) : (s.setObj i x).prfLast = s.prfLast := rfl
@[simp] theorem State.setObj_get_cluster (s : State) (i : Nat) (x : Option Obj) (j : Nat) : (s.setObj i x).cluster j = s.cluster j := rfl
@[simp] theorem State.setObj_get_chan (s : State) (i : Nat) (x : Option Obj) (j : Nat) : (s.setObj i x).chan j = s.chan j := rfl
@[simp] theorem State.setObj_get_line (s : State) (i : Nat) (x : Option Obj) (j : Nat) : (s.setObj i x).line j = s.line j := rfl
@[simp] theorem State.setObj_get_kid (s : State) (i : Nat) (x : Option Obj) (j : Nat) : (s.setObj i x).kid j = s.kid j := rfl
@[simp] theorem State.setObj_get_ctx (s : State) (i : Nat) (x : Option Obj) (j : Nat) : (s.setObj i x).ctx j = s.ctx j := rfl
@[simp] theorem State.setObj_get_part (s : State) (i : Nat) (x : Option Obj) (j : Nat) : (s.setObj i x).part j = s.part j := rfl
@[simp] theorem State.setObj_get_mq (s : State) (i : Nat) (x : Option Obj) (j : Nat) : (s.setObj i x).mq j = s.mq j := rfl
@[simp] theorem State.setObj_get_fence (s : State) (i : Nat) (x : Option Obj) (j : Nat) : (s.setObj i x).fence j = s.fence j := rfl
@[simp] theorem State.setObj_get_unit (s : State) (i : Nat) (x : Option Obj) (j : Nat) : (s.setObj i x).unit j = s.unit j := rfl
@[simp] theorem State.setObj_get_port (s : State) (i : Nat) (x : Option Obj) (j : Nat) : (s.setObj i x).port j = s.port j := rfl
@[simp] theorem State.setObj_get_caseLine (s : State) (i : Nat) (x : Option Obj) (j : Nat) : (s.setObj i x).caseLine j = s.caseLine j := rfl
@[simp] theorem State.setObj_get_region (s : State) (i : Nat) (x : Option Obj) (j : Nat) : (s.setObj i x).region j = s.region j := rfl
@[simp] theorem State.setObj_get_tensor (s : State) (i : Nat) (x : Option Obj) (j j' : Nat) : (s.setObj i x).tensor j j' = s.tensor j j' := rfl
@[simp] theorem State.setObj_get_layer (s : State) (i : Nat) (x : Option Obj) (j j' : Nat) : (s.setObj i x).layer j j' = s.layer j j' := rfl
@[simp] theorem State.setObj_same (s : State) (i : Nat) (x : Option Obj) : (s.setObj i x).obj i = x := tget_tput_same _ _ _ _
theorem State.setObj_ne (s : State) (i : Nat) (x : Option Obj) {j : Nat} (h : j ≠ i) : (s.setObj i x).obj j = s.obj j := tget_tput_ne _ _ h _

/-! ## setFence -/

@[simp] theorem State.setFence_pending (s : State) (i : Nat) (x : Option Fence) : (s.setFence i x).pending = s.pending := rfl
@[simp] theorem State.setFence_freeCtr (s : State) (i : Nat) (x : Option Fence) : (s.setFence i x).freeCtr = s.freeCtr := rfl
@[simp] theorem State.setFence_out (s : State) (i : Nat) (x : Option Fence) : (s.setFence i x).out = s.out := rfl
@[simp] theorem State.setFence_regs (s : State) (i : Nat) (x : Option Fence) : (s.setFence i x).regs = s.regs := rfl
@[simp] theorem State.setFence_latch (s : State) (i : Nat) (x : Option Fence) : (s.setFence i x).latch = s.latch := rfl
@[simp] theorem State.setFence_badacc (s : State) (i : Nat) (x : Option Fence) : (s.setFence i x).badacc = s.badacc := rfl
@[simp] theorem State.setFence_colo (s : State) (i : Nat) (x : Option Fence) : (s.setFence i x).colo = s.colo := rfl
@[simp] theorem State.setFence_coloGen (s : State) (i : Nat) (x : Option Fence) : (s.setFence i x).coloGen = s.coloGen := rfl
@[simp] theorem State.setFence_msixOpen (s : State) (i : Nat) (x : Option Fence) : (s.setFence i x).msixOpen = s.msixOpen := rfl
@[simp] theorem State.setFence_msixPend (s : State) (i : Nat) (x : Option Fence) : (s.setFence i x).msixPend = s.msixPend := rfl
@[simp] theorem State.setFence_pwr (s : State) (i : Nat) (x : Option Fence) : (s.setFence i x).pwr = s.pwr := rfl
@[simp] theorem State.setFence_sec (s : State) (i : Nat) (x : Option Fence) : (s.setFence i x).sec = s.sec := rfl
@[simp] theorem State.setFence_mgt (s : State) (i : Nat) (x : Option Fence) : (s.setFence i x).mgt = s.mgt := rfl
@[simp] theorem State.setFence_hif (s : State) (i : Nat) (x : Option Fence) : (s.setFence i x).hif = s.hif := rfl
@[simp] theorem State.setFence_ports (s : State) (i : Nat) (x : Option Fence) : (s.setFence i x).ports = s.ports := rfl
@[simp] theorem State.setFence_frt (s : State) (i : Nat) (x : Option Fence) : (s.setFence i x).frt = s.frt := rfl
@[simp] theorem State.setFence_clusters (s : State) (i : Nat) (x : Option Fence) : (s.setFence i x).clusters = s.clusters := rfl
@[simp] theorem State.setFence_dbg (s : State) (i : Nat) (x : Option Fence) : (s.setFence i x).dbg = s.dbg := rfl
@[simp] theorem State.setFence_chans (s : State) (i : Nat) (x : Option Fence) : (s.setFence i x).chans = s.chans := rfl
@[simp] theorem State.setFence_lines (s : State) (i : Nat) (x : Option Fence) : (s.setFence i x).lines = s.lines := rfl
@[simp] theorem State.setFence_ctrs (s : State) (i : Nat) (x : Option Fence) : (s.setFence i x).ctrs = s.ctrs := rfl
@[simp] theorem State.setFence_cases (s : State) (i : Nat) (x : Option Fence) : (s.setFence i x).cases = s.cases := rfl
@[simp] theorem State.setFence_flushing (s : State) (i : Nat) (x : Option Fence) : (s.setFence i x).flushing = s.flushing := rfl
@[simp] theorem State.setFence_kids (s : State) (i : Nat) (x : Option Fence) : (s.setFence i x).kids = s.kids := rfl
@[simp] theorem State.setFence_retiring (s : State) (i : Nat) (x : Option Fence) : (s.setFence i x).retiring = s.retiring := rfl
@[simp] theorem State.setFence_reads (s : State) (i : Nat) (x : Option Fence) : (s.setFence i x).reads = s.reads := rfl
@[simp] theorem State.setFence_shown (s : State) (i : Nat) (x : Option Fence) : (s.setFence i x).shown = s.shown := rfl
@[simp] theorem State.setFence_epochs (s : State) (i : Nat) (x : Option Fence) : (s.setFence i x).epochs = s.epochs := rfl
@[simp] theorem State.setFence_halt (s : State) (i : Nat) (x : Option Fence) : (s.setFence i x).halt = s.halt := rfl
@[simp] theorem State.setFence_vlat (s : State) (i : Nat) (x : Option Fence) : (s.setFence i x).vlat = s.vlat := rfl
@[simp] theorem State.setFence_delivered (s : State) (i : Nat) (x : Option Fence) : (s.setFence i x).delivered = s.delivered := rfl
@[simp] theorem State.setFence_egress (s : State) (i : Nat) (x : Option Fence) : (s.setFence i x).egress = s.egress := rfl
@[simp] theorem State.setFence_regions (s : State) (i : Nat) (x : Option Fence) : (s.setFence i x).regions = s.regions := rfl
@[simp] theorem State.setFence_colls (s : State) (i : Nat) (x : Option Fence) : (s.setFence i x).colls = s.colls := rfl
@[simp] theorem State.setFence_skews (s : State) (i : Nat) (x : Option Fence) : (s.setFence i x).skews = s.skews := rfl
@[simp] theorem State.setFence_tensors (s : State) (i : Nat) (x : Option Fence) : (s.setFence i x).tensors = s.tensors := rfl
@[simp] theorem State.setFence_layers (s : State) (i : Nat) (x : Option Fence) : (s.setFence i x).layers = s.layers := rfl
@[simp] theorem State.setFence_ckpts (s : State) (i : Nat) (x : Option Fence) : (s.setFence i x).ckpts = s.ckpts := rfl
@[simp] theorem State.setFence_ckptId (s : State) (i : Nat) (x : Option Fence) : (s.setFence i x).ckptId = s.ckptId := rfl
@[simp] theorem State.setFence_ctxs (s : State) (i : Nat) (x : Option Fence) : (s.setFence i x).ctxs = s.ctxs := rfl
@[simp] theorem State.setFence_mqs (s : State) (i : Nat) (x : Option Fence) : (s.setFence i x).mqs = s.mqs := rfl
@[simp] theorem State.setFence_objs (s : State) (i : Nat) (x : Option Fence) : (s.setFence i x).objs = s.objs := rfl
@[simp] theorem State.setFence_objGen (s : State) (i : Nat) (x : Option Fence) : (s.setFence i x).objGen = s.objGen := rfl
@[simp] theorem State.setFence_inflight (s : State) (i : Nat) (x : Option Fence) : (s.setFence i x).inflight = s.inflight := rfl
@[simp] theorem State.setFence_sent (s : State) (i : Nat) (x : Option Fence) : (s.setFence i x).sent = s.sent := rfl
@[simp] theorem State.setFence_parts (s : State) (i : Nat) (x : Option Fence) : (s.setFence i x).parts = s.parts := rfl
@[simp] theorem State.setFence_bind (s : State) (i : Nat) (x : Option Fence) : (s.setFence i x).bind = s.bind := rfl
@[simp] theorem State.setFence_bindErr (s : State) (i : Nat) (x : Option Fence) : (s.setFence i x).bindErr = s.bindErr := rfl
@[simp] theorem State.setFence_bindPart (s : State) (i : Nat) (x : Option Fence) : (s.setFence i x).bindPart = s.bindPart := rfl
@[simp] theorem State.setFence_sizesGen (s : State) (i : Nat) (x : Option Fence) : (s.setFence i x).sizesGen = s.sizesGen := rfl
@[simp] theorem State.setFence_units (s : State) (i : Nat) (x : Option Fence) : (s.setFence i x).units = s.units := rfl
@[simp] theorem State.setFence_prfLast (s : State) (i : Nat) (x : Option Fence) : (s.setFence i x).prfLast = s.prfLast := rfl
@[simp] theorem State.setFence_get_cluster (s : State) (i : Nat) (x : Option Fence) (j : Nat) : (s.setFence i x).cluster j = s.cluster j := rfl
@[simp] theorem State.setFence_get_chan (s : State) (i : Nat) (x : Option Fence) (j : Nat) : (s.setFence i x).chan j = s.chan j := rfl
@[simp] theorem State.setFence_get_line (s : State) (i : Nat) (x : Option Fence) (j : Nat) : (s.setFence i x).line j = s.line j := rfl
@[simp] theorem State.setFence_get_kid (s : State) (i : Nat) (x : Option Fence) (j : Nat) : (s.setFence i x).kid j = s.kid j := rfl
@[simp] theorem State.setFence_get_ctx (s : State) (i : Nat) (x : Option Fence) (j : Nat) : (s.setFence i x).ctx j = s.ctx j := rfl
@[simp] theorem State.setFence_get_part (s : State) (i : Nat) (x : Option Fence) (j : Nat) : (s.setFence i x).part j = s.part j := rfl
@[simp] theorem State.setFence_get_mq (s : State) (i : Nat) (x : Option Fence) (j : Nat) : (s.setFence i x).mq j = s.mq j := rfl
@[simp] theorem State.setFence_get_obj (s : State) (i : Nat) (x : Option Fence) (j : Nat) : (s.setFence i x).obj j = s.obj j := rfl
@[simp] theorem State.setFence_get_unit (s : State) (i : Nat) (x : Option Fence) (j : Nat) : (s.setFence i x).unit j = s.unit j := rfl
@[simp] theorem State.setFence_get_port (s : State) (i : Nat) (x : Option Fence) (j : Nat) : (s.setFence i x).port j = s.port j := rfl
@[simp] theorem State.setFence_get_caseLine (s : State) (i : Nat) (x : Option Fence) (j : Nat) : (s.setFence i x).caseLine j = s.caseLine j := rfl
@[simp] theorem State.setFence_get_region (s : State) (i : Nat) (x : Option Fence) (j : Nat) : (s.setFence i x).region j = s.region j := rfl
@[simp] theorem State.setFence_get_tensor (s : State) (i : Nat) (x : Option Fence) (j j' : Nat) : (s.setFence i x).tensor j j' = s.tensor j j' := rfl
@[simp] theorem State.setFence_get_layer (s : State) (i : Nat) (x : Option Fence) (j j' : Nat) : (s.setFence i x).layer j j' = s.layer j j' := rfl
@[simp] theorem State.setFence_same (s : State) (i : Nat) (x : Option Fence) : (s.setFence i x).fence i = x := tget_tput_same _ _ _ _
theorem State.setFence_ne (s : State) (i : Nat) (x : Option Fence) {j : Nat} (h : j ≠ i) : (s.setFence i x).fence j = s.fence j := tget_tput_ne _ _ h _

/-! ## setTensor -/

@[simp] theorem State.setTensor_pending (s : State) (c t : Nat) (x : Option Tensor) : (s.setTensor c t x).pending = s.pending := rfl
@[simp] theorem State.setTensor_freeCtr (s : State) (c t : Nat) (x : Option Tensor) : (s.setTensor c t x).freeCtr = s.freeCtr := rfl
@[simp] theorem State.setTensor_out (s : State) (c t : Nat) (x : Option Tensor) : (s.setTensor c t x).out = s.out := rfl
@[simp] theorem State.setTensor_regs (s : State) (c t : Nat) (x : Option Tensor) : (s.setTensor c t x).regs = s.regs := rfl
@[simp] theorem State.setTensor_latch (s : State) (c t : Nat) (x : Option Tensor) : (s.setTensor c t x).latch = s.latch := rfl
@[simp] theorem State.setTensor_badacc (s : State) (c t : Nat) (x : Option Tensor) : (s.setTensor c t x).badacc = s.badacc := rfl
@[simp] theorem State.setTensor_colo (s : State) (c t : Nat) (x : Option Tensor) : (s.setTensor c t x).colo = s.colo := rfl
@[simp] theorem State.setTensor_coloGen (s : State) (c t : Nat) (x : Option Tensor) : (s.setTensor c t x).coloGen = s.coloGen := rfl
@[simp] theorem State.setTensor_msixOpen (s : State) (c t : Nat) (x : Option Tensor) : (s.setTensor c t x).msixOpen = s.msixOpen := rfl
@[simp] theorem State.setTensor_msixPend (s : State) (c t : Nat) (x : Option Tensor) : (s.setTensor c t x).msixPend = s.msixPend := rfl
@[simp] theorem State.setTensor_pwr (s : State) (c t : Nat) (x : Option Tensor) : (s.setTensor c t x).pwr = s.pwr := rfl
@[simp] theorem State.setTensor_sec (s : State) (c t : Nat) (x : Option Tensor) : (s.setTensor c t x).sec = s.sec := rfl
@[simp] theorem State.setTensor_mgt (s : State) (c t : Nat) (x : Option Tensor) : (s.setTensor c t x).mgt = s.mgt := rfl
@[simp] theorem State.setTensor_hif (s : State) (c t : Nat) (x : Option Tensor) : (s.setTensor c t x).hif = s.hif := rfl
@[simp] theorem State.setTensor_ports (s : State) (c t : Nat) (x : Option Tensor) : (s.setTensor c t x).ports = s.ports := rfl
@[simp] theorem State.setTensor_frt (s : State) (c t : Nat) (x : Option Tensor) : (s.setTensor c t x).frt = s.frt := rfl
@[simp] theorem State.setTensor_clusters (s : State) (c t : Nat) (x : Option Tensor) : (s.setTensor c t x).clusters = s.clusters := rfl
@[simp] theorem State.setTensor_dbg (s : State) (c t : Nat) (x : Option Tensor) : (s.setTensor c t x).dbg = s.dbg := rfl
@[simp] theorem State.setTensor_chans (s : State) (c t : Nat) (x : Option Tensor) : (s.setTensor c t x).chans = s.chans := rfl
@[simp] theorem State.setTensor_lines (s : State) (c t : Nat) (x : Option Tensor) : (s.setTensor c t x).lines = s.lines := rfl
@[simp] theorem State.setTensor_ctrs (s : State) (c t : Nat) (x : Option Tensor) : (s.setTensor c t x).ctrs = s.ctrs := rfl
@[simp] theorem State.setTensor_cases (s : State) (c t : Nat) (x : Option Tensor) : (s.setTensor c t x).cases = s.cases := rfl
@[simp] theorem State.setTensor_flushing (s : State) (c t : Nat) (x : Option Tensor) : (s.setTensor c t x).flushing = s.flushing := rfl
@[simp] theorem State.setTensor_kids (s : State) (c t : Nat) (x : Option Tensor) : (s.setTensor c t x).kids = s.kids := rfl
@[simp] theorem State.setTensor_retiring (s : State) (c t : Nat) (x : Option Tensor) : (s.setTensor c t x).retiring = s.retiring := rfl
@[simp] theorem State.setTensor_reads (s : State) (c t : Nat) (x : Option Tensor) : (s.setTensor c t x).reads = s.reads := rfl
@[simp] theorem State.setTensor_shown (s : State) (c t : Nat) (x : Option Tensor) : (s.setTensor c t x).shown = s.shown := rfl
@[simp] theorem State.setTensor_epochs (s : State) (c t : Nat) (x : Option Tensor) : (s.setTensor c t x).epochs = s.epochs := rfl
@[simp] theorem State.setTensor_halt (s : State) (c t : Nat) (x : Option Tensor) : (s.setTensor c t x).halt = s.halt := rfl
@[simp] theorem State.setTensor_vlat (s : State) (c t : Nat) (x : Option Tensor) : (s.setTensor c t x).vlat = s.vlat := rfl
@[simp] theorem State.setTensor_delivered (s : State) (c t : Nat) (x : Option Tensor) : (s.setTensor c t x).delivered = s.delivered := rfl
@[simp] theorem State.setTensor_egress (s : State) (c t : Nat) (x : Option Tensor) : (s.setTensor c t x).egress = s.egress := rfl
@[simp] theorem State.setTensor_regions (s : State) (c t : Nat) (x : Option Tensor) : (s.setTensor c t x).regions = s.regions := rfl
@[simp] theorem State.setTensor_colls (s : State) (c t : Nat) (x : Option Tensor) : (s.setTensor c t x).colls = s.colls := rfl
@[simp] theorem State.setTensor_skews (s : State) (c t : Nat) (x : Option Tensor) : (s.setTensor c t x).skews = s.skews := rfl
@[simp] theorem State.setTensor_layers (s : State) (c t : Nat) (x : Option Tensor) : (s.setTensor c t x).layers = s.layers := rfl
@[simp] theorem State.setTensor_ckpts (s : State) (c t : Nat) (x : Option Tensor) : (s.setTensor c t x).ckpts = s.ckpts := rfl
@[simp] theorem State.setTensor_ckptId (s : State) (c t : Nat) (x : Option Tensor) : (s.setTensor c t x).ckptId = s.ckptId := rfl
@[simp] theorem State.setTensor_ctxs (s : State) (c t : Nat) (x : Option Tensor) : (s.setTensor c t x).ctxs = s.ctxs := rfl
@[simp] theorem State.setTensor_mqs (s : State) (c t : Nat) (x : Option Tensor) : (s.setTensor c t x).mqs = s.mqs := rfl
@[simp] theorem State.setTensor_objs (s : State) (c t : Nat) (x : Option Tensor) : (s.setTensor c t x).objs = s.objs := rfl
@[simp] theorem State.setTensor_objGen (s : State) (c t : Nat) (x : Option Tensor) : (s.setTensor c t x).objGen = s.objGen := rfl
@[simp] theorem State.setTensor_fences (s : State) (c t : Nat) (x : Option Tensor) : (s.setTensor c t x).fences = s.fences := rfl
@[simp] theorem State.setTensor_inflight (s : State) (c t : Nat) (x : Option Tensor) : (s.setTensor c t x).inflight = s.inflight := rfl
@[simp] theorem State.setTensor_sent (s : State) (c t : Nat) (x : Option Tensor) : (s.setTensor c t x).sent = s.sent := rfl
@[simp] theorem State.setTensor_parts (s : State) (c t : Nat) (x : Option Tensor) : (s.setTensor c t x).parts = s.parts := rfl
@[simp] theorem State.setTensor_bind (s : State) (c t : Nat) (x : Option Tensor) : (s.setTensor c t x).bind = s.bind := rfl
@[simp] theorem State.setTensor_bindErr (s : State) (c t : Nat) (x : Option Tensor) : (s.setTensor c t x).bindErr = s.bindErr := rfl
@[simp] theorem State.setTensor_bindPart (s : State) (c t : Nat) (x : Option Tensor) : (s.setTensor c t x).bindPart = s.bindPart := rfl
@[simp] theorem State.setTensor_sizesGen (s : State) (c t : Nat) (x : Option Tensor) : (s.setTensor c t x).sizesGen = s.sizesGen := rfl
@[simp] theorem State.setTensor_units (s : State) (c t : Nat) (x : Option Tensor) : (s.setTensor c t x).units = s.units := rfl
@[simp] theorem State.setTensor_prfLast (s : State) (c t : Nat) (x : Option Tensor) : (s.setTensor c t x).prfLast = s.prfLast := rfl
@[simp] theorem State.setTensor_get_cluster (s : State) (c t : Nat) (x : Option Tensor) (j : Nat) : (s.setTensor c t x).cluster j = s.cluster j := rfl
@[simp] theorem State.setTensor_get_chan (s : State) (c t : Nat) (x : Option Tensor) (j : Nat) : (s.setTensor c t x).chan j = s.chan j := rfl
@[simp] theorem State.setTensor_get_line (s : State) (c t : Nat) (x : Option Tensor) (j : Nat) : (s.setTensor c t x).line j = s.line j := rfl
@[simp] theorem State.setTensor_get_kid (s : State) (c t : Nat) (x : Option Tensor) (j : Nat) : (s.setTensor c t x).kid j = s.kid j := rfl
@[simp] theorem State.setTensor_get_ctx (s : State) (c t : Nat) (x : Option Tensor) (j : Nat) : (s.setTensor c t x).ctx j = s.ctx j := rfl
@[simp] theorem State.setTensor_get_part (s : State) (c t : Nat) (x : Option Tensor) (j : Nat) : (s.setTensor c t x).part j = s.part j := rfl
@[simp] theorem State.setTensor_get_mq (s : State) (c t : Nat) (x : Option Tensor) (j : Nat) : (s.setTensor c t x).mq j = s.mq j := rfl
@[simp] theorem State.setTensor_get_obj (s : State) (c t : Nat) (x : Option Tensor) (j : Nat) : (s.setTensor c t x).obj j = s.obj j := rfl
@[simp] theorem State.setTensor_get_fence (s : State) (c t : Nat) (x : Option Tensor) (j : Nat) : (s.setTensor c t x).fence j = s.fence j := rfl
@[simp] theorem State.setTensor_get_unit (s : State) (c t : Nat) (x : Option Tensor) (j : Nat) : (s.setTensor c t x).unit j = s.unit j := rfl
@[simp] theorem State.setTensor_get_port (s : State) (c t : Nat) (x : Option Tensor) (j : Nat) : (s.setTensor c t x).port j = s.port j := rfl
@[simp] theorem State.setTensor_get_caseLine (s : State) (c t : Nat) (x : Option Tensor) (j : Nat) : (s.setTensor c t x).caseLine j = s.caseLine j := rfl
@[simp] theorem State.setTensor_get_region (s : State) (c t : Nat) (x : Option Tensor) (j : Nat) : (s.setTensor c t x).region j = s.region j := rfl
@[simp] theorem State.setTensor_get_layer (s : State) (c t : Nat) (x : Option Tensor) (j j' : Nat) : (s.setTensor c t x).layer j j' = s.layer j j' := rfl

/-! ## setLayer -/

@[simp] theorem State.setLayer_pending (s : State) (c l : Nat) (x : Option Layer) : (s.setLayer c l x).pending = s.pending := rfl
@[simp] theorem State.setLayer_freeCtr (s : State) (c l : Nat) (x : Option Layer) : (s.setLayer c l x).freeCtr = s.freeCtr := rfl
@[simp] theorem State.setLayer_out (s : State) (c l : Nat) (x : Option Layer) : (s.setLayer c l x).out = s.out := rfl
@[simp] theorem State.setLayer_regs (s : State) (c l : Nat) (x : Option Layer) : (s.setLayer c l x).regs = s.regs := rfl
@[simp] theorem State.setLayer_latch (s : State) (c l : Nat) (x : Option Layer) : (s.setLayer c l x).latch = s.latch := rfl
@[simp] theorem State.setLayer_badacc (s : State) (c l : Nat) (x : Option Layer) : (s.setLayer c l x).badacc = s.badacc := rfl
@[simp] theorem State.setLayer_colo (s : State) (c l : Nat) (x : Option Layer) : (s.setLayer c l x).colo = s.colo := rfl
@[simp] theorem State.setLayer_coloGen (s : State) (c l : Nat) (x : Option Layer) : (s.setLayer c l x).coloGen = s.coloGen := rfl
@[simp] theorem State.setLayer_msixOpen (s : State) (c l : Nat) (x : Option Layer) : (s.setLayer c l x).msixOpen = s.msixOpen := rfl
@[simp] theorem State.setLayer_msixPend (s : State) (c l : Nat) (x : Option Layer) : (s.setLayer c l x).msixPend = s.msixPend := rfl
@[simp] theorem State.setLayer_pwr (s : State) (c l : Nat) (x : Option Layer) : (s.setLayer c l x).pwr = s.pwr := rfl
@[simp] theorem State.setLayer_sec (s : State) (c l : Nat) (x : Option Layer) : (s.setLayer c l x).sec = s.sec := rfl
@[simp] theorem State.setLayer_mgt (s : State) (c l : Nat) (x : Option Layer) : (s.setLayer c l x).mgt = s.mgt := rfl
@[simp] theorem State.setLayer_hif (s : State) (c l : Nat) (x : Option Layer) : (s.setLayer c l x).hif = s.hif := rfl
@[simp] theorem State.setLayer_ports (s : State) (c l : Nat) (x : Option Layer) : (s.setLayer c l x).ports = s.ports := rfl
@[simp] theorem State.setLayer_frt (s : State) (c l : Nat) (x : Option Layer) : (s.setLayer c l x).frt = s.frt := rfl
@[simp] theorem State.setLayer_clusters (s : State) (c l : Nat) (x : Option Layer) : (s.setLayer c l x).clusters = s.clusters := rfl
@[simp] theorem State.setLayer_dbg (s : State) (c l : Nat) (x : Option Layer) : (s.setLayer c l x).dbg = s.dbg := rfl
@[simp] theorem State.setLayer_chans (s : State) (c l : Nat) (x : Option Layer) : (s.setLayer c l x).chans = s.chans := rfl
@[simp] theorem State.setLayer_lines (s : State) (c l : Nat) (x : Option Layer) : (s.setLayer c l x).lines = s.lines := rfl
@[simp] theorem State.setLayer_ctrs (s : State) (c l : Nat) (x : Option Layer) : (s.setLayer c l x).ctrs = s.ctrs := rfl
@[simp] theorem State.setLayer_cases (s : State) (c l : Nat) (x : Option Layer) : (s.setLayer c l x).cases = s.cases := rfl
@[simp] theorem State.setLayer_flushing (s : State) (c l : Nat) (x : Option Layer) : (s.setLayer c l x).flushing = s.flushing := rfl
@[simp] theorem State.setLayer_kids (s : State) (c l : Nat) (x : Option Layer) : (s.setLayer c l x).kids = s.kids := rfl
@[simp] theorem State.setLayer_retiring (s : State) (c l : Nat) (x : Option Layer) : (s.setLayer c l x).retiring = s.retiring := rfl
@[simp] theorem State.setLayer_reads (s : State) (c l : Nat) (x : Option Layer) : (s.setLayer c l x).reads = s.reads := rfl
@[simp] theorem State.setLayer_shown (s : State) (c l : Nat) (x : Option Layer) : (s.setLayer c l x).shown = s.shown := rfl
@[simp] theorem State.setLayer_epochs (s : State) (c l : Nat) (x : Option Layer) : (s.setLayer c l x).epochs = s.epochs := rfl
@[simp] theorem State.setLayer_halt (s : State) (c l : Nat) (x : Option Layer) : (s.setLayer c l x).halt = s.halt := rfl
@[simp] theorem State.setLayer_vlat (s : State) (c l : Nat) (x : Option Layer) : (s.setLayer c l x).vlat = s.vlat := rfl
@[simp] theorem State.setLayer_delivered (s : State) (c l : Nat) (x : Option Layer) : (s.setLayer c l x).delivered = s.delivered := rfl
@[simp] theorem State.setLayer_egress (s : State) (c l : Nat) (x : Option Layer) : (s.setLayer c l x).egress = s.egress := rfl
@[simp] theorem State.setLayer_regions (s : State) (c l : Nat) (x : Option Layer) : (s.setLayer c l x).regions = s.regions := rfl
@[simp] theorem State.setLayer_colls (s : State) (c l : Nat) (x : Option Layer) : (s.setLayer c l x).colls = s.colls := rfl
@[simp] theorem State.setLayer_skews (s : State) (c l : Nat) (x : Option Layer) : (s.setLayer c l x).skews = s.skews := rfl
@[simp] theorem State.setLayer_tensors (s : State) (c l : Nat) (x : Option Layer) : (s.setLayer c l x).tensors = s.tensors := rfl
@[simp] theorem State.setLayer_ckpts (s : State) (c l : Nat) (x : Option Layer) : (s.setLayer c l x).ckpts = s.ckpts := rfl
@[simp] theorem State.setLayer_ckptId (s : State) (c l : Nat) (x : Option Layer) : (s.setLayer c l x).ckptId = s.ckptId := rfl
@[simp] theorem State.setLayer_ctxs (s : State) (c l : Nat) (x : Option Layer) : (s.setLayer c l x).ctxs = s.ctxs := rfl
@[simp] theorem State.setLayer_mqs (s : State) (c l : Nat) (x : Option Layer) : (s.setLayer c l x).mqs = s.mqs := rfl
@[simp] theorem State.setLayer_objs (s : State) (c l : Nat) (x : Option Layer) : (s.setLayer c l x).objs = s.objs := rfl
@[simp] theorem State.setLayer_objGen (s : State) (c l : Nat) (x : Option Layer) : (s.setLayer c l x).objGen = s.objGen := rfl
@[simp] theorem State.setLayer_fences (s : State) (c l : Nat) (x : Option Layer) : (s.setLayer c l x).fences = s.fences := rfl
@[simp] theorem State.setLayer_inflight (s : State) (c l : Nat) (x : Option Layer) : (s.setLayer c l x).inflight = s.inflight := rfl
@[simp] theorem State.setLayer_sent (s : State) (c l : Nat) (x : Option Layer) : (s.setLayer c l x).sent = s.sent := rfl
@[simp] theorem State.setLayer_parts (s : State) (c l : Nat) (x : Option Layer) : (s.setLayer c l x).parts = s.parts := rfl
@[simp] theorem State.setLayer_bind (s : State) (c l : Nat) (x : Option Layer) : (s.setLayer c l x).bind = s.bind := rfl
@[simp] theorem State.setLayer_bindErr (s : State) (c l : Nat) (x : Option Layer) : (s.setLayer c l x).bindErr = s.bindErr := rfl
@[simp] theorem State.setLayer_bindPart (s : State) (c l : Nat) (x : Option Layer) : (s.setLayer c l x).bindPart = s.bindPart := rfl
@[simp] theorem State.setLayer_sizesGen (s : State) (c l : Nat) (x : Option Layer) : (s.setLayer c l x).sizesGen = s.sizesGen := rfl
@[simp] theorem State.setLayer_units (s : State) (c l : Nat) (x : Option Layer) : (s.setLayer c l x).units = s.units := rfl
@[simp] theorem State.setLayer_prfLast (s : State) (c l : Nat) (x : Option Layer) : (s.setLayer c l x).prfLast = s.prfLast := rfl
@[simp] theorem State.setLayer_get_cluster (s : State) (c l : Nat) (x : Option Layer) (j : Nat) : (s.setLayer c l x).cluster j = s.cluster j := rfl
@[simp] theorem State.setLayer_get_chan (s : State) (c l : Nat) (x : Option Layer) (j : Nat) : (s.setLayer c l x).chan j = s.chan j := rfl
@[simp] theorem State.setLayer_get_line (s : State) (c l : Nat) (x : Option Layer) (j : Nat) : (s.setLayer c l x).line j = s.line j := rfl
@[simp] theorem State.setLayer_get_kid (s : State) (c l : Nat) (x : Option Layer) (j : Nat) : (s.setLayer c l x).kid j = s.kid j := rfl
@[simp] theorem State.setLayer_get_ctx (s : State) (c l : Nat) (x : Option Layer) (j : Nat) : (s.setLayer c l x).ctx j = s.ctx j := rfl
@[simp] theorem State.setLayer_get_part (s : State) (c l : Nat) (x : Option Layer) (j : Nat) : (s.setLayer c l x).part j = s.part j := rfl
@[simp] theorem State.setLayer_get_mq (s : State) (c l : Nat) (x : Option Layer) (j : Nat) : (s.setLayer c l x).mq j = s.mq j := rfl
@[simp] theorem State.setLayer_get_obj (s : State) (c l : Nat) (x : Option Layer) (j : Nat) : (s.setLayer c l x).obj j = s.obj j := rfl
@[simp] theorem State.setLayer_get_fence (s : State) (c l : Nat) (x : Option Layer) (j : Nat) : (s.setLayer c l x).fence j = s.fence j := rfl
@[simp] theorem State.setLayer_get_unit (s : State) (c l : Nat) (x : Option Layer) (j : Nat) : (s.setLayer c l x).unit j = s.unit j := rfl
@[simp] theorem State.setLayer_get_port (s : State) (c l : Nat) (x : Option Layer) (j : Nat) : (s.setLayer c l x).port j = s.port j := rfl
@[simp] theorem State.setLayer_get_caseLine (s : State) (c l : Nat) (x : Option Layer) (j : Nat) : (s.setLayer c l x).caseLine j = s.caseLine j := rfl
@[simp] theorem State.setLayer_get_region (s : State) (c l : Nat) (x : Option Layer) (j : Nat) : (s.setLayer c l x).region j = s.region j := rfl
@[simp] theorem State.setLayer_get_tensor (s : State) (c l : Nat) (x : Option Layer) (j j' : Nat) : (s.setLayer c l x).tensor j j' = s.tensor j j' := rfl

/-! ## setUnit -/

@[simp] theorem State.setUnit_pending (s : State) (q : Nat) (x : ProofUnit) : (s.setUnit q x).pending = s.pending := rfl
@[simp] theorem State.setUnit_freeCtr (s : State) (q : Nat) (x : ProofUnit) : (s.setUnit q x).freeCtr = s.freeCtr := rfl
@[simp] theorem State.setUnit_out (s : State) (q : Nat) (x : ProofUnit) : (s.setUnit q x).out = s.out := rfl
@[simp] theorem State.setUnit_regs (s : State) (q : Nat) (x : ProofUnit) : (s.setUnit q x).regs = s.regs := rfl
@[simp] theorem State.setUnit_latch (s : State) (q : Nat) (x : ProofUnit) : (s.setUnit q x).latch = s.latch := rfl
@[simp] theorem State.setUnit_badacc (s : State) (q : Nat) (x : ProofUnit) : (s.setUnit q x).badacc = s.badacc := rfl
@[simp] theorem State.setUnit_colo (s : State) (q : Nat) (x : ProofUnit) : (s.setUnit q x).colo = s.colo := rfl
@[simp] theorem State.setUnit_coloGen (s : State) (q : Nat) (x : ProofUnit) : (s.setUnit q x).coloGen = s.coloGen := rfl
@[simp] theorem State.setUnit_msixOpen (s : State) (q : Nat) (x : ProofUnit) : (s.setUnit q x).msixOpen = s.msixOpen := rfl
@[simp] theorem State.setUnit_msixPend (s : State) (q : Nat) (x : ProofUnit) : (s.setUnit q x).msixPend = s.msixPend := rfl
@[simp] theorem State.setUnit_pwr (s : State) (q : Nat) (x : ProofUnit) : (s.setUnit q x).pwr = s.pwr := rfl
@[simp] theorem State.setUnit_sec (s : State) (q : Nat) (x : ProofUnit) : (s.setUnit q x).sec = s.sec := rfl
@[simp] theorem State.setUnit_mgt (s : State) (q : Nat) (x : ProofUnit) : (s.setUnit q x).mgt = s.mgt := rfl
@[simp] theorem State.setUnit_hif (s : State) (q : Nat) (x : ProofUnit) : (s.setUnit q x).hif = s.hif := rfl
@[simp] theorem State.setUnit_ports (s : State) (q : Nat) (x : ProofUnit) : (s.setUnit q x).ports = s.ports := rfl
@[simp] theorem State.setUnit_frt (s : State) (q : Nat) (x : ProofUnit) : (s.setUnit q x).frt = s.frt := rfl
@[simp] theorem State.setUnit_clusters (s : State) (q : Nat) (x : ProofUnit) : (s.setUnit q x).clusters = s.clusters := rfl
@[simp] theorem State.setUnit_dbg (s : State) (q : Nat) (x : ProofUnit) : (s.setUnit q x).dbg = s.dbg := rfl
@[simp] theorem State.setUnit_chans (s : State) (q : Nat) (x : ProofUnit) : (s.setUnit q x).chans = s.chans := rfl
@[simp] theorem State.setUnit_lines (s : State) (q : Nat) (x : ProofUnit) : (s.setUnit q x).lines = s.lines := rfl
@[simp] theorem State.setUnit_ctrs (s : State) (q : Nat) (x : ProofUnit) : (s.setUnit q x).ctrs = s.ctrs := rfl
@[simp] theorem State.setUnit_cases (s : State) (q : Nat) (x : ProofUnit) : (s.setUnit q x).cases = s.cases := rfl
@[simp] theorem State.setUnit_flushing (s : State) (q : Nat) (x : ProofUnit) : (s.setUnit q x).flushing = s.flushing := rfl
@[simp] theorem State.setUnit_kids (s : State) (q : Nat) (x : ProofUnit) : (s.setUnit q x).kids = s.kids := rfl
@[simp] theorem State.setUnit_retiring (s : State) (q : Nat) (x : ProofUnit) : (s.setUnit q x).retiring = s.retiring := rfl
@[simp] theorem State.setUnit_reads (s : State) (q : Nat) (x : ProofUnit) : (s.setUnit q x).reads = s.reads := rfl
@[simp] theorem State.setUnit_shown (s : State) (q : Nat) (x : ProofUnit) : (s.setUnit q x).shown = s.shown := rfl
@[simp] theorem State.setUnit_epochs (s : State) (q : Nat) (x : ProofUnit) : (s.setUnit q x).epochs = s.epochs := rfl
@[simp] theorem State.setUnit_halt (s : State) (q : Nat) (x : ProofUnit) : (s.setUnit q x).halt = s.halt := rfl
@[simp] theorem State.setUnit_vlat (s : State) (q : Nat) (x : ProofUnit) : (s.setUnit q x).vlat = s.vlat := rfl
@[simp] theorem State.setUnit_delivered (s : State) (q : Nat) (x : ProofUnit) : (s.setUnit q x).delivered = s.delivered := rfl
@[simp] theorem State.setUnit_egress (s : State) (q : Nat) (x : ProofUnit) : (s.setUnit q x).egress = s.egress := rfl
@[simp] theorem State.setUnit_regions (s : State) (q : Nat) (x : ProofUnit) : (s.setUnit q x).regions = s.regions := rfl
@[simp] theorem State.setUnit_colls (s : State) (q : Nat) (x : ProofUnit) : (s.setUnit q x).colls = s.colls := rfl
@[simp] theorem State.setUnit_skews (s : State) (q : Nat) (x : ProofUnit) : (s.setUnit q x).skews = s.skews := rfl
@[simp] theorem State.setUnit_tensors (s : State) (q : Nat) (x : ProofUnit) : (s.setUnit q x).tensors = s.tensors := rfl
@[simp] theorem State.setUnit_layers (s : State) (q : Nat) (x : ProofUnit) : (s.setUnit q x).layers = s.layers := rfl
@[simp] theorem State.setUnit_ckpts (s : State) (q : Nat) (x : ProofUnit) : (s.setUnit q x).ckpts = s.ckpts := rfl
@[simp] theorem State.setUnit_ckptId (s : State) (q : Nat) (x : ProofUnit) : (s.setUnit q x).ckptId = s.ckptId := rfl
@[simp] theorem State.setUnit_ctxs (s : State) (q : Nat) (x : ProofUnit) : (s.setUnit q x).ctxs = s.ctxs := rfl
@[simp] theorem State.setUnit_mqs (s : State) (q : Nat) (x : ProofUnit) : (s.setUnit q x).mqs = s.mqs := rfl
@[simp] theorem State.setUnit_objs (s : State) (q : Nat) (x : ProofUnit) : (s.setUnit q x).objs = s.objs := rfl
@[simp] theorem State.setUnit_objGen (s : State) (q : Nat) (x : ProofUnit) : (s.setUnit q x).objGen = s.objGen := rfl
@[simp] theorem State.setUnit_fences (s : State) (q : Nat) (x : ProofUnit) : (s.setUnit q x).fences = s.fences := rfl
@[simp] theorem State.setUnit_inflight (s : State) (q : Nat) (x : ProofUnit) : (s.setUnit q x).inflight = s.inflight := rfl
@[simp] theorem State.setUnit_sent (s : State) (q : Nat) (x : ProofUnit) : (s.setUnit q x).sent = s.sent := rfl
@[simp] theorem State.setUnit_parts (s : State) (q : Nat) (x : ProofUnit) : (s.setUnit q x).parts = s.parts := rfl
@[simp] theorem State.setUnit_bind (s : State) (q : Nat) (x : ProofUnit) : (s.setUnit q x).bind = s.bind := rfl
@[simp] theorem State.setUnit_bindErr (s : State) (q : Nat) (x : ProofUnit) : (s.setUnit q x).bindErr = s.bindErr := rfl
@[simp] theorem State.setUnit_bindPart (s : State) (q : Nat) (x : ProofUnit) : (s.setUnit q x).bindPart = s.bindPart := rfl
@[simp] theorem State.setUnit_sizesGen (s : State) (q : Nat) (x : ProofUnit) : (s.setUnit q x).sizesGen = s.sizesGen := rfl
@[simp] theorem State.setUnit_prfLast (s : State) (q : Nat) (x : ProofUnit) : (s.setUnit q x).prfLast = s.prfLast := rfl
@[simp] theorem State.setUnit_get_cluster (s : State) (q : Nat) (x : ProofUnit) (j : Nat) : (s.setUnit q x).cluster j = s.cluster j := rfl
@[simp] theorem State.setUnit_get_chan (s : State) (q : Nat) (x : ProofUnit) (j : Nat) : (s.setUnit q x).chan j = s.chan j := rfl
@[simp] theorem State.setUnit_get_line (s : State) (q : Nat) (x : ProofUnit) (j : Nat) : (s.setUnit q x).line j = s.line j := rfl
@[simp] theorem State.setUnit_get_kid (s : State) (q : Nat) (x : ProofUnit) (j : Nat) : (s.setUnit q x).kid j = s.kid j := rfl
@[simp] theorem State.setUnit_get_ctx (s : State) (q : Nat) (x : ProofUnit) (j : Nat) : (s.setUnit q x).ctx j = s.ctx j := rfl
@[simp] theorem State.setUnit_get_part (s : State) (q : Nat) (x : ProofUnit) (j : Nat) : (s.setUnit q x).part j = s.part j := rfl
@[simp] theorem State.setUnit_get_mq (s : State) (q : Nat) (x : ProofUnit) (j : Nat) : (s.setUnit q x).mq j = s.mq j := rfl
@[simp] theorem State.setUnit_get_obj (s : State) (q : Nat) (x : ProofUnit) (j : Nat) : (s.setUnit q x).obj j = s.obj j := rfl
@[simp] theorem State.setUnit_get_fence (s : State) (q : Nat) (x : ProofUnit) (j : Nat) : (s.setUnit q x).fence j = s.fence j := rfl
@[simp] theorem State.setUnit_get_port (s : State) (q : Nat) (x : ProofUnit) (j : Nat) : (s.setUnit q x).port j = s.port j := rfl
@[simp] theorem State.setUnit_get_caseLine (s : State) (q : Nat) (x : ProofUnit) (j : Nat) : (s.setUnit q x).caseLine j = s.caseLine j := rfl
@[simp] theorem State.setUnit_get_region (s : State) (q : Nat) (x : ProofUnit) (j : Nat) : (s.setUnit q x).region j = s.region j := rfl
@[simp] theorem State.setUnit_get_tensor (s : State) (q : Nat) (x : ProofUnit) (j j' : Nat) : (s.setUnit q x).tensor j j' = s.tensor j j' := rfl
@[simp] theorem State.setUnit_get_layer (s : State) (q : Nat) (x : ProofUnit) (j j' : Nat) : (s.setUnit q x).layer j j' = s.layer j j' := rfl
@[simp] theorem State.setUnit_same (s : State) (q : Nat) (x : ProofUnit) : (s.setUnit q x).unit q = x := tget_tput_same _ _ _ _
theorem State.setUnit_ne (s : State) (q : Nat) (x : ProofUnit) {j : Nat} (h : j ≠ q) : (s.setUnit q x).unit j = s.unit j := tget_tput_ne _ _ h _

/-! ## setPort -/

@[simp] theorem State.setPort_pending (s : State) (p : Nat) (x : Port) : (s.setPort p x).pending = s.pending := rfl
@[simp] theorem State.setPort_freeCtr (s : State) (p : Nat) (x : Port) : (s.setPort p x).freeCtr = s.freeCtr := rfl
@[simp] theorem State.setPort_out (s : State) (p : Nat) (x : Port) : (s.setPort p x).out = s.out := rfl
@[simp] theorem State.setPort_regs (s : State) (p : Nat) (x : Port) : (s.setPort p x).regs = s.regs := rfl
@[simp] theorem State.setPort_latch (s : State) (p : Nat) (x : Port) : (s.setPort p x).latch = s.latch := rfl
@[simp] theorem State.setPort_badacc (s : State) (p : Nat) (x : Port) : (s.setPort p x).badacc = s.badacc := rfl
@[simp] theorem State.setPort_colo (s : State) (p : Nat) (x : Port) : (s.setPort p x).colo = s.colo := rfl
@[simp] theorem State.setPort_coloGen (s : State) (p : Nat) (x : Port) : (s.setPort p x).coloGen = s.coloGen := rfl
@[simp] theorem State.setPort_msixOpen (s : State) (p : Nat) (x : Port) : (s.setPort p x).msixOpen = s.msixOpen := rfl
@[simp] theorem State.setPort_msixPend (s : State) (p : Nat) (x : Port) : (s.setPort p x).msixPend = s.msixPend := rfl
@[simp] theorem State.setPort_pwr (s : State) (p : Nat) (x : Port) : (s.setPort p x).pwr = s.pwr := rfl
@[simp] theorem State.setPort_sec (s : State) (p : Nat) (x : Port) : (s.setPort p x).sec = s.sec := rfl
@[simp] theorem State.setPort_mgt (s : State) (p : Nat) (x : Port) : (s.setPort p x).mgt = s.mgt := rfl
@[simp] theorem State.setPort_hif (s : State) (p : Nat) (x : Port) : (s.setPort p x).hif = s.hif := rfl
@[simp] theorem State.setPort_frt (s : State) (p : Nat) (x : Port) : (s.setPort p x).frt = s.frt := rfl
@[simp] theorem State.setPort_clusters (s : State) (p : Nat) (x : Port) : (s.setPort p x).clusters = s.clusters := rfl
@[simp] theorem State.setPort_dbg (s : State) (p : Nat) (x : Port) : (s.setPort p x).dbg = s.dbg := rfl
@[simp] theorem State.setPort_chans (s : State) (p : Nat) (x : Port) : (s.setPort p x).chans = s.chans := rfl
@[simp] theorem State.setPort_lines (s : State) (p : Nat) (x : Port) : (s.setPort p x).lines = s.lines := rfl
@[simp] theorem State.setPort_ctrs (s : State) (p : Nat) (x : Port) : (s.setPort p x).ctrs = s.ctrs := rfl
@[simp] theorem State.setPort_cases (s : State) (p : Nat) (x : Port) : (s.setPort p x).cases = s.cases := rfl
@[simp] theorem State.setPort_flushing (s : State) (p : Nat) (x : Port) : (s.setPort p x).flushing = s.flushing := rfl
@[simp] theorem State.setPort_kids (s : State) (p : Nat) (x : Port) : (s.setPort p x).kids = s.kids := rfl
@[simp] theorem State.setPort_retiring (s : State) (p : Nat) (x : Port) : (s.setPort p x).retiring = s.retiring := rfl
@[simp] theorem State.setPort_reads (s : State) (p : Nat) (x : Port) : (s.setPort p x).reads = s.reads := rfl
@[simp] theorem State.setPort_shown (s : State) (p : Nat) (x : Port) : (s.setPort p x).shown = s.shown := rfl
@[simp] theorem State.setPort_epochs (s : State) (p : Nat) (x : Port) : (s.setPort p x).epochs = s.epochs := rfl
@[simp] theorem State.setPort_halt (s : State) (p : Nat) (x : Port) : (s.setPort p x).halt = s.halt := rfl
@[simp] theorem State.setPort_vlat (s : State) (p : Nat) (x : Port) : (s.setPort p x).vlat = s.vlat := rfl
@[simp] theorem State.setPort_delivered (s : State) (p : Nat) (x : Port) : (s.setPort p x).delivered = s.delivered := rfl
@[simp] theorem State.setPort_egress (s : State) (p : Nat) (x : Port) : (s.setPort p x).egress = s.egress := rfl
@[simp] theorem State.setPort_regions (s : State) (p : Nat) (x : Port) : (s.setPort p x).regions = s.regions := rfl
@[simp] theorem State.setPort_colls (s : State) (p : Nat) (x : Port) : (s.setPort p x).colls = s.colls := rfl
@[simp] theorem State.setPort_skews (s : State) (p : Nat) (x : Port) : (s.setPort p x).skews = s.skews := rfl
@[simp] theorem State.setPort_tensors (s : State) (p : Nat) (x : Port) : (s.setPort p x).tensors = s.tensors := rfl
@[simp] theorem State.setPort_layers (s : State) (p : Nat) (x : Port) : (s.setPort p x).layers = s.layers := rfl
@[simp] theorem State.setPort_ckpts (s : State) (p : Nat) (x : Port) : (s.setPort p x).ckpts = s.ckpts := rfl
@[simp] theorem State.setPort_ckptId (s : State) (p : Nat) (x : Port) : (s.setPort p x).ckptId = s.ckptId := rfl
@[simp] theorem State.setPort_ctxs (s : State) (p : Nat) (x : Port) : (s.setPort p x).ctxs = s.ctxs := rfl
@[simp] theorem State.setPort_mqs (s : State) (p : Nat) (x : Port) : (s.setPort p x).mqs = s.mqs := rfl
@[simp] theorem State.setPort_objs (s : State) (p : Nat) (x : Port) : (s.setPort p x).objs = s.objs := rfl
@[simp] theorem State.setPort_objGen (s : State) (p : Nat) (x : Port) : (s.setPort p x).objGen = s.objGen := rfl
@[simp] theorem State.setPort_fences (s : State) (p : Nat) (x : Port) : (s.setPort p x).fences = s.fences := rfl
@[simp] theorem State.setPort_inflight (s : State) (p : Nat) (x : Port) : (s.setPort p x).inflight = s.inflight := rfl
@[simp] theorem State.setPort_sent (s : State) (p : Nat) (x : Port) : (s.setPort p x).sent = s.sent := rfl
@[simp] theorem State.setPort_parts (s : State) (p : Nat) (x : Port) : (s.setPort p x).parts = s.parts := rfl
@[simp] theorem State.setPort_bind (s : State) (p : Nat) (x : Port) : (s.setPort p x).bind = s.bind := rfl
@[simp] theorem State.setPort_bindErr (s : State) (p : Nat) (x : Port) : (s.setPort p x).bindErr = s.bindErr := rfl
@[simp] theorem State.setPort_bindPart (s : State) (p : Nat) (x : Port) : (s.setPort p x).bindPart = s.bindPart := rfl
@[simp] theorem State.setPort_sizesGen (s : State) (p : Nat) (x : Port) : (s.setPort p x).sizesGen = s.sizesGen := rfl
@[simp] theorem State.setPort_units (s : State) (p : Nat) (x : Port) : (s.setPort p x).units = s.units := rfl
@[simp] theorem State.setPort_prfLast (s : State) (p : Nat) (x : Port) : (s.setPort p x).prfLast = s.prfLast := rfl
@[simp] theorem State.setPort_get_cluster (s : State) (p : Nat) (x : Port) (j : Nat) : (s.setPort p x).cluster j = s.cluster j := rfl
@[simp] theorem State.setPort_get_chan (s : State) (p : Nat) (x : Port) (j : Nat) : (s.setPort p x).chan j = s.chan j := rfl
@[simp] theorem State.setPort_get_line (s : State) (p : Nat) (x : Port) (j : Nat) : (s.setPort p x).line j = s.line j := rfl
@[simp] theorem State.setPort_get_kid (s : State) (p : Nat) (x : Port) (j : Nat) : (s.setPort p x).kid j = s.kid j := rfl
@[simp] theorem State.setPort_get_ctx (s : State) (p : Nat) (x : Port) (j : Nat) : (s.setPort p x).ctx j = s.ctx j := rfl
@[simp] theorem State.setPort_get_part (s : State) (p : Nat) (x : Port) (j : Nat) : (s.setPort p x).part j = s.part j := rfl
@[simp] theorem State.setPort_get_mq (s : State) (p : Nat) (x : Port) (j : Nat) : (s.setPort p x).mq j = s.mq j := rfl
@[simp] theorem State.setPort_get_obj (s : State) (p : Nat) (x : Port) (j : Nat) : (s.setPort p x).obj j = s.obj j := rfl
@[simp] theorem State.setPort_get_fence (s : State) (p : Nat) (x : Port) (j : Nat) : (s.setPort p x).fence j = s.fence j := rfl
@[simp] theorem State.setPort_get_unit (s : State) (p : Nat) (x : Port) (j : Nat) : (s.setPort p x).unit j = s.unit j := rfl
@[simp] theorem State.setPort_get_caseLine (s : State) (p : Nat) (x : Port) (j : Nat) : (s.setPort p x).caseLine j = s.caseLine j := rfl
@[simp] theorem State.setPort_get_region (s : State) (p : Nat) (x : Port) (j : Nat) : (s.setPort p x).region j = s.region j := rfl
@[simp] theorem State.setPort_get_tensor (s : State) (p : Nat) (x : Port) (j j' : Nat) : (s.setPort p x).tensor j j' = s.tensor j j' := rfl
@[simp] theorem State.setPort_get_layer (s : State) (p : Nat) (x : Port) (j j' : Nat) : (s.setPort p x).layer j j' = s.layer j j' := rfl
@[simp] theorem State.setPort_same (s : State) (p : Nat) (x : Port) : (s.setPort p x).port p = x := tget_tput_same _ _ _ _
theorem State.setPort_ne (s : State) (p : Nat) (x : Port) {j : Nat} (h : j ≠ p) : (s.setPort p x).port j = s.port j := tget_tput_ne _ _ h _

/-! ## setCaseLine -/

@[simp] theorem State.setCaseLine_pending (s : State) (k : Nat) (x : Option CaseLine) : (s.setCaseLine k x).pending = s.pending := rfl
@[simp] theorem State.setCaseLine_freeCtr (s : State) (k : Nat) (x : Option CaseLine) : (s.setCaseLine k x).freeCtr = s.freeCtr := rfl
@[simp] theorem State.setCaseLine_out (s : State) (k : Nat) (x : Option CaseLine) : (s.setCaseLine k x).out = s.out := rfl
@[simp] theorem State.setCaseLine_regs (s : State) (k : Nat) (x : Option CaseLine) : (s.setCaseLine k x).regs = s.regs := rfl
@[simp] theorem State.setCaseLine_latch (s : State) (k : Nat) (x : Option CaseLine) : (s.setCaseLine k x).latch = s.latch := rfl
@[simp] theorem State.setCaseLine_badacc (s : State) (k : Nat) (x : Option CaseLine) : (s.setCaseLine k x).badacc = s.badacc := rfl
@[simp] theorem State.setCaseLine_colo (s : State) (k : Nat) (x : Option CaseLine) : (s.setCaseLine k x).colo = s.colo := rfl
@[simp] theorem State.setCaseLine_coloGen (s : State) (k : Nat) (x : Option CaseLine) : (s.setCaseLine k x).coloGen = s.coloGen := rfl
@[simp] theorem State.setCaseLine_msixOpen (s : State) (k : Nat) (x : Option CaseLine) : (s.setCaseLine k x).msixOpen = s.msixOpen := rfl
@[simp] theorem State.setCaseLine_msixPend (s : State) (k : Nat) (x : Option CaseLine) : (s.setCaseLine k x).msixPend = s.msixPend := rfl
@[simp] theorem State.setCaseLine_pwr (s : State) (k : Nat) (x : Option CaseLine) : (s.setCaseLine k x).pwr = s.pwr := rfl
@[simp] theorem State.setCaseLine_sec (s : State) (k : Nat) (x : Option CaseLine) : (s.setCaseLine k x).sec = s.sec := rfl
@[simp] theorem State.setCaseLine_mgt (s : State) (k : Nat) (x : Option CaseLine) : (s.setCaseLine k x).mgt = s.mgt := rfl
@[simp] theorem State.setCaseLine_hif (s : State) (k : Nat) (x : Option CaseLine) : (s.setCaseLine k x).hif = s.hif := rfl
@[simp] theorem State.setCaseLine_ports (s : State) (k : Nat) (x : Option CaseLine) : (s.setCaseLine k x).ports = s.ports := rfl
@[simp] theorem State.setCaseLine_frt (s : State) (k : Nat) (x : Option CaseLine) : (s.setCaseLine k x).frt = s.frt := rfl
@[simp] theorem State.setCaseLine_clusters (s : State) (k : Nat) (x : Option CaseLine) : (s.setCaseLine k x).clusters = s.clusters := rfl
@[simp] theorem State.setCaseLine_dbg (s : State) (k : Nat) (x : Option CaseLine) : (s.setCaseLine k x).dbg = s.dbg := rfl
@[simp] theorem State.setCaseLine_chans (s : State) (k : Nat) (x : Option CaseLine) : (s.setCaseLine k x).chans = s.chans := rfl
@[simp] theorem State.setCaseLine_lines (s : State) (k : Nat) (x : Option CaseLine) : (s.setCaseLine k x).lines = s.lines := rfl
@[simp] theorem State.setCaseLine_ctrs (s : State) (k : Nat) (x : Option CaseLine) : (s.setCaseLine k x).ctrs = s.ctrs := rfl
@[simp] theorem State.setCaseLine_flushing (s : State) (k : Nat) (x : Option CaseLine) : (s.setCaseLine k x).flushing = s.flushing := rfl
@[simp] theorem State.setCaseLine_kids (s : State) (k : Nat) (x : Option CaseLine) : (s.setCaseLine k x).kids = s.kids := rfl
@[simp] theorem State.setCaseLine_retiring (s : State) (k : Nat) (x : Option CaseLine) : (s.setCaseLine k x).retiring = s.retiring := rfl
@[simp] theorem State.setCaseLine_reads (s : State) (k : Nat) (x : Option CaseLine) : (s.setCaseLine k x).reads = s.reads := rfl
@[simp] theorem State.setCaseLine_shown (s : State) (k : Nat) (x : Option CaseLine) : (s.setCaseLine k x).shown = s.shown := rfl
@[simp] theorem State.setCaseLine_epochs (s : State) (k : Nat) (x : Option CaseLine) : (s.setCaseLine k x).epochs = s.epochs := rfl
@[simp] theorem State.setCaseLine_halt (s : State) (k : Nat) (x : Option CaseLine) : (s.setCaseLine k x).halt = s.halt := rfl
@[simp] theorem State.setCaseLine_vlat (s : State) (k : Nat) (x : Option CaseLine) : (s.setCaseLine k x).vlat = s.vlat := rfl
@[simp] theorem State.setCaseLine_delivered (s : State) (k : Nat) (x : Option CaseLine) : (s.setCaseLine k x).delivered = s.delivered := rfl
@[simp] theorem State.setCaseLine_egress (s : State) (k : Nat) (x : Option CaseLine) : (s.setCaseLine k x).egress = s.egress := rfl
@[simp] theorem State.setCaseLine_regions (s : State) (k : Nat) (x : Option CaseLine) : (s.setCaseLine k x).regions = s.regions := rfl
@[simp] theorem State.setCaseLine_colls (s : State) (k : Nat) (x : Option CaseLine) : (s.setCaseLine k x).colls = s.colls := rfl
@[simp] theorem State.setCaseLine_skews (s : State) (k : Nat) (x : Option CaseLine) : (s.setCaseLine k x).skews = s.skews := rfl
@[simp] theorem State.setCaseLine_tensors (s : State) (k : Nat) (x : Option CaseLine) : (s.setCaseLine k x).tensors = s.tensors := rfl
@[simp] theorem State.setCaseLine_layers (s : State) (k : Nat) (x : Option CaseLine) : (s.setCaseLine k x).layers = s.layers := rfl
@[simp] theorem State.setCaseLine_ckpts (s : State) (k : Nat) (x : Option CaseLine) : (s.setCaseLine k x).ckpts = s.ckpts := rfl
@[simp] theorem State.setCaseLine_ckptId (s : State) (k : Nat) (x : Option CaseLine) : (s.setCaseLine k x).ckptId = s.ckptId := rfl
@[simp] theorem State.setCaseLine_ctxs (s : State) (k : Nat) (x : Option CaseLine) : (s.setCaseLine k x).ctxs = s.ctxs := rfl
@[simp] theorem State.setCaseLine_mqs (s : State) (k : Nat) (x : Option CaseLine) : (s.setCaseLine k x).mqs = s.mqs := rfl
@[simp] theorem State.setCaseLine_objs (s : State) (k : Nat) (x : Option CaseLine) : (s.setCaseLine k x).objs = s.objs := rfl
@[simp] theorem State.setCaseLine_objGen (s : State) (k : Nat) (x : Option CaseLine) : (s.setCaseLine k x).objGen = s.objGen := rfl
@[simp] theorem State.setCaseLine_fences (s : State) (k : Nat) (x : Option CaseLine) : (s.setCaseLine k x).fences = s.fences := rfl
@[simp] theorem State.setCaseLine_inflight (s : State) (k : Nat) (x : Option CaseLine) : (s.setCaseLine k x).inflight = s.inflight := rfl
@[simp] theorem State.setCaseLine_sent (s : State) (k : Nat) (x : Option CaseLine) : (s.setCaseLine k x).sent = s.sent := rfl
@[simp] theorem State.setCaseLine_parts (s : State) (k : Nat) (x : Option CaseLine) : (s.setCaseLine k x).parts = s.parts := rfl
@[simp] theorem State.setCaseLine_bind (s : State) (k : Nat) (x : Option CaseLine) : (s.setCaseLine k x).bind = s.bind := rfl
@[simp] theorem State.setCaseLine_bindErr (s : State) (k : Nat) (x : Option CaseLine) : (s.setCaseLine k x).bindErr = s.bindErr := rfl
@[simp] theorem State.setCaseLine_bindPart (s : State) (k : Nat) (x : Option CaseLine) : (s.setCaseLine k x).bindPart = s.bindPart := rfl
@[simp] theorem State.setCaseLine_sizesGen (s : State) (k : Nat) (x : Option CaseLine) : (s.setCaseLine k x).sizesGen = s.sizesGen := rfl
@[simp] theorem State.setCaseLine_units (s : State) (k : Nat) (x : Option CaseLine) : (s.setCaseLine k x).units = s.units := rfl
@[simp] theorem State.setCaseLine_prfLast (s : State) (k : Nat) (x : Option CaseLine) : (s.setCaseLine k x).prfLast = s.prfLast := rfl
@[simp] theorem State.setCaseLine_get_cluster (s : State) (k : Nat) (x : Option CaseLine) (j : Nat) : (s.setCaseLine k x).cluster j = s.cluster j := rfl
@[simp] theorem State.setCaseLine_get_chan (s : State) (k : Nat) (x : Option CaseLine) (j : Nat) : (s.setCaseLine k x).chan j = s.chan j := rfl
@[simp] theorem State.setCaseLine_get_line (s : State) (k : Nat) (x : Option CaseLine) (j : Nat) : (s.setCaseLine k x).line j = s.line j := rfl
@[simp] theorem State.setCaseLine_get_kid (s : State) (k : Nat) (x : Option CaseLine) (j : Nat) : (s.setCaseLine k x).kid j = s.kid j := rfl
@[simp] theorem State.setCaseLine_get_ctx (s : State) (k : Nat) (x : Option CaseLine) (j : Nat) : (s.setCaseLine k x).ctx j = s.ctx j := rfl
@[simp] theorem State.setCaseLine_get_part (s : State) (k : Nat) (x : Option CaseLine) (j : Nat) : (s.setCaseLine k x).part j = s.part j := rfl
@[simp] theorem State.setCaseLine_get_mq (s : State) (k : Nat) (x : Option CaseLine) (j : Nat) : (s.setCaseLine k x).mq j = s.mq j := rfl
@[simp] theorem State.setCaseLine_get_obj (s : State) (k : Nat) (x : Option CaseLine) (j : Nat) : (s.setCaseLine k x).obj j = s.obj j := rfl
@[simp] theorem State.setCaseLine_get_fence (s : State) (k : Nat) (x : Option CaseLine) (j : Nat) : (s.setCaseLine k x).fence j = s.fence j := rfl
@[simp] theorem State.setCaseLine_get_unit (s : State) (k : Nat) (x : Option CaseLine) (j : Nat) : (s.setCaseLine k x).unit j = s.unit j := rfl
@[simp] theorem State.setCaseLine_get_port (s : State) (k : Nat) (x : Option CaseLine) (j : Nat) : (s.setCaseLine k x).port j = s.port j := rfl
@[simp] theorem State.setCaseLine_get_region (s : State) (k : Nat) (x : Option CaseLine) (j : Nat) : (s.setCaseLine k x).region j = s.region j := rfl
@[simp] theorem State.setCaseLine_get_tensor (s : State) (k : Nat) (x : Option CaseLine) (j j' : Nat) : (s.setCaseLine k x).tensor j j' = s.tensor j j' := rfl
@[simp] theorem State.setCaseLine_get_layer (s : State) (k : Nat) (x : Option CaseLine) (j j' : Nat) : (s.setCaseLine k x).layer j j' = s.layer j j' := rfl
@[simp] theorem State.setCaseLine_same (s : State) (k : Nat) (x : Option CaseLine) : (s.setCaseLine k x).caseLine k = x := tget_tput_same _ _ _ _
theorem State.setCaseLine_ne (s : State) (k : Nat) (x : Option CaseLine) {j : Nat} (h : j ≠ k) : (s.setCaseLine k x).caseLine j = s.caseLine j := tget_tput_ne _ _ h _

/-! ## setRegion -/

@[simp] theorem State.setRegion_pending (s : State) (r : Nat) (x : Option Region) : (s.setRegion r x).pending = s.pending := rfl
@[simp] theorem State.setRegion_freeCtr (s : State) (r : Nat) (x : Option Region) : (s.setRegion r x).freeCtr = s.freeCtr := rfl
@[simp] theorem State.setRegion_out (s : State) (r : Nat) (x : Option Region) : (s.setRegion r x).out = s.out := rfl
@[simp] theorem State.setRegion_regs (s : State) (r : Nat) (x : Option Region) : (s.setRegion r x).regs = s.regs := rfl
@[simp] theorem State.setRegion_latch (s : State) (r : Nat) (x : Option Region) : (s.setRegion r x).latch = s.latch := rfl
@[simp] theorem State.setRegion_badacc (s : State) (r : Nat) (x : Option Region) : (s.setRegion r x).badacc = s.badacc := rfl
@[simp] theorem State.setRegion_colo (s : State) (r : Nat) (x : Option Region) : (s.setRegion r x).colo = s.colo := rfl
@[simp] theorem State.setRegion_coloGen (s : State) (r : Nat) (x : Option Region) : (s.setRegion r x).coloGen = s.coloGen := rfl
@[simp] theorem State.setRegion_msixOpen (s : State) (r : Nat) (x : Option Region) : (s.setRegion r x).msixOpen = s.msixOpen := rfl
@[simp] theorem State.setRegion_msixPend (s : State) (r : Nat) (x : Option Region) : (s.setRegion r x).msixPend = s.msixPend := rfl
@[simp] theorem State.setRegion_pwr (s : State) (r : Nat) (x : Option Region) : (s.setRegion r x).pwr = s.pwr := rfl
@[simp] theorem State.setRegion_sec (s : State) (r : Nat) (x : Option Region) : (s.setRegion r x).sec = s.sec := rfl
@[simp] theorem State.setRegion_mgt (s : State) (r : Nat) (x : Option Region) : (s.setRegion r x).mgt = s.mgt := rfl
@[simp] theorem State.setRegion_hif (s : State) (r : Nat) (x : Option Region) : (s.setRegion r x).hif = s.hif := rfl
@[simp] theorem State.setRegion_ports (s : State) (r : Nat) (x : Option Region) : (s.setRegion r x).ports = s.ports := rfl
@[simp] theorem State.setRegion_frt (s : State) (r : Nat) (x : Option Region) : (s.setRegion r x).frt = s.frt := rfl
@[simp] theorem State.setRegion_clusters (s : State) (r : Nat) (x : Option Region) : (s.setRegion r x).clusters = s.clusters := rfl
@[simp] theorem State.setRegion_dbg (s : State) (r : Nat) (x : Option Region) : (s.setRegion r x).dbg = s.dbg := rfl
@[simp] theorem State.setRegion_chans (s : State) (r : Nat) (x : Option Region) : (s.setRegion r x).chans = s.chans := rfl
@[simp] theorem State.setRegion_lines (s : State) (r : Nat) (x : Option Region) : (s.setRegion r x).lines = s.lines := rfl
@[simp] theorem State.setRegion_ctrs (s : State) (r : Nat) (x : Option Region) : (s.setRegion r x).ctrs = s.ctrs := rfl
@[simp] theorem State.setRegion_cases (s : State) (r : Nat) (x : Option Region) : (s.setRegion r x).cases = s.cases := rfl
@[simp] theorem State.setRegion_flushing (s : State) (r : Nat) (x : Option Region) : (s.setRegion r x).flushing = s.flushing := rfl
@[simp] theorem State.setRegion_kids (s : State) (r : Nat) (x : Option Region) : (s.setRegion r x).kids = s.kids := rfl
@[simp] theorem State.setRegion_retiring (s : State) (r : Nat) (x : Option Region) : (s.setRegion r x).retiring = s.retiring := rfl
@[simp] theorem State.setRegion_reads (s : State) (r : Nat) (x : Option Region) : (s.setRegion r x).reads = s.reads := rfl
@[simp] theorem State.setRegion_shown (s : State) (r : Nat) (x : Option Region) : (s.setRegion r x).shown = s.shown := rfl
@[simp] theorem State.setRegion_epochs (s : State) (r : Nat) (x : Option Region) : (s.setRegion r x).epochs = s.epochs := rfl
@[simp] theorem State.setRegion_halt (s : State) (r : Nat) (x : Option Region) : (s.setRegion r x).halt = s.halt := rfl
@[simp] theorem State.setRegion_vlat (s : State) (r : Nat) (x : Option Region) : (s.setRegion r x).vlat = s.vlat := rfl
@[simp] theorem State.setRegion_delivered (s : State) (r : Nat) (x : Option Region) : (s.setRegion r x).delivered = s.delivered := rfl
@[simp] theorem State.setRegion_egress (s : State) (r : Nat) (x : Option Region) : (s.setRegion r x).egress = s.egress := rfl
@[simp] theorem State.setRegion_colls (s : State) (r : Nat) (x : Option Region) : (s.setRegion r x).colls = s.colls := rfl
@[simp] theorem State.setRegion_skews (s : State) (r : Nat) (x : Option Region) : (s.setRegion r x).skews = s.skews := rfl
@[simp] theorem State.setRegion_tensors (s : State) (r : Nat) (x : Option Region) : (s.setRegion r x).tensors = s.tensors := rfl
@[simp] theorem State.setRegion_layers (s : State) (r : Nat) (x : Option Region) : (s.setRegion r x).layers = s.layers := rfl
@[simp] theorem State.setRegion_ckpts (s : State) (r : Nat) (x : Option Region) : (s.setRegion r x).ckpts = s.ckpts := rfl
@[simp] theorem State.setRegion_ckptId (s : State) (r : Nat) (x : Option Region) : (s.setRegion r x).ckptId = s.ckptId := rfl
@[simp] theorem State.setRegion_ctxs (s : State) (r : Nat) (x : Option Region) : (s.setRegion r x).ctxs = s.ctxs := rfl
@[simp] theorem State.setRegion_mqs (s : State) (r : Nat) (x : Option Region) : (s.setRegion r x).mqs = s.mqs := rfl
@[simp] theorem State.setRegion_objs (s : State) (r : Nat) (x : Option Region) : (s.setRegion r x).objs = s.objs := rfl
@[simp] theorem State.setRegion_objGen (s : State) (r : Nat) (x : Option Region) : (s.setRegion r x).objGen = s.objGen := rfl
@[simp] theorem State.setRegion_fences (s : State) (r : Nat) (x : Option Region) : (s.setRegion r x).fences = s.fences := rfl
@[simp] theorem State.setRegion_inflight (s : State) (r : Nat) (x : Option Region) : (s.setRegion r x).inflight = s.inflight := rfl
@[simp] theorem State.setRegion_sent (s : State) (r : Nat) (x : Option Region) : (s.setRegion r x).sent = s.sent := rfl
@[simp] theorem State.setRegion_parts (s : State) (r : Nat) (x : Option Region) : (s.setRegion r x).parts = s.parts := rfl
@[simp] theorem State.setRegion_bind (s : State) (r : Nat) (x : Option Region) : (s.setRegion r x).bind = s.bind := rfl
@[simp] theorem State.setRegion_bindErr (s : State) (r : Nat) (x : Option Region) : (s.setRegion r x).bindErr = s.bindErr := rfl
@[simp] theorem State.setRegion_bindPart (s : State) (r : Nat) (x : Option Region) : (s.setRegion r x).bindPart = s.bindPart := rfl
@[simp] theorem State.setRegion_sizesGen (s : State) (r : Nat) (x : Option Region) : (s.setRegion r x).sizesGen = s.sizesGen := rfl
@[simp] theorem State.setRegion_units (s : State) (r : Nat) (x : Option Region) : (s.setRegion r x).units = s.units := rfl
@[simp] theorem State.setRegion_prfLast (s : State) (r : Nat) (x : Option Region) : (s.setRegion r x).prfLast = s.prfLast := rfl
@[simp] theorem State.setRegion_get_cluster (s : State) (r : Nat) (x : Option Region) (j : Nat) : (s.setRegion r x).cluster j = s.cluster j := rfl
@[simp] theorem State.setRegion_get_chan (s : State) (r : Nat) (x : Option Region) (j : Nat) : (s.setRegion r x).chan j = s.chan j := rfl
@[simp] theorem State.setRegion_get_line (s : State) (r : Nat) (x : Option Region) (j : Nat) : (s.setRegion r x).line j = s.line j := rfl
@[simp] theorem State.setRegion_get_kid (s : State) (r : Nat) (x : Option Region) (j : Nat) : (s.setRegion r x).kid j = s.kid j := rfl
@[simp] theorem State.setRegion_get_ctx (s : State) (r : Nat) (x : Option Region) (j : Nat) : (s.setRegion r x).ctx j = s.ctx j := rfl
@[simp] theorem State.setRegion_get_part (s : State) (r : Nat) (x : Option Region) (j : Nat) : (s.setRegion r x).part j = s.part j := rfl
@[simp] theorem State.setRegion_get_mq (s : State) (r : Nat) (x : Option Region) (j : Nat) : (s.setRegion r x).mq j = s.mq j := rfl
@[simp] theorem State.setRegion_get_obj (s : State) (r : Nat) (x : Option Region) (j : Nat) : (s.setRegion r x).obj j = s.obj j := rfl
@[simp] theorem State.setRegion_get_fence (s : State) (r : Nat) (x : Option Region) (j : Nat) : (s.setRegion r x).fence j = s.fence j := rfl
@[simp] theorem State.setRegion_get_unit (s : State) (r : Nat) (x : Option Region) (j : Nat) : (s.setRegion r x).unit j = s.unit j := rfl
@[simp] theorem State.setRegion_get_port (s : State) (r : Nat) (x : Option Region) (j : Nat) : (s.setRegion r x).port j = s.port j := rfl
@[simp] theorem State.setRegion_get_caseLine (s : State) (r : Nat) (x : Option Region) (j : Nat) : (s.setRegion r x).caseLine j = s.caseLine j := rfl
@[simp] theorem State.setRegion_get_tensor (s : State) (r : Nat) (x : Option Region) (j j' : Nat) : (s.setRegion r x).tensor j j' = s.tensor j j' := rfl
@[simp] theorem State.setRegion_get_layer (s : State) (r : Nat) (x : Option Region) (j j' : Nat) : (s.setRegion r x).layer j j' = s.layer j j' := rfl
@[simp] theorem State.setRegion_same (s : State) (r : Nat) (x : Option Region) : (s.setRegion r x).region r = x := tget_tput_same _ _ _ _
theorem State.setRegion_ne (s : State) (r : Nat) (x : Option Region) {j : Nat} (h : j ≠ r) : (s.setRegion r x).region j = s.region j := tget_tput_ne _ _ h _

/-! ## setStg -/

@[simp] theorem State.setStg_pending (s : State) (n : Nat) (x : Staging) : (s.setStg n x).pending = s.pending := rfl
@[simp] theorem State.setStg_freeCtr (s : State) (n : Nat) (x : Staging) : (s.setStg n x).freeCtr = s.freeCtr := rfl
@[simp] theorem State.setStg_out (s : State) (n : Nat) (x : Staging) : (s.setStg n x).out = s.out := rfl
@[simp] theorem State.setStg_regs (s : State) (n : Nat) (x : Staging) : (s.setStg n x).regs = s.regs := rfl
@[simp] theorem State.setStg_latch (s : State) (n : Nat) (x : Staging) : (s.setStg n x).latch = s.latch := rfl
@[simp] theorem State.setStg_badacc (s : State) (n : Nat) (x : Staging) : (s.setStg n x).badacc = s.badacc := rfl
@[simp] theorem State.setStg_colo (s : State) (n : Nat) (x : Staging) : (s.setStg n x).colo = s.colo := rfl
@[simp] theorem State.setStg_coloGen (s : State) (n : Nat) (x : Staging) : (s.setStg n x).coloGen = s.coloGen := rfl
@[simp] theorem State.setStg_msixOpen (s : State) (n : Nat) (x : Staging) : (s.setStg n x).msixOpen = s.msixOpen := rfl
@[simp] theorem State.setStg_msixPend (s : State) (n : Nat) (x : Staging) : (s.setStg n x).msixPend = s.msixPend := rfl
@[simp] theorem State.setStg_pwr (s : State) (n : Nat) (x : Staging) : (s.setStg n x).pwr = s.pwr := rfl
@[simp] theorem State.setStg_sec (s : State) (n : Nat) (x : Staging) : (s.setStg n x).sec = s.sec := rfl
@[simp] theorem State.setStg_mgt (s : State) (n : Nat) (x : Staging) : (s.setStg n x).mgt = s.mgt := rfl
@[simp] theorem State.setStg_ports (s : State) (n : Nat) (x : Staging) : (s.setStg n x).ports = s.ports := rfl
@[simp] theorem State.setStg_frt (s : State) (n : Nat) (x : Staging) : (s.setStg n x).frt = s.frt := rfl
@[simp] theorem State.setStg_clusters (s : State) (n : Nat) (x : Staging) : (s.setStg n x).clusters = s.clusters := rfl
@[simp] theorem State.setStg_dbg (s : State) (n : Nat) (x : Staging) : (s.setStg n x).dbg = s.dbg := rfl
@[simp] theorem State.setStg_chans (s : State) (n : Nat) (x : Staging) : (s.setStg n x).chans = s.chans := rfl
@[simp] theorem State.setStg_lines (s : State) (n : Nat) (x : Staging) : (s.setStg n x).lines = s.lines := rfl
@[simp] theorem State.setStg_ctrs (s : State) (n : Nat) (x : Staging) : (s.setStg n x).ctrs = s.ctrs := rfl
@[simp] theorem State.setStg_cases (s : State) (n : Nat) (x : Staging) : (s.setStg n x).cases = s.cases := rfl
@[simp] theorem State.setStg_flushing (s : State) (n : Nat) (x : Staging) : (s.setStg n x).flushing = s.flushing := rfl
@[simp] theorem State.setStg_kids (s : State) (n : Nat) (x : Staging) : (s.setStg n x).kids = s.kids := rfl
@[simp] theorem State.setStg_retiring (s : State) (n : Nat) (x : Staging) : (s.setStg n x).retiring = s.retiring := rfl
@[simp] theorem State.setStg_reads (s : State) (n : Nat) (x : Staging) : (s.setStg n x).reads = s.reads := rfl
@[simp] theorem State.setStg_shown (s : State) (n : Nat) (x : Staging) : (s.setStg n x).shown = s.shown := rfl
@[simp] theorem State.setStg_epochs (s : State) (n : Nat) (x : Staging) : (s.setStg n x).epochs = s.epochs := rfl
@[simp] theorem State.setStg_halt (s : State) (n : Nat) (x : Staging) : (s.setStg n x).halt = s.halt := rfl
@[simp] theorem State.setStg_vlat (s : State) (n : Nat) (x : Staging) : (s.setStg n x).vlat = s.vlat := rfl
@[simp] theorem State.setStg_delivered (s : State) (n : Nat) (x : Staging) : (s.setStg n x).delivered = s.delivered := rfl
@[simp] theorem State.setStg_egress (s : State) (n : Nat) (x : Staging) : (s.setStg n x).egress = s.egress := rfl
@[simp] theorem State.setStg_regions (s : State) (n : Nat) (x : Staging) : (s.setStg n x).regions = s.regions := rfl
@[simp] theorem State.setStg_colls (s : State) (n : Nat) (x : Staging) : (s.setStg n x).colls = s.colls := rfl
@[simp] theorem State.setStg_skews (s : State) (n : Nat) (x : Staging) : (s.setStg n x).skews = s.skews := rfl
@[simp] theorem State.setStg_tensors (s : State) (n : Nat) (x : Staging) : (s.setStg n x).tensors = s.tensors := rfl
@[simp] theorem State.setStg_layers (s : State) (n : Nat) (x : Staging) : (s.setStg n x).layers = s.layers := rfl
@[simp] theorem State.setStg_ckpts (s : State) (n : Nat) (x : Staging) : (s.setStg n x).ckpts = s.ckpts := rfl
@[simp] theorem State.setStg_ckptId (s : State) (n : Nat) (x : Staging) : (s.setStg n x).ckptId = s.ckptId := rfl
@[simp] theorem State.setStg_ctxs (s : State) (n : Nat) (x : Staging) : (s.setStg n x).ctxs = s.ctxs := rfl
@[simp] theorem State.setStg_mqs (s : State) (n : Nat) (x : Staging) : (s.setStg n x).mqs = s.mqs := rfl
@[simp] theorem State.setStg_objs (s : State) (n : Nat) (x : Staging) : (s.setStg n x).objs = s.objs := rfl
@[simp] theorem State.setStg_objGen (s : State) (n : Nat) (x : Staging) : (s.setStg n x).objGen = s.objGen := rfl
@[simp] theorem State.setStg_fences (s : State) (n : Nat) (x : Staging) : (s.setStg n x).fences = s.fences := rfl
@[simp] theorem State.setStg_inflight (s : State) (n : Nat) (x : Staging) : (s.setStg n x).inflight = s.inflight := rfl
@[simp] theorem State.setStg_sent (s : State) (n : Nat) (x : Staging) : (s.setStg n x).sent = s.sent := rfl
@[simp] theorem State.setStg_parts (s : State) (n : Nat) (x : Staging) : (s.setStg n x).parts = s.parts := rfl
@[simp] theorem State.setStg_bind (s : State) (n : Nat) (x : Staging) : (s.setStg n x).bind = s.bind := rfl
@[simp] theorem State.setStg_bindErr (s : State) (n : Nat) (x : Staging) : (s.setStg n x).bindErr = s.bindErr := rfl
@[simp] theorem State.setStg_bindPart (s : State) (n : Nat) (x : Staging) : (s.setStg n x).bindPart = s.bindPart := rfl
@[simp] theorem State.setStg_sizesGen (s : State) (n : Nat) (x : Staging) : (s.setStg n x).sizesGen = s.sizesGen := rfl
@[simp] theorem State.setStg_units (s : State) (n : Nat) (x : Staging) : (s.setStg n x).units = s.units := rfl
@[simp] theorem State.setStg_prfLast (s : State) (n : Nat) (x : Staging) : (s.setStg n x).prfLast = s.prfLast := rfl
@[simp] theorem State.setStg_get_cluster (s : State) (n : Nat) (x : Staging) (j : Nat) : (s.setStg n x).cluster j = s.cluster j := rfl
@[simp] theorem State.setStg_get_chan (s : State) (n : Nat) (x : Staging) (j : Nat) : (s.setStg n x).chan j = s.chan j := rfl
@[simp] theorem State.setStg_get_line (s : State) (n : Nat) (x : Staging) (j : Nat) : (s.setStg n x).line j = s.line j := rfl
@[simp] theorem State.setStg_get_kid (s : State) (n : Nat) (x : Staging) (j : Nat) : (s.setStg n x).kid j = s.kid j := rfl
@[simp] theorem State.setStg_get_ctx (s : State) (n : Nat) (x : Staging) (j : Nat) : (s.setStg n x).ctx j = s.ctx j := rfl
@[simp] theorem State.setStg_get_part (s : State) (n : Nat) (x : Staging) (j : Nat) : (s.setStg n x).part j = s.part j := rfl
@[simp] theorem State.setStg_get_mq (s : State) (n : Nat) (x : Staging) (j : Nat) : (s.setStg n x).mq j = s.mq j := rfl
@[simp] theorem State.setStg_get_obj (s : State) (n : Nat) (x : Staging) (j : Nat) : (s.setStg n x).obj j = s.obj j := rfl
@[simp] theorem State.setStg_get_fence (s : State) (n : Nat) (x : Staging) (j : Nat) : (s.setStg n x).fence j = s.fence j := rfl
@[simp] theorem State.setStg_get_unit (s : State) (n : Nat) (x : Staging) (j : Nat) : (s.setStg n x).unit j = s.unit j := rfl
@[simp] theorem State.setStg_get_port (s : State) (n : Nat) (x : Staging) (j : Nat) : (s.setStg n x).port j = s.port j := rfl
@[simp] theorem State.setStg_get_caseLine (s : State) (n : Nat) (x : Staging) (j : Nat) : (s.setStg n x).caseLine j = s.caseLine j := rfl
@[simp] theorem State.setStg_get_region (s : State) (n : Nat) (x : Staging) (j : Nat) : (s.setStg n x).region j = s.region j := rfl
@[simp] theorem State.setStg_get_tensor (s : State) (n : Nat) (x : Staging) (j j' : Nat) : (s.setStg n x).tensor j j' = s.tensor j j' := rfl
@[simp] theorem State.setStg_get_layer (s : State) (n : Nat) (x : Staging) (j j' : Nat) : (s.setStg n x).layer j j' = s.layer j j' := rfl
@[simp] theorem State.setStg_same (s : State) (n : Nat) (x : Staging) : (s.setStg n x).stg n = x := tget_tput_same _ _ _ _
theorem State.setStg_ne (s : State) (n : Nat) (x : Staging) {j : Nat} (h : j ≠ n) : (s.setStg n x).stg j = s.stg j := tget_tput_ne _ _ h _

/-! ## setReg -/

@[simp] theorem State.setReg_pending (s : State) (f : Nat) (b : Blk) (i o r v : Nat) : (s.setReg f b i o r v).pending = s.pending := rfl
@[simp] theorem State.setReg_freeCtr (s : State) (f : Nat) (b : Blk) (i o r v : Nat) : (s.setReg f b i o r v).freeCtr = s.freeCtr := rfl
@[simp] theorem State.setReg_out (s : State) (f : Nat) (b : Blk) (i o r v : Nat) : (s.setReg f b i o r v).out = s.out := rfl
@[simp] theorem State.setReg_latch (s : State) (f : Nat) (b : Blk) (i o r v : Nat) : (s.setReg f b i o r v).latch = s.latch := rfl
@[simp] theorem State.setReg_badacc (s : State) (f : Nat) (b : Blk) (i o r v : Nat) : (s.setReg f b i o r v).badacc = s.badacc := rfl
@[simp] theorem State.setReg_colo (s : State) (f : Nat) (b : Blk) (i o r v : Nat) : (s.setReg f b i o r v).colo = s.colo := rfl
@[simp] theorem State.setReg_coloGen (s : State) (f : Nat) (b : Blk) (i o r v : Nat) : (s.setReg f b i o r v).coloGen = s.coloGen := rfl
@[simp] theorem State.setReg_msixOpen (s : State) (f : Nat) (b : Blk) (i o r v : Nat) : (s.setReg f b i o r v).msixOpen = s.msixOpen := rfl
@[simp] theorem State.setReg_msixPend (s : State) (f : Nat) (b : Blk) (i o r v : Nat) : (s.setReg f b i o r v).msixPend = s.msixPend := rfl
@[simp] theorem State.setReg_pwr (s : State) (f : Nat) (b : Blk) (i o r v : Nat) : (s.setReg f b i o r v).pwr = s.pwr := rfl
@[simp] theorem State.setReg_sec (s : State) (f : Nat) (b : Blk) (i o r v : Nat) : (s.setReg f b i o r v).sec = s.sec := rfl
@[simp] theorem State.setReg_mgt (s : State) (f : Nat) (b : Blk) (i o r v : Nat) : (s.setReg f b i o r v).mgt = s.mgt := rfl
@[simp] theorem State.setReg_hif (s : State) (f : Nat) (b : Blk) (i o r v : Nat) : (s.setReg f b i o r v).hif = s.hif := rfl
@[simp] theorem State.setReg_ports (s : State) (f : Nat) (b : Blk) (i o r v : Nat) : (s.setReg f b i o r v).ports = s.ports := rfl
@[simp] theorem State.setReg_frt (s : State) (f : Nat) (b : Blk) (i o r v : Nat) : (s.setReg f b i o r v).frt = s.frt := rfl
@[simp] theorem State.setReg_clusters (s : State) (f : Nat) (b : Blk) (i o r v : Nat) : (s.setReg f b i o r v).clusters = s.clusters := rfl
@[simp] theorem State.setReg_dbg (s : State) (f : Nat) (b : Blk) (i o r v : Nat) : (s.setReg f b i o r v).dbg = s.dbg := rfl
@[simp] theorem State.setReg_chans (s : State) (f : Nat) (b : Blk) (i o r v : Nat) : (s.setReg f b i o r v).chans = s.chans := rfl
@[simp] theorem State.setReg_lines (s : State) (f : Nat) (b : Blk) (i o r v : Nat) : (s.setReg f b i o r v).lines = s.lines := rfl
@[simp] theorem State.setReg_ctrs (s : State) (f : Nat) (b : Blk) (i o r v : Nat) : (s.setReg f b i o r v).ctrs = s.ctrs := rfl
@[simp] theorem State.setReg_cases (s : State) (f : Nat) (b : Blk) (i o r v : Nat) : (s.setReg f b i o r v).cases = s.cases := rfl
@[simp] theorem State.setReg_flushing (s : State) (f : Nat) (b : Blk) (i o r v : Nat) : (s.setReg f b i o r v).flushing = s.flushing := rfl
@[simp] theorem State.setReg_kids (s : State) (f : Nat) (b : Blk) (i o r v : Nat) : (s.setReg f b i o r v).kids = s.kids := rfl
@[simp] theorem State.setReg_retiring (s : State) (f : Nat) (b : Blk) (i o r v : Nat) : (s.setReg f b i o r v).retiring = s.retiring := rfl
@[simp] theorem State.setReg_reads (s : State) (f : Nat) (b : Blk) (i o r v : Nat) : (s.setReg f b i o r v).reads = s.reads := rfl
@[simp] theorem State.setReg_shown (s : State) (f : Nat) (b : Blk) (i o r v : Nat) : (s.setReg f b i o r v).shown = s.shown := rfl
@[simp] theorem State.setReg_epochs (s : State) (f : Nat) (b : Blk) (i o r v : Nat) : (s.setReg f b i o r v).epochs = s.epochs := rfl
@[simp] theorem State.setReg_halt (s : State) (f : Nat) (b : Blk) (i o r v : Nat) : (s.setReg f b i o r v).halt = s.halt := rfl
@[simp] theorem State.setReg_vlat (s : State) (f : Nat) (b : Blk) (i o r v : Nat) : (s.setReg f b i o r v).vlat = s.vlat := rfl
@[simp] theorem State.setReg_delivered (s : State) (f : Nat) (b : Blk) (i o r v : Nat) : (s.setReg f b i o r v).delivered = s.delivered := rfl
@[simp] theorem State.setReg_egress (s : State) (f : Nat) (b : Blk) (i o r v : Nat) : (s.setReg f b i o r v).egress = s.egress := rfl
@[simp] theorem State.setReg_regions (s : State) (f : Nat) (b : Blk) (i o r v : Nat) : (s.setReg f b i o r v).regions = s.regions := rfl
@[simp] theorem State.setReg_colls (s : State) (f : Nat) (b : Blk) (i o r v : Nat) : (s.setReg f b i o r v).colls = s.colls := rfl
@[simp] theorem State.setReg_skews (s : State) (f : Nat) (b : Blk) (i o r v : Nat) : (s.setReg f b i o r v).skews = s.skews := rfl
@[simp] theorem State.setReg_tensors (s : State) (f : Nat) (b : Blk) (i o r v : Nat) : (s.setReg f b i o r v).tensors = s.tensors := rfl
@[simp] theorem State.setReg_layers (s : State) (f : Nat) (b : Blk) (i o r v : Nat) : (s.setReg f b i o r v).layers = s.layers := rfl
@[simp] theorem State.setReg_ckpts (s : State) (f : Nat) (b : Blk) (i o r v : Nat) : (s.setReg f b i o r v).ckpts = s.ckpts := rfl
@[simp] theorem State.setReg_ckptId (s : State) (f : Nat) (b : Blk) (i o r v : Nat) : (s.setReg f b i o r v).ckptId = s.ckptId := rfl
@[simp] theorem State.setReg_ctxs (s : State) (f : Nat) (b : Blk) (i o r v : Nat) : (s.setReg f b i o r v).ctxs = s.ctxs := rfl
@[simp] theorem State.setReg_mqs (s : State) (f : Nat) (b : Blk) (i o r v : Nat) : (s.setReg f b i o r v).mqs = s.mqs := rfl
@[simp] theorem State.setReg_objs (s : State) (f : Nat) (b : Blk) (i o r v : Nat) : (s.setReg f b i o r v).objs = s.objs := rfl
@[simp] theorem State.setReg_objGen (s : State) (f : Nat) (b : Blk) (i o r v : Nat) : (s.setReg f b i o r v).objGen = s.objGen := rfl
@[simp] theorem State.setReg_fences (s : State) (f : Nat) (b : Blk) (i o r v : Nat) : (s.setReg f b i o r v).fences = s.fences := rfl
@[simp] theorem State.setReg_inflight (s : State) (f : Nat) (b : Blk) (i o r v : Nat) : (s.setReg f b i o r v).inflight = s.inflight := rfl
@[simp] theorem State.setReg_sent (s : State) (f : Nat) (b : Blk) (i o r v : Nat) : (s.setReg f b i o r v).sent = s.sent := rfl
@[simp] theorem State.setReg_parts (s : State) (f : Nat) (b : Blk) (i o r v : Nat) : (s.setReg f b i o r v).parts = s.parts := rfl
@[simp] theorem State.setReg_bind (s : State) (f : Nat) (b : Blk) (i o r v : Nat) : (s.setReg f b i o r v).bind = s.bind := rfl
@[simp] theorem State.setReg_bindErr (s : State) (f : Nat) (b : Blk) (i o r v : Nat) : (s.setReg f b i o r v).bindErr = s.bindErr := rfl
@[simp] theorem State.setReg_bindPart (s : State) (f : Nat) (b : Blk) (i o r v : Nat) : (s.setReg f b i o r v).bindPart = s.bindPart := rfl
@[simp] theorem State.setReg_sizesGen (s : State) (f : Nat) (b : Blk) (i o r v : Nat) : (s.setReg f b i o r v).sizesGen = s.sizesGen := rfl
@[simp] theorem State.setReg_units (s : State) (f : Nat) (b : Blk) (i o r v : Nat) : (s.setReg f b i o r v).units = s.units := rfl
@[simp] theorem State.setReg_prfLast (s : State) (f : Nat) (b : Blk) (i o r v : Nat) : (s.setReg f b i o r v).prfLast = s.prfLast := rfl
@[simp] theorem State.setReg_get_cluster (s : State) (f : Nat) (b : Blk) (i o r v : Nat) (j : Nat) : (s.setReg f b i o r v).cluster j = s.cluster j := rfl
@[simp] theorem State.setReg_get_chan (s : State) (f : Nat) (b : Blk) (i o r v : Nat) (j : Nat) : (s.setReg f b i o r v).chan j = s.chan j := rfl
@[simp] theorem State.setReg_get_line (s : State) (f : Nat) (b : Blk) (i o r v : Nat) (j : Nat) : (s.setReg f b i o r v).line j = s.line j := rfl
@[simp] theorem State.setReg_get_kid (s : State) (f : Nat) (b : Blk) (i o r v : Nat) (j : Nat) : (s.setReg f b i o r v).kid j = s.kid j := rfl
@[simp] theorem State.setReg_get_ctx (s : State) (f : Nat) (b : Blk) (i o r v : Nat) (j : Nat) : (s.setReg f b i o r v).ctx j = s.ctx j := rfl
@[simp] theorem State.setReg_get_part (s : State) (f : Nat) (b : Blk) (i o r v : Nat) (j : Nat) : (s.setReg f b i o r v).part j = s.part j := rfl
@[simp] theorem State.setReg_get_mq (s : State) (f : Nat) (b : Blk) (i o r v : Nat) (j : Nat) : (s.setReg f b i o r v).mq j = s.mq j := rfl
@[simp] theorem State.setReg_get_obj (s : State) (f : Nat) (b : Blk) (i o r v : Nat) (j : Nat) : (s.setReg f b i o r v).obj j = s.obj j := rfl
@[simp] theorem State.setReg_get_fence (s : State) (f : Nat) (b : Blk) (i o r v : Nat) (j : Nat) : (s.setReg f b i o r v).fence j = s.fence j := rfl
@[simp] theorem State.setReg_get_unit (s : State) (f : Nat) (b : Blk) (i o r v : Nat) (j : Nat) : (s.setReg f b i o r v).unit j = s.unit j := rfl
@[simp] theorem State.setReg_get_port (s : State) (f : Nat) (b : Blk) (i o r v : Nat) (j : Nat) : (s.setReg f b i o r v).port j = s.port j := rfl
@[simp] theorem State.setReg_get_caseLine (s : State) (f : Nat) (b : Blk) (i o r v : Nat) (j : Nat) : (s.setReg f b i o r v).caseLine j = s.caseLine j := rfl
@[simp] theorem State.setReg_get_region (s : State) (f : Nat) (b : Blk) (i o r v : Nat) (j : Nat) : (s.setReg f b i o r v).region j = s.region j := rfl
@[simp] theorem State.setReg_get_tensor (s : State) (f : Nat) (b : Blk) (i o r v : Nat) (j j' : Nat) : (s.setReg f b i o r v).tensor j j' = s.tensor j j' := rfl
@[simp] theorem State.setReg_get_layer (s : State) (f : Nat) (b : Blk) (i o r v : Nat) (j j' : Nat) : (s.setReg f b i o r v).layer j j' = s.layer j j' := rfl

/-! ## emit -/

@[simp] theorem State.emit_pending (s : State) (p : Nat) (f : Bool) (q : Option QSrc) (e : OutEv) : (s.emit p f q e).pending = s.pending := rfl
@[simp] theorem State.emit_freeCtr (s : State) (p : Nat) (f : Bool) (q : Option QSrc) (e : OutEv) : (s.emit p f q e).freeCtr = s.freeCtr := rfl
@[simp] theorem State.emit_out (s : State) (p : Nat) (f : Bool) (q : Option QSrc) (e : OutEv) : (s.emit p f q e).out = s.out := rfl
@[simp] theorem State.emit_regs (s : State) (p : Nat) (f : Bool) (q : Option QSrc) (e : OutEv) : (s.emit p f q e).regs = s.regs := rfl
@[simp] theorem State.emit_latch (s : State) (p : Nat) (f : Bool) (q : Option QSrc) (e : OutEv) : (s.emit p f q e).latch = s.latch := rfl
@[simp] theorem State.emit_badacc (s : State) (p : Nat) (f : Bool) (q : Option QSrc) (e : OutEv) : (s.emit p f q e).badacc = s.badacc := rfl
@[simp] theorem State.emit_colo (s : State) (p : Nat) (f : Bool) (q : Option QSrc) (e : OutEv) : (s.emit p f q e).colo = s.colo := rfl
@[simp] theorem State.emit_coloGen (s : State) (p : Nat) (f : Bool) (q : Option QSrc) (e : OutEv) : (s.emit p f q e).coloGen = s.coloGen := rfl
@[simp] theorem State.emit_msixOpen (s : State) (p : Nat) (f : Bool) (q : Option QSrc) (e : OutEv) : (s.emit p f q e).msixOpen = s.msixOpen := rfl
@[simp] theorem State.emit_msixPend (s : State) (p : Nat) (f : Bool) (q : Option QSrc) (e : OutEv) : (s.emit p f q e).msixPend = s.msixPend := rfl
@[simp] theorem State.emit_pwr (s : State) (p : Nat) (f : Bool) (q : Option QSrc) (e : OutEv) : (s.emit p f q e).pwr = s.pwr := rfl
@[simp] theorem State.emit_sec (s : State) (p : Nat) (f : Bool) (q : Option QSrc) (e : OutEv) : (s.emit p f q e).sec = s.sec := rfl
@[simp] theorem State.emit_mgt (s : State) (p : Nat) (f : Bool) (q : Option QSrc) (e : OutEv) : (s.emit p f q e).mgt = s.mgt := rfl
@[simp] theorem State.emit_hif (s : State) (p : Nat) (f : Bool) (q : Option QSrc) (e : OutEv) : (s.emit p f q e).hif = s.hif := rfl
@[simp] theorem State.emit_ports (s : State) (p : Nat) (f : Bool) (q : Option QSrc) (e : OutEv) : (s.emit p f q e).ports = s.ports := rfl
@[simp] theorem State.emit_frt (s : State) (p : Nat) (f : Bool) (q : Option QSrc) (e : OutEv) : (s.emit p f q e).frt = s.frt := rfl
@[simp] theorem State.emit_clusters (s : State) (p : Nat) (f : Bool) (q : Option QSrc) (e : OutEv) : (s.emit p f q e).clusters = s.clusters := rfl
@[simp] theorem State.emit_dbg (s : State) (p : Nat) (f : Bool) (q : Option QSrc) (e : OutEv) : (s.emit p f q e).dbg = s.dbg := rfl
@[simp] theorem State.emit_chans (s : State) (p : Nat) (f : Bool) (q : Option QSrc) (e : OutEv) : (s.emit p f q e).chans = s.chans := rfl
@[simp] theorem State.emit_lines (s : State) (p : Nat) (f : Bool) (q : Option QSrc) (e : OutEv) : (s.emit p f q e).lines = s.lines := rfl
@[simp] theorem State.emit_ctrs (s : State) (p : Nat) (f : Bool) (q : Option QSrc) (e : OutEv) : (s.emit p f q e).ctrs = s.ctrs := rfl
@[simp] theorem State.emit_cases (s : State) (p : Nat) (f : Bool) (q : Option QSrc) (e : OutEv) : (s.emit p f q e).cases = s.cases := rfl
@[simp] theorem State.emit_flushing (s : State) (p : Nat) (f : Bool) (q : Option QSrc) (e : OutEv) : (s.emit p f q e).flushing = s.flushing := rfl
@[simp] theorem State.emit_kids (s : State) (p : Nat) (f : Bool) (q : Option QSrc) (e : OutEv) : (s.emit p f q e).kids = s.kids := rfl
@[simp] theorem State.emit_retiring (s : State) (p : Nat) (f : Bool) (q : Option QSrc) (e : OutEv) : (s.emit p f q e).retiring = s.retiring := rfl
@[simp] theorem State.emit_reads (s : State) (p : Nat) (f : Bool) (q : Option QSrc) (e : OutEv) : (s.emit p f q e).reads = s.reads := rfl
@[simp] theorem State.emit_shown (s : State) (p : Nat) (f : Bool) (q : Option QSrc) (e : OutEv) : (s.emit p f q e).shown = s.shown := rfl
@[simp] theorem State.emit_epochs (s : State) (p : Nat) (f : Bool) (q : Option QSrc) (e : OutEv) : (s.emit p f q e).epochs = s.epochs := rfl
@[simp] theorem State.emit_halt (s : State) (p : Nat) (f : Bool) (q : Option QSrc) (e : OutEv) : (s.emit p f q e).halt = s.halt := rfl
@[simp] theorem State.emit_vlat (s : State) (p : Nat) (f : Bool) (q : Option QSrc) (e : OutEv) : (s.emit p f q e).vlat = s.vlat := rfl
@[simp] theorem State.emit_delivered (s : State) (p : Nat) (f : Bool) (q : Option QSrc) (e : OutEv) : (s.emit p f q e).delivered = s.delivered := rfl
@[simp] theorem State.emit_regions (s : State) (p : Nat) (f : Bool) (q : Option QSrc) (e : OutEv) : (s.emit p f q e).regions = s.regions := rfl
@[simp] theorem State.emit_colls (s : State) (p : Nat) (f : Bool) (q : Option QSrc) (e : OutEv) : (s.emit p f q e).colls = s.colls := rfl
@[simp] theorem State.emit_skews (s : State) (p : Nat) (f : Bool) (q : Option QSrc) (e : OutEv) : (s.emit p f q e).skews = s.skews := rfl
@[simp] theorem State.emit_tensors (s : State) (p : Nat) (f : Bool) (q : Option QSrc) (e : OutEv) : (s.emit p f q e).tensors = s.tensors := rfl
@[simp] theorem State.emit_layers (s : State) (p : Nat) (f : Bool) (q : Option QSrc) (e : OutEv) : (s.emit p f q e).layers = s.layers := rfl
@[simp] theorem State.emit_ckpts (s : State) (p : Nat) (f : Bool) (q : Option QSrc) (e : OutEv) : (s.emit p f q e).ckpts = s.ckpts := rfl
@[simp] theorem State.emit_ckptId (s : State) (p : Nat) (f : Bool) (q : Option QSrc) (e : OutEv) : (s.emit p f q e).ckptId = s.ckptId := rfl
@[simp] theorem State.emit_ctxs (s : State) (p : Nat) (f : Bool) (q : Option QSrc) (e : OutEv) : (s.emit p f q e).ctxs = s.ctxs := rfl
@[simp] theorem State.emit_mqs (s : State) (p : Nat) (f : Bool) (q : Option QSrc) (e : OutEv) : (s.emit p f q e).mqs = s.mqs := rfl
@[simp] theorem State.emit_objs (s : State) (p : Nat) (f : Bool) (q : Option QSrc) (e : OutEv) : (s.emit p f q e).objs = s.objs := rfl
@[simp] theorem State.emit_objGen (s : State) (p : Nat) (f : Bool) (q : Option QSrc) (e : OutEv) : (s.emit p f q e).objGen = s.objGen := rfl
@[simp] theorem State.emit_fences (s : State) (p : Nat) (f : Bool) (q : Option QSrc) (e : OutEv) : (s.emit p f q e).fences = s.fences := rfl
@[simp] theorem State.emit_inflight (s : State) (p : Nat) (f : Bool) (q : Option QSrc) (e : OutEv) : (s.emit p f q e).inflight = s.inflight := rfl
@[simp] theorem State.emit_sent (s : State) (p : Nat) (f : Bool) (q : Option QSrc) (e : OutEv) : (s.emit p f q e).sent = s.sent := rfl
@[simp] theorem State.emit_parts (s : State) (p : Nat) (f : Bool) (q : Option QSrc) (e : OutEv) : (s.emit p f q e).parts = s.parts := rfl
@[simp] theorem State.emit_bind (s : State) (p : Nat) (f : Bool) (q : Option QSrc) (e : OutEv) : (s.emit p f q e).bind = s.bind := rfl
@[simp] theorem State.emit_bindErr (s : State) (p : Nat) (f : Bool) (q : Option QSrc) (e : OutEv) : (s.emit p f q e).bindErr = s.bindErr := rfl
@[simp] theorem State.emit_bindPart (s : State) (p : Nat) (f : Bool) (q : Option QSrc) (e : OutEv) : (s.emit p f q e).bindPart = s.bindPart := rfl
@[simp] theorem State.emit_sizesGen (s : State) (p : Nat) (f : Bool) (q : Option QSrc) (e : OutEv) : (s.emit p f q e).sizesGen = s.sizesGen := rfl
@[simp] theorem State.emit_units (s : State) (p : Nat) (f : Bool) (q : Option QSrc) (e : OutEv) : (s.emit p f q e).units = s.units := rfl
@[simp] theorem State.emit_prfLast (s : State) (p : Nat) (f : Bool) (q : Option QSrc) (e : OutEv) : (s.emit p f q e).prfLast = s.prfLast := rfl
@[simp] theorem State.emit_get_cluster (s : State) (p : Nat) (f : Bool) (q : Option QSrc) (e : OutEv) (j : Nat) : (s.emit p f q e).cluster j = s.cluster j := rfl
@[simp] theorem State.emit_get_chan (s : State) (p : Nat) (f : Bool) (q : Option QSrc) (e : OutEv) (j : Nat) : (s.emit p f q e).chan j = s.chan j := rfl
@[simp] theorem State.emit_get_line (s : State) (p : Nat) (f : Bool) (q : Option QSrc) (e : OutEv) (j : Nat) : (s.emit p f q e).line j = s.line j := rfl
@[simp] theorem State.emit_get_kid (s : State) (p : Nat) (f : Bool) (q : Option QSrc) (e : OutEv) (j : Nat) : (s.emit p f q e).kid j = s.kid j := rfl
@[simp] theorem State.emit_get_ctx (s : State) (p : Nat) (f : Bool) (q : Option QSrc) (e : OutEv) (j : Nat) : (s.emit p f q e).ctx j = s.ctx j := rfl
@[simp] theorem State.emit_get_part (s : State) (p : Nat) (f : Bool) (q : Option QSrc) (e : OutEv) (j : Nat) : (s.emit p f q e).part j = s.part j := rfl
@[simp] theorem State.emit_get_mq (s : State) (p : Nat) (f : Bool) (q : Option QSrc) (e : OutEv) (j : Nat) : (s.emit p f q e).mq j = s.mq j := rfl
@[simp] theorem State.emit_get_obj (s : State) (p : Nat) (f : Bool) (q : Option QSrc) (e : OutEv) (j : Nat) : (s.emit p f q e).obj j = s.obj j := rfl
@[simp] theorem State.emit_get_fence (s : State) (p : Nat) (f : Bool) (q : Option QSrc) (e : OutEv) (j : Nat) : (s.emit p f q e).fence j = s.fence j := rfl
@[simp] theorem State.emit_get_unit (s : State) (p : Nat) (f : Bool) (q : Option QSrc) (e : OutEv) (j : Nat) : (s.emit p f q e).unit j = s.unit j := rfl
@[simp] theorem State.emit_get_port (s : State) (p : Nat) (f : Bool) (q : Option QSrc) (e : OutEv) (j : Nat) : (s.emit p f q e).port j = s.port j := rfl
@[simp] theorem State.emit_get_caseLine (s : State) (p : Nat) (f : Bool) (q : Option QSrc) (e : OutEv) (j : Nat) : (s.emit p f q e).caseLine j = s.caseLine j := rfl
@[simp] theorem State.emit_get_region (s : State) (p : Nat) (f : Bool) (q : Option QSrc) (e : OutEv) (j : Nat) : (s.emit p f q e).region j = s.region j := rfl
@[simp] theorem State.emit_get_tensor (s : State) (p : Nat) (f : Bool) (q : Option QSrc) (e : OutEv) (j j' : Nat) : (s.emit p f q e).tensor j j' = s.tensor j j' := rfl
@[simp] theorem State.emit_get_layer (s : State) (p : Nat) (f : Bool) (q : Option QSrc) (e : OutEv) (j j' : Nat) : (s.emit p f q e).layer j j' = s.layer j j' := rfl

/-! ## say -/

@[simp] theorem State.say_pending (s : State) (e : OutEv) : (s.say e).pending = s.pending := rfl
@[simp] theorem State.say_freeCtr (s : State) (e : OutEv) : (s.say e).freeCtr = s.freeCtr := rfl
@[simp] theorem State.say_regs (s : State) (e : OutEv) : (s.say e).regs = s.regs := rfl
@[simp] theorem State.say_latch (s : State) (e : OutEv) : (s.say e).latch = s.latch := rfl
@[simp] theorem State.say_badacc (s : State) (e : OutEv) : (s.say e).badacc = s.badacc := rfl
@[simp] theorem State.say_colo (s : State) (e : OutEv) : (s.say e).colo = s.colo := rfl
@[simp] theorem State.say_coloGen (s : State) (e : OutEv) : (s.say e).coloGen = s.coloGen := rfl
@[simp] theorem State.say_msixOpen (s : State) (e : OutEv) : (s.say e).msixOpen = s.msixOpen := rfl
@[simp] theorem State.say_msixPend (s : State) (e : OutEv) : (s.say e).msixPend = s.msixPend := rfl
@[simp] theorem State.say_pwr (s : State) (e : OutEv) : (s.say e).pwr = s.pwr := rfl
@[simp] theorem State.say_sec (s : State) (e : OutEv) : (s.say e).sec = s.sec := rfl
@[simp] theorem State.say_mgt (s : State) (e : OutEv) : (s.say e).mgt = s.mgt := rfl
@[simp] theorem State.say_hif (s : State) (e : OutEv) : (s.say e).hif = s.hif := rfl
@[simp] theorem State.say_ports (s : State) (e : OutEv) : (s.say e).ports = s.ports := rfl
@[simp] theorem State.say_frt (s : State) (e : OutEv) : (s.say e).frt = s.frt := rfl
@[simp] theorem State.say_clusters (s : State) (e : OutEv) : (s.say e).clusters = s.clusters := rfl
@[simp] theorem State.say_dbg (s : State) (e : OutEv) : (s.say e).dbg = s.dbg := rfl
@[simp] theorem State.say_chans (s : State) (e : OutEv) : (s.say e).chans = s.chans := rfl
@[simp] theorem State.say_lines (s : State) (e : OutEv) : (s.say e).lines = s.lines := rfl
@[simp] theorem State.say_ctrs (s : State) (e : OutEv) : (s.say e).ctrs = s.ctrs := rfl
@[simp] theorem State.say_cases (s : State) (e : OutEv) : (s.say e).cases = s.cases := rfl
@[simp] theorem State.say_flushing (s : State) (e : OutEv) : (s.say e).flushing = s.flushing := rfl
@[simp] theorem State.say_kids (s : State) (e : OutEv) : (s.say e).kids = s.kids := rfl
@[simp] theorem State.say_retiring (s : State) (e : OutEv) : (s.say e).retiring = s.retiring := rfl
@[simp] theorem State.say_reads (s : State) (e : OutEv) : (s.say e).reads = s.reads := rfl
@[simp] theorem State.say_shown (s : State) (e : OutEv) : (s.say e).shown = s.shown := rfl
@[simp] theorem State.say_epochs (s : State) (e : OutEv) : (s.say e).epochs = s.epochs := rfl
@[simp] theorem State.say_halt (s : State) (e : OutEv) : (s.say e).halt = s.halt := rfl
@[simp] theorem State.say_vlat (s : State) (e : OutEv) : (s.say e).vlat = s.vlat := rfl
@[simp] theorem State.say_delivered (s : State) (e : OutEv) : (s.say e).delivered = s.delivered := rfl
@[simp] theorem State.say_egress (s : State) (e : OutEv) : (s.say e).egress = s.egress := rfl
@[simp] theorem State.say_regions (s : State) (e : OutEv) : (s.say e).regions = s.regions := rfl
@[simp] theorem State.say_colls (s : State) (e : OutEv) : (s.say e).colls = s.colls := rfl
@[simp] theorem State.say_skews (s : State) (e : OutEv) : (s.say e).skews = s.skews := rfl
@[simp] theorem State.say_tensors (s : State) (e : OutEv) : (s.say e).tensors = s.tensors := rfl
@[simp] theorem State.say_layers (s : State) (e : OutEv) : (s.say e).layers = s.layers := rfl
@[simp] theorem State.say_ckpts (s : State) (e : OutEv) : (s.say e).ckpts = s.ckpts := rfl
@[simp] theorem State.say_ckptId (s : State) (e : OutEv) : (s.say e).ckptId = s.ckptId := rfl
@[simp] theorem State.say_ctxs (s : State) (e : OutEv) : (s.say e).ctxs = s.ctxs := rfl
@[simp] theorem State.say_mqs (s : State) (e : OutEv) : (s.say e).mqs = s.mqs := rfl
@[simp] theorem State.say_objs (s : State) (e : OutEv) : (s.say e).objs = s.objs := rfl
@[simp] theorem State.say_objGen (s : State) (e : OutEv) : (s.say e).objGen = s.objGen := rfl
@[simp] theorem State.say_fences (s : State) (e : OutEv) : (s.say e).fences = s.fences := rfl
@[simp] theorem State.say_inflight (s : State) (e : OutEv) : (s.say e).inflight = s.inflight := rfl
@[simp] theorem State.say_sent (s : State) (e : OutEv) : (s.say e).sent = s.sent := rfl
@[simp] theorem State.say_parts (s : State) (e : OutEv) : (s.say e).parts = s.parts := rfl
@[simp] theorem State.say_bind (s : State) (e : OutEv) : (s.say e).bind = s.bind := rfl
@[simp] theorem State.say_bindErr (s : State) (e : OutEv) : (s.say e).bindErr = s.bindErr := rfl
@[simp] theorem State.say_bindPart (s : State) (e : OutEv) : (s.say e).bindPart = s.bindPart := rfl
@[simp] theorem State.say_sizesGen (s : State) (e : OutEv) : (s.say e).sizesGen = s.sizesGen := rfl
@[simp] theorem State.say_units (s : State) (e : OutEv) : (s.say e).units = s.units := rfl
@[simp] theorem State.say_prfLast (s : State) (e : OutEv) : (s.say e).prfLast = s.prfLast := rfl
@[simp] theorem State.say_get_cluster (s : State) (e : OutEv) (j : Nat) : (s.say e).cluster j = s.cluster j := rfl
@[simp] theorem State.say_get_chan (s : State) (e : OutEv) (j : Nat) : (s.say e).chan j = s.chan j := rfl
@[simp] theorem State.say_get_line (s : State) (e : OutEv) (j : Nat) : (s.say e).line j = s.line j := rfl
@[simp] theorem State.say_get_kid (s : State) (e : OutEv) (j : Nat) : (s.say e).kid j = s.kid j := rfl
@[simp] theorem State.say_get_ctx (s : State) (e : OutEv) (j : Nat) : (s.say e).ctx j = s.ctx j := rfl
@[simp] theorem State.say_get_part (s : State) (e : OutEv) (j : Nat) : (s.say e).part j = s.part j := rfl
@[simp] theorem State.say_get_mq (s : State) (e : OutEv) (j : Nat) : (s.say e).mq j = s.mq j := rfl
@[simp] theorem State.say_get_obj (s : State) (e : OutEv) (j : Nat) : (s.say e).obj j = s.obj j := rfl
@[simp] theorem State.say_get_fence (s : State) (e : OutEv) (j : Nat) : (s.say e).fence j = s.fence j := rfl
@[simp] theorem State.say_get_unit (s : State) (e : OutEv) (j : Nat) : (s.say e).unit j = s.unit j := rfl
@[simp] theorem State.say_get_port (s : State) (e : OutEv) (j : Nat) : (s.say e).port j = s.port j := rfl
@[simp] theorem State.say_get_caseLine (s : State) (e : OutEv) (j : Nat) : (s.say e).caseLine j = s.caseLine j := rfl
@[simp] theorem State.say_get_region (s : State) (e : OutEv) (j : Nat) : (s.say e).region j = s.region j := rfl
@[simp] theorem State.say_get_tensor (s : State) (e : OutEv) (j j' : Nat) : (s.say e).tensor j j' = s.tensor j j' := rfl
@[simp] theorem State.say_get_layer (s : State) (e : OutEv) (j j' : Nat) : (s.say e).layer j j' = s.layer j j' := rfl

/-- The one operation that changes a line of memory keeps the canonical form of the lines. -/
theorem State.setLine_wf (s : State) (k : Nat) (x : Line) (h : Memory.wf s.lines = true) :
    Memory.wf (s.setLine k x).lines = true := tput_wf _ _ _ _ h

/-- No line is listed at reset. -/
theorem reset_lines_wf : Memory.wf State.reset.lines = true := rfl

end Sys2Proof.Machine
end

