-- ==== Sys2Proof/Laws/Ops.lean ====
section
/-!
SUPPORT. What the shared operations do: a register cell reads what was written; raising a condition, marking an error and journaling
touch the registers, the interrupt messages and the journal's queue alone; a driver's write acts only where its page, its class and
its lock let it.
-/

namespace Sys2Proof.Machine

/-- A register that was written reads as written. -/
theorem State.setReg_same (s : State) (f : Nat) (b : Blk) (i o : Nat) {r v : Nat} (hv : v < 2 ^ 32) (hr : r < 2 ^ 32) :
    (s.setReg f b i o r v).reg f b i o r = v := by
  simp only [State.reg, State.setReg, tget_tput_same, BitVec.toNat_ofNat]
  rw [Nat.mod_eq_of_lt (Nat.xor_lt_two_pow hv hr)]
  simp

/-- A register of another cell keeps its value. -/
theorem State.setReg_ne (s : State) (f : Nat) (b : Blk) (i o r v : Nat) {f' : Nat} {b' : Blk} {i' o' : Nat} (r' : Nat)
    (h : regKey f' b' i' o' ≠ regKey f b i o) : (s.setReg f b i o r v).reg f' b' i' o' r' = s.reg f' b' i' o' r' := by
  simp only [State.reg, State.setReg]
  rw [tget_tput_ne _ _ h]

/-- Latching conditions changes the flags, and sends or marks at most one interrupt message. -/
theorem State.latchInt_keeps (s : State) (f : Nat) (b : Blk) (i m t : Nat) :
    ∃ r e p, s.latchInt f b i m t = { s with regs := r, egress := e, msixPend := p } := by
  unfold State.latchInt State.msix State.setReg State.emit
  simp only
  split
  · split
    · exact ⟨_, _, _, rfl⟩
    · exact ⟨_, _, _, rfl⟩
  · exact ⟨_, _, _, rfl⟩

/-- Raising a condition changes the flags, and sends or marks at most one interrupt message. -/
theorem State.raise_keeps (s : State) (b : Blk) (i n p : Nat) :
    ∃ r e m, s.raise b i n p = { s with regs := r, egress := e, msixPend := m } := by
  unfold State.raise
  split
  · exact s.latchInt_keeps ..
  · split <;> exact s.latchInt_keeps ..

/-- Counting changes a register. -/
theorem State.bump_keeps (s : State) (f : Nat) (b : Blk) (i o n : Nat) :
    ∃ r, s.bump f b i o n = { s with regs := r } := ⟨_, rfl⟩

/-- Marking an error bit changes registers. -/
theorem State.errBit_keeps (s : State) (b : Blk) (i n p : Nat) : ∃ r, s.errBit b i n p = { s with regs := r } := by
  unfold State.errBit State.setReg
  simp only
  split <;> exact ⟨_, rfl⟩

/-- Queueing a record changes the journal's queue. -/
theorem State.journal_keeps (s : State) (ty : RecType) (k : Nat) (l : List Byte) :
    ∃ q, s.journal ty k l = { s with mgt := { s.mgt with queue := q } } := by
  unfold State.journal
  simp only
  split
  · exact ⟨s.mgt.queue, rfl⟩
  · exact ⟨_, rfl⟩

/-- An event is queued, or counted as dropped. -/
theorem State.event_keeps (s : State) (c x d : Nat) :
    ∃ q r, s.event c x d = { s with mgt := { s.mgt with queue := q }, regs := r } := by
  unfold State.event State.bump State.setReg
  split
  · exact ⟨s.mgt.queue, _, rfl⟩
  · exact ⟨_, s.regs, rfl⟩

/-- A disallowed access is counted and recorded. -/
theorem State.badAccess_keeps (s : State) (f : Nat) (w b2 : Bool) (n o : Nat) :
    ∃ r x, s.badAccess f w b2 n o = { s with regs := r, badacc := x } := by
  unfold State.badAccess State.bump State.setReg
  simp only
  split
  · exact ⟨_, s.badacc, rfl⟩
  · exact ⟨_, _, rfl⟩

/-- A driver's write acts, is hidden, or is recorded as disallowed. -/
theorem State.driverWrite_cases (s : State) (f : Nat) (b : Blk) (i o : Nat) (lockable : Bool) (act : State → State) :
    s.driverWrite f b i o lockable act = act s ∨ s.driverWrite f b i o lockable act = s ∨
      s.driverWrite f b i o lockable act = s.badAccess f true false 4 (regOff b i o) := by
  unfold State.driverWrite
  split
  · split
    · exact .inr (.inr rfl)
    · exact .inr (.inl rfl)
  · exact .inr (.inr rfl)
  · split
    · exact .inr (.inr rfl)
    · exact .inl rfl

/-- A driver's write that its page, its class and its lock let act. -/
theorem State.driverWrite_go {s : State} {f : Nat} {b : Blk} {i o : Nat} {lockable : Bool} {act : State → State}
    (h : s.gate f b i true false = .go) (hl : lockable = true → s.lockHolds f b i = false) :
    s.driverWrite f b i o lockable act = act s := by
  unfold State.driverWrite
  rw [h]
  cases lockable
  · rfl
  · simp [hl rfl]

end Sys2Proof.Machine
end

