-- ==== Sys2Proof/Laws/Tile.lean ====
section
/-!
SUPPORT. Spec lemmas of the shared operations of tile code: what an issuing slot is, what the frame of an instruction does with its
body, and the Forme accesses.
-/

namespace Sys2Proof.Machine

/-- What an issuing slot is. -/
theorem issues_spec {s : State} {c : Nat} {a : TileAt} {x : Slot} {p : Prog} (h : s.issues c = some (a, x, p)) :
    (s.cluster c).running = some a.n ∧ (s.cluster c).slot a.n = some x ∧ x.prog = some p ∧ a.cl = c
      ∧ a.ctx = x.ctx.toNat ∧ a.src = p.src ∧ x.ended = false ∧ (s.cluster c).clear = false
      ∧ s.boundaryStop c x = false := by
  revert h
  simp only [State.issues]
  split
  · simp
  · split
    · simp
    · split
      · simp
      · split
        · simp
        · rename_i n h1 _ y h2 _ q h3 h4
          simp only [Option.some.injEq, Prod.mk.injEq, and_imp]
          rintro rfl rfl rfl
          simp_all

/-- A body that answers a slot retires the instruction. -/
theorem tileThen_runs {t : TileOp} {used : Bool} {after : TileAt → State → State} {body : TileAt → Slot → M Slot}
    {s u : State} {a : TileAt} {x y : Slot} {p : Prog} (hi : Issuing s t a x p) (hu : used = true)
    (hb : body a x.go s = .ok y u) : tileThen t used after body s = .next (after a (u.putSlot a y)) := by
  subst hu
  have hb' : body a { x with boundary := false } s = .ok y u := hb
  simp [tileThen, hi.slot, need, hi.code, bind, EStateM.bind, pure, EStateM.pure, hb']

/-- The same, where nothing follows the retirement. -/
theorem tileOp_runs {t : TileOp} {used : Bool} {body : TileAt → Slot → M Slot} {s u : State} {a : TileAt} {x y : Slot}
    {p : Prog} (hi : Issuing s t a x p) (hu : used = true) (hb : body a x.go s = .ok y u) :
    tileOp t used body s = .next (u.putSlot a y) :=
  tileThen_runs hi hu hb

/-- A body that ends early: the exit says what is left. -/
theorem tileThen_exit {t : TileOp} {used : Bool} {after : TileAt → State → State} {body : TileAt → Slot → M Slot}
    {s u : State} {a : TileAt} {x : Slot} {p : Prog} {e : Exit} (hi : Issuing s t a x p) (hu : used = true)
    (hb : body a x.go s = .error e u) : tileThen t used after body s = .next (s.tileExit u a.cl a.ctx a.src e) := by
  subst hu
  have hb' : body a { x with boundary := false } s = .error e u := hb
  simp [tileThen, hi.slot, need, hi.code, bind, EStateM.bind, pure, EStateM.pure, hb']

/-- Where no slot issues, nothing happens. -/
theorem tileThen_idle {t : TileOp} {used : Bool} {after : TileAt → State → State} {body : TileAt → Slot → M Slot} {s : State}
    (h : s.issues t.cl.toNat = none) : tileThen t used after body s = .next s := by simp [tileThen, h]

/-- A program counter outside the code (R82). -/
theorem tileThen_pc {t : TileOp} {used : Bool} {after : TileAt → State → State} {body : TileAt → Slot → M Slot} {s : State}
    {a : TileAt} {x : Slot} {p : Prog} (h : s.issues t.cl.toNat = some (a, x, p)) (hp : p.words ≤ x.pc) :
    tileThen t used after body s = .next (s.tileFault a.cl a.ctx a.src 0x1025 0 0).settle := by
  simp [tileThen, h, need, Nat.not_lt.mpr hp, bind, EStateM.bind, flt, State.tileExit]

/-- A taken branch within the code. -/
theorem jumpTo_ok {x : Slot} {off : Word64} {s : State} (h0 : 0 ≤ (x.pc : Int) + off.toInt)
    (h1 : (x.pc : Int) + off.toInt < (progWords x : Int)) :
    jumpTo x off s = .ok { x with pc := ((x.pc : Int) + off.toInt).toNat } s := by
  simp [jumpTo, need, h0, h1, bind, EStateM.bind, pure, EStateM.pure]

/-- The code of an issuing slot. -/
theorem progWords_go {x : Slot} {p : Prog} (h : x.prog = some p) : progWords x.go = p.words := by
  simp [progWords, Slot.go, h]

@[simp] theorem Slot.go_sreg (x : Slot) (r : BitVec 5) : x.go.sreg r = x.sreg r := by cases x; rfl
@[simp] theorem Slot.go_dreg (x : Slot) (r : Nat) : x.go.dreg r = x.dreg r := by cases x; rfl
@[simp] theorem Slot.go_greg (x : Slot) (r : Nat) : x.go.greg r = x.greg r := by cases x; rfl
@[simp] theorem Slot.go_stream (x : Slot) (n : Nat) : x.go.stream n = x.stream n := by cases x; rfl
@[simp] theorem Slot.go_pc (x : Slot) : x.go.pc = x.pc := by cases x; rfl
@[simp] theorem Slot.go_ptid (x : Slot) : x.go.ptid = x.ptid := by cases x; rfl
@[simp] theorem Slot.go_formeSize (x : Slot) : x.go.formeSize = x.formeSize := by cases x; rfl
@[simp] theorem Slot.go_formeBase (x : Slot) : x.go.formeBase = x.formeBase := by cases x; rfl
@[simp] theorem Slot.go_galRows (x : Slot) : x.go.galRows = x.galRows := by cases x; rfl
@[simp] theorem Slot.go_galBase (x : Slot) : x.go.galBase = x.galBase := by cases x; rfl

/-- An aligned access within the share (R50, R84). -/
theorem formeAligned_ok {x : Slot} {addr len al : Nat} {s : State} (ha : addr % al = 0) (hl : addr + len ≤ x.formeSize) :
    formeAligned x addr len al s = .ok (x.formeBase + addr) s := by
  simp [formeAligned, formeAddr, need, ha, hl, bind, EStateM.bind, pure, EStateM.pure]

/-- A read of the share, of words without a double-bit error. -/
theorem readForme_ok {a : TileAt} {x : Slot} {u : Upset} {addr len al : Nat} {s : State} (hu : u ≠ .formeUE)
    (ha : addr % al = 0) (hl : addr + len ≤ x.formeSize) :
    readForme a x u addr len al s
      = .ok (((s.upsetSeen a u).cluster a.cl).formeRead (x.formeBase + addr) len) (s.upsetSeen a u) := by
  cases u <;>
    simp_all [readForme, bind, EStateM.bind, formeAligned_ok ha hl, formeUpset, pure, EStateM.pure, onCluster, look, upd,
      State.upsetSeen]

/-- A write of the share. -/
theorem writeForme_ok {a : TileAt} {x : Slot} {addr al : Nat} {d : List Byte} {s : State} (ha : addr % al = 0)
    (hl : addr + d.length ≤ x.formeSize) :
    writeForme a x addr d al s = .ok () (s.setCluster a.cl ((s.cluster a.cl).formeWrite (x.formeBase + addr) d)) := by
  simp [writeForme, bind, EStateM.bind, formeAligned_ok ha hl, updCluster, upd]

end Sys2Proof.Machine
end

