-- ==== Sys2Proof/Laws/Va.lean ====
section
/-!
SUPPORT. What a read of host memory through a mapping answers.
-/

namespace Sys2Proof.Machine

/-- The pieces of a range cover it, each byte once and in order. -/
theorem pieces_cover {α : Type} (f : Nat → α) (off len : Nat) :
    ((pieces off len).map fun p => (List.range p.2).map fun i => f (p.1 + i)).flatten = (List.range len).map fun i => f (off + i) := by
  have h : ∀ fuel off len, len = 0 ∨ off % 64 + len ≤ 64 * fuel →
      ((linePieces fuel off len).map fun p => (List.range p.2).map fun i => f (p.1 + i)).flatten = (List.range len).map fun i => f (off + i) := by
    intro fuel
    induction fuel with
    | zero => intro off len h; have : len = 0 := by omega
              subst this; rfl
    | succ k ih =>
      intro off len h
      rw [linePieces]
      by_cases h0 : len = 0
      · subst h0; rfl
      · rw [if_neg h0]
        have hm : min len (64 - off % 64) ≤ len := Nat.min_le_left _ _
        have hn : len - min len (64 - off % 64) = 0 ∨
            (off + min len (64 - off % 64)) % 64 + (len - min len (64 - off % 64)) ≤ 64 * k := by omega
        simp only [List.map_cons, List.flatten_cons, ih _ _ hn]
        have e : len = min len (64 - off % 64) + (len - min len (64 - off % 64)) := by omega
        conv_rhs => rw [e, List.range_add]
        simp only [List.map_append, List.map_map, Nat.add_assoc]
        rfl
  exact h _ _ _ (by omega)

theorem pieces_ge (off len : Nat) : ∀ p ∈ pieces off len, off ≤ p.1 := by
  have h : ∀ fuel off len, ∀ p ∈ linePieces fuel off len, off ≤ p.1 := by
    intro fuel
    induction fuel with
    | zero => intro off len p hp; simp [linePieces] at hp
    | succ k ih =>
      intro off len p hp
      rw [linePieces] at hp
      split at hp
      · simp at hp
      · rcases List.mem_cons.mp hp with rfl | hp
        · exact Nat.le_refl _
        · exact Nat.le_trans (Nat.le_add_right _ _) (ih _ _ p hp)
  exact h _ _ _

/-- A list of computations that leave the state. -/
theorem run_mapM_same {α β : Type} (g : α → M β) (f : α → β) (t : State) (l : List α) (h : ∀ a ∈ l, g a t = .ok (f a) t) :
    (l.mapM g) t = .ok (l.map f) t := by
  induction l with
  | nil => rfl
  | cons a l ih =>
    rw [List.mapM_cons, run_bind, h a (List.mem_cons_self ..)]
    simp only [run_bind, ih fun b hb => h b (List.mem_cons_of_mem _ hb), run_pure, List.map_cons]

/-- A read at addresses of one range onto a host object: the bytes that the host holds there, and the state stays. -/
theorem vread_host {v : Via} {a : Agent} {miss va len : Nat} {t : State} {r : MapRange} {o : Obj}
    (hr : ∀ p ∈ pieces va len, (t.ctx (ctxOf v.src)).rangeAt p.1 = some r) (hread : r.read = true) (hva : r.va ≤ va)
    (ho : t.obj (r.handle.toNat % 2 ^ 20) = some o) (hh : o.host = true) (ha : hostAccess v t = .ok () t) (hf : v.env.hostFail = none) :
    vread v a miss va len t = .ok ((List.range len).map fun i =>
      hostByte v.env (hostSpace (some (t.ctx (ctxOf v.src)).pasid)) (o.base + r.off + (va - r.va) + i)) t := by
  have hp : ∀ p ∈ pieces va len,
      (do let (o, off) ← xlate v miss p.1 false
          objReadPiece v a o off p.2 : M (List Byte)) t =
        .ok ((List.range p.2).map fun i =>
          hostByte v.env (hostSpace (some (t.ctx (ctxOf v.src)).pasid)) (o.base + r.off + (p.1 + i - r.va))) t := by
    intro p hmem
    have hge := pieces_ge va len p hmem
    have hx : xlate v miss p.1 false t = .ok (o, r.off + (p.1 - r.va)) t := by
      simp only [xlate, run_bind, run_look, hr p hmem]
      simp only [hread, Bool.false_eq_true, if_false, Bool.not_true, run_bind, run_look, ho, run_pure]
    rw [run_bind, hx]
    simp only [objReadPiece, hh, if_true, run_bind, run_look, hostRead, ha, hf, run_pure]
    congr 1
    refine List.map_congr_left fun i _ => ?_
    congr 1
    omega
  rw [vread, run_bind, run_mapM_same _ _ t _ hp]
  simp only [run_pure]
  congr 1
  rw [pieces_cover (fun n => hostByte v.env (hostSpace (some (t.ctx (ctxOf v.src)).pasid)) (o.base + r.off + (n - r.va))) va len]
  refine List.map_congr_left fun i _ => ?_
  congr 1
  omega

end Sys2Proof.Machine
end

