-- ==== Sys2Proof/Tests/Slice0.lean ====
section
/-!
SUPPORT. The tests: ill-formed commands that the checks refuse, words of tile code, a witness for the hypotheses of each statement,
and single steps with results worked out from the spec.
-/

namespace Sys2Proof.Tests

open Sys2Proof.Machine

/- One theorem at a time: the kernel evaluations below do not share the memory well. -/
set_option Elab.async false

/-! ## States that the tests use -/

/-- Descriptor bytes 1 to 63 from the fields given: (offset, value), with the offsets of R348. -/
def desc (l : List (Nat × Nat)) : BitVec 504 := BitVec.ofNat 504 ((l.map fun e => e.2 * 2 ^ (8 * (e.1 - 1))).sum)

/-- Queue 0 of context 0 with one descriptor waiting. -/
def queue0 : Queue := {
  num := 0, ring := 0x10000, cpl := 0x20000, size := 16, irq := false, vector := 0, prio := 0, head := 0, tail := 1, done := 0 }

/-- Where context 0 lies on its cluster. -/
def placed0 : Placed := { slot := 0, formeBase := 65536, formeSize := 131072, galBase := 128, galRows := 512 }

/-- Context 0 of partition 0. -/
def ctx0 : Context := { Context.reset with
  bound := true, part := 0, pasid := 7, state := .runnable, queues := [(0, some queue0)], placed := some placed0 }

/-- Quotas of partition 0 for objects, contexts and queues, fences, ranges, tensors and layers, and key-cache entries. -/
def quotas (s : State) : State :=
  (((((s.setReg 1 .cmdp 0 0x68 0 64).setReg 1 .cmdp 0 0x64 0 0x00400040).setReg 1 .cmdp 0 0x6C 0 64).setReg 1 .iommu 0 0x44 0 64).setReg
    1 .scl 0 0x44 0 0x00400040).setReg 1 .seal 0 0x64 0 64

/-- A device in SERVICE: partition 0 is ACTIVE with cluster 0, its TDI is in RUN, context 0 holds its slice and has a descriptor waiting,
as has management queue 0. -/
def base : State := quotas { State.reset with
  pwr := { Pwr.reset with state := .service }
  hif := { Hif.reset with up := true, rate := 3, width := 16, cacheOn := true, ide := 3, tdi := [(0, .run)] }
  parts := [(0, { Partition.reset with state := .active, holder := some 0, extents := [(0, [0, 1])] })]
  clusters := [(0, { Cluster.reset with owner := 0 })]
  chans := [(0, { Channel.reset with owner := 0 }), (1, { Channel.reset with owner := 0 })]
  ctxs := [(0, ctx0)]
  mqs := [(0, { MgmtQ.reset with enable := true, tail := 1 })] }

/-- The command in the test programs' queue. -/
def src0 : QSrc := .ctx 0 0

/-- A program of eight instructions. -/
def prog0 : Prog := { src := src0, words := 8, entry := 0, args := [], quiet := false }

/-- A slot of context 0 at instruction 2: s1 = s2 = 64, s3 = 7, s4 = 131008, the last line of its Forme share. -/
def slot0 : Slot := { newSlot 0 placed0 with
  prog := some prog0, pc := 2, boundary := false, s := [(1, 64), (2, 64), (3, 7), (4, 131008)] }

/-- Where the slot runs. -/
def at0 : TileAt := { cl := 0, n := 0, ctx := 0, src := src0 }

/-- Cluster 0 runs a slot. -/
def onTile (k : Cluster) (x : Slot) : State := { base with
  clusters := [(0, { k with owner := 0, running := some 0, slots := [(0, some x)] })] }

/-- The state in which the slot of the tests issues. -/
def tile0 : State := onTile Cluster.reset slot0

/-- A tile instruction of cluster 0 with its fields. -/
def op (a b c : BitVec 5) (x : BitVec 7) (imm : Word32) : TileOp := { cl := 0, a := a, b := b, c := c, x := x, imm := imm, up := .clean }

/-- A command at the head of the context's queue, and one at the head of management queue 0. -/
def cmd (l : List (Nat × Nat)) : CmdIn := { src := src0, d := desc l, env := Env.quiet }

def cmdM (l : List (Nat × Nat)) : CmdIn := { src := .mgmt 0, d := desc l, env := Env.quiet }

theorem issuing (s : State) (t : TileOp) (a : TileAt) (x : Slot) (p : Prog)
    (h : (decide (s.issues t.cl.toNat = some (a, x, p)) && decide (x.pc < p.words)) = true) : Issuing s t a x p := by
  rw [Bool.and_eq_true, decide_eq_true_iff, decide_eq_true_iff] at h
  exact ⟨h.1, h.2⟩

/-- The state in which an admitted command begins, if it is admitted. -/
def admitted (s : State) (o : Nat) (who : Nat → Bool → Bool → Bool) (form : Nat → Bool) (q : CmdIn) : Option State :=
  match s.cmdOf q.src, s.memBusy q.src, s.fetch q.src with
  | none, false, some (idx, u) =>
    let v : State := { u with inflight := u.inflight ++ [fetchedCmd q o idx] }
    let d := descOf q o
    let w := v.sliceFor o (v.partOf q.src) (ctxOf q.src)
    if syncForm d (isMgmt q.src) && form d && who d (isMgmt q.src) (v.ctx (ctxOf q.src)).admin && v.syncUse q.src d == 0
        && (descSync d != 2 || decide (v.waitEnd (descSlot d) (descValue d) = some 0)) && v.mayDispatch o d q.src
        && w.hasSlice o (v.partOf q.src) (ctxOf q.src)
    then some (w.countSent q.src (v.partOf q.src)) else none
  | _, _, _ => none

theorem admits_of (s : State) (o : Nat) (who : Nat → Bool → Bool → Bool) (form : Nat → Bool) (q : CmdIn) (t : State)
    (h : admitted s o who form q = some t) : s.admits o who form q t := by
  unfold admitted at h
  split at h
  · next idx u h1 h0 h2 =>
    simp only [Bool.and_eq_true, beq_iff_eq, Bool.or_eq_true, bne_iff_ne, decide_eq_true_eq, Option.ite_none_right_eq_some,
      Option.some.injEq] at h
    obtain ⟨⟨⟨⟨⟨⟨⟨a, b⟩, c⟩, d⟩, e⟩, f⟩, g⟩, hh⟩ := h
    exact ⟨_, ⟨idx, u, h1, h0, h2, rfl⟩, a, b, c, d, fun hd => e.resolve_left (fun hn => hn hd), f, g, hh.symm⟩
  · exact absurd h (by simp)

/-- An admitted command whose first state has a property. -/
theorem admits_with (s : State) (o : Nat) (who : Nat → Bool → Bool → Bool) (form : Nat → Bool) (q : CmdIn) (f : State → Bool)
    (h : (match admitted s o who form q with
      | some t => f t
      | none => false) = true) : ∃ t, s.admits o who form q t ∧ f t = true := by
  cases e : admitted s o who form q with
  | none => rw [e] at h; exact absurd h (by simp)
  | some t => rw [e] at h; exact ⟨t, admits_of s o who form q t e, h⟩

/-- A computation succeeds, and what it answers has a property. -/
def okThen {α : Type} (m : M α) (s : State) (f : α → State → Bool) : Bool :=
  match m s with
  | .ok a t => f a t
  | .error _ _ => false

theorem okThen_iff {α : Type} (m : M α) (s : State) (f : α → State → Bool) :
    okThen m s f = true ↔ ∃ a t, m s = .ok a t ∧ f a t = true := by
  unfold okThen
  split
  · next a t h => exact ⟨fun hf => ⟨a, t, h, hf⟩, fun ⟨a', t', h', hf⟩ => by rw [h] at h'; cases h'; exact hf⟩
  · next h => exact ⟨fun hf => absurd hf (by simp), fun ⟨_, _, h', _⟩ => by rw [h] at h'; cases h'⟩

/-! ## Ill-formed commands -/

theorem test_wf_reserved_instruction :
    (Instr.reservedInstruction 0 0x3F (op 0 0 0 0 0)).wellFormed = false ∧ (Instr.reservedInstruction 0 6 (op 0 0 0 0 0)).wellFormed = true ∧
    (Instr.reservedInstruction 15 0 (op 0 0 0 0 0)).wellFormed = true := by decide

theorem test_wf_reserved_opcode :
    (Instr.reservedDescriptor 0xD2 { src := src0, d := 0, env := Env.quiet }).wellFormed = false ∧
    (Instr.reservedDescriptor 0xD3 { src := src0, d := 0, env := Env.quiet }).wellFormed = true := by decide

theorem test_wf_mailbox_opcode : mailboxListed 7 = false ∨ mailboxListed 8 = true → False := by decide

theorem test_wf_register_size :
    (Instr.registerRead { fn := 0, bar2 := false, off := 0, size := 3 }).wellFormed = false ∧
    (Instr.registerWrite { fn := 0, bar2 := false, off := 0, size := 16, value := 0 }).wellFormed = false ∧
    (Instr.registerRead { fn := 0, bar2 := false, off := 0, size := 8 }).wellFormed = true := by decide

theorem test_wf_replica_count : (Instr.digestExchange src0 (List.replicate 1024 0)).wellFormed = false := by decide +kernel

theorem test_wf_thermal_readings : (Instr.thermalGovernorTick (List.replicate 65 0)).wellFormed = false := by decide +kernel

/-! ## Words of tile code

CLASS is bits 63 to 60, OP 59 to 54, A 53 to 49, B 48 to 44, C 43 to 39, X 38 to 32 and IMM 31 to 0 (R74). -/

/-- PASS.OW with A = 0, B = 0 and IMM = 0x0011_0000: class 3, OP 1. -/
theorem test_decode_pass : tileDecode 0 .clean (0x3040000000110000 : Word64) = .passOw (op 0 0 0 0 0x00110000) := by decide +kernel

/-- DRAIN with A = 11, B = 12 and IMM = 0x0008_0000: class 4, OP 0, A = 01011, B = 01100. -/
theorem test_decode_drain : tileDecode 0 .clean (0x4016C00000080000 : Word64) = .drain (op 11 12 0 0 0x00080000) := by decide +kernel

/-- WAITR of stream 1 for 2048 lines: class 2, OP 6. -/
theorem test_decode_waitr : tileDecode 0 .clean (0x2180000100000800 : Word64) = .waitr (op 0 0 0 1 2048) := by decide +kernel

/-- TBND: class 9, OP 0. -/
theorem test_decode_tbnd : tileDecode 0 .clean (0x9000000000000000 : Word64) = .tbnd (op 0 0 0 0 0) := by decide +kernel

/-- ADD s3 = s1 + s2: class 1, OP 0, A = 00011, B = 00001, C = 00010. -/
theorem test_decode_add : tileDecode 0 .clean (0x1006110000000000 : Word64) = .add (op 3 1 2 0 0) := by decide +kernel

/-- END: class 0, OP 0x3F. -/
theorem test_decode_end : tileDecode 0 .clean (0x0FC0000000000000 : Word64) = .endProg (op 0 0 0 0 0) := by decide +kernel

/-- Class 0xF is reserved. -/
theorem test_decode_reserved : tileDecode 0 .clean (0xF000000000000000 : Word64) = .reservedInstruction 15 0 (op 0 0 0 0 0) := by
  decide +kernel

/-! ## Witnesses: tile code -/

/-- NOP; JMP to the first and to the last instruction; a branch that is taken and one that is not, whose target may lie outside the
code; LOOP that goes on and LOOP that ends; a reserved pair. -/
theorem witness_ControlInstructions :
    Issuing tile0 (op 0 0 0 0 0) at0 slot0 prog0 ∧ fits (op 0 0 0 0 0) false false false 0 0 = true ∧
    fits (op 0 0 0 0 0xFFFFFFFE) false false false 0 immAll = true ∧ branchTo (op 0 0 0 0 0xFFFFFFFE) slot0 = 0 ∧
    branchTo (op 0 0 0 0 5) slot0 = 7 ∧
    (fits (op 1 2 0 0 5) true true false 0 immAll = true ∧ slot0.sreg 1 = slot0.sreg 2) ∧
    (fits (op 1 3 0 0 100) true true false 0 immAll = true ∧ slot0.sreg 1 ≠ slot0.sreg 3 ∧ branchTo (op 1 3 0 0 100) slot0 = 102) ∧
    (fits (op 3 1 0 0 5) true true false 0 immAll = true ∧ (slot0.sreg 3).toNat < (slot0.sreg 1).toNat) ∧
    (fits (op 3 0 0 0 5) true false false 0 immAll = true ∧ (slot0.go.setS 3 (slot0.sreg 3 - 1)).sreg 3 = 6) ∧
    (fits (op 0 0 0 0 5) true false false 0 immAll = true ∧ (slot0.go.setS 0 (slot0.sreg 0 - 1)).sreg 0 = 0) ∧
    (Instr.reservedInstruction 9 1 (op 0 0 0 0 0)).wellFormed = true :=
  ⟨issuing _ _ _ _ _ (by decide +kernel), by and_intros <;> decide +kernel⟩

/-- Two registers, with the destination s0 and with another; a register and IMM, with IMM negative; and what moves between registers,
the Forme store and the sizes, each at the last address or the last number that its rule admits. -/
theorem witness_ScalarInstructions :
    Issuing tile0 (op 0 1 2 0 0) at0 slot0 prog0 ∧ fits (op 0 1 2 0 0) true true true 0 0 = true ∧
    fits (op 31 1 2 0 0) true true true 0 0 = true ∧
    fits (op 5 1 0 0 0xFFFFFFFF) true true false 0 immAll = true ∧ fits (op 5 0 0 0 0xFFFFFFFF) true false false 0 immAll = true ∧
    (fits (op 7 3 0 0 0) true true false 0 0 = true ∧ (7 : BitVec 5).toNat < 8) ∧
    (fits (op 5 4 0 0 56) true true false 0 immAll = true ∧ (slot0.sreg 4 + simm (op 5 4 0 0 56)).toNat = 131064 ∧
      131064 % 8 = 0 ∧ 131064 + 8 ≤ slot0.formeSize) ∧
    (fits (op 0 4 1 0 56) false true true 0 immAll = true) ∧
    (fits (op 5 0 0 0 4) true false false 0 immAll = true) ∧
    (fits (op 0 1 2 0 0) false true true 0 0 = true ∧ slot0.sreg 1 = slot0.sreg 2) ∧ fits (op 0 1 0 0 0) false true false 0 0 = true ∧
    (fits (op 0 0 0 15 0) false false false 15 0 = true ∧ (tile0.cluster 0).arrayDone 0 slot0 = true ∧
      (tile0.cluster 0).drainsDone 0 = true) :=
  ⟨issuing _ _ _ _ _ (by decide +kernel), by and_intros <;> decide +kernel⟩

/-- A slot whose program counter is the first that lies outside its code. -/
theorem witness_ProgramCounterRange :
    tileParts (.add (op 1 2 3 0 0)) = some (1, 0, op 1 2 3 0 0) ∧ (Instr.add (op 1 2 3 0 0)).wellFormed = true ∧
    (onTile Cluster.reset { slot0 with pc := 8 }).issues 0 = some (at0, { slot0 with pc := 8 }, prog0) ∧ prog0.words ≤ 8 := by
  decide +kernel

/-- A stream descriptor of one row of one line in BF16 at 0x1000: BASE, EXTENT, the counts and FORMAT (R97). -/
def desc0 : BitVec 512 :=
  BitVec.ofNat 512 (0x1000 + 64 * 2 ^ 64 + 2 ^ 256 + 2 ^ 272 + 2 ^ 288 + 2 ^ 304 + 7 * 2 ^ 320)

/-- The same in FP8 E4M3 with TRANSPOSE, 64 rows to a group. -/
def descT : BitVec 512 :=
  BitVec.ofNat 512 (0x1000 + 4096 * 2 ^ 64 + 2 ^ 256 + 64 * 2 ^ 272 + 2 ^ 288 + 2 ^ 304 + 0x10 * 2 ^ 320)

/-- A stream that has one line in its ring and one in flight. -/
def stream0 : Stream := {
  desc := desc0, ring := 0, size := 16, fetched := 2, arrived := 1, consumed := 0, flight := [5], group := [], stopped := false }

/-- A slot with descriptors and a stream. -/
def slotS : Slot := { slot0 with d := [(0, desc0), (15, descT)], streams := [(1, some stream0)] }

/-- The cluster's state with that slot. -/
def tileS : State := onTile Cluster.reset slotS

theorem witness_StreamAndPassInstructions :
    Issuing tileS (op 0 0 0 0 0) at0 slotS prog0 ∧
    (fits (op 15 1 0 10 0) true true false 127 0 = true ∧ descField 10 = some (42, 4)) ∧
    (fits (op 15 0 0 9 1) true false false 127 immAll = true ∧ descField 9 = some (40, 1)) ∧
    (fits (op 15 4 0 0 0) true true false 0 immAll = true ∧ (slotS.sreg 4 + simm (op 15 4 0 0 0)).toNat = 131008 ∧
      131008 % 64 = 0 ∧ 131008 + 64 ≤ slotS.formeSize) ∧
    fits (op 15 0 0 0 0) true true false 0 0 = true ∧
    (fits (op 0 1 0 0 16) true true false 3 immAll = true ∧ slotS.stream 0 = none ∧ descOk (slotS.dreg 0) = true ∧
      dTranspose (slotS.dreg 0) = false ∧ dExtent (slotS.dreg 0) ≠ 0 ∧ (slotS.sreg 1).toNat % 64 = 0 ∧
      (slotS.sreg 1).toNat + 64 * 16 ≤ slotS.formeSize) ∧
    (fits (op 15 1 0 0 64) true true false 3 immAll = true ∧ descOk (slotS.dreg 15) = true ∧ dTranspose (slotS.dreg 15) = true ∧
      isMx (dFmt (slotS.dreg 15)) = false ∧ dRows (slotS.dreg 15) % dGroup (slotS.dreg 15) = 0 ∧ dGroup (slotS.dreg 15) = 64 ∧
      (slotS.sreg 1).toNat + 64 * 64 ≤ slotS.formeSize) ∧
    (fits (op 0 0 0 2 0) false false false 3 0 = true ∧ slotS.stream 2 = none) ∧
    (slotS.stream 1 = some stream0 ∧ fits (op 0 0 0 1 1) false false false 3 immAll = true ∧ 1 ≤ tileS.lookahead 0 stream0 ∧
      stream0.consumed + 1 ≤ stream0.arrived ∧ fits (op 5 0 0 1 0) true false false 3 0 = true) := by
  refine ⟨issuing _ _ _ _ _ (by decide +kernel), by and_intros <;> decide +kernel⟩

/-- A pass that is not sampled, as the Proof unit of its quadrant is offline: both operands resident, 16 chunks, on the last 128 rows
of the share, and a drain of all of them. -/
theorem witness_PassAndDrain :
    let s : State := { tile0 with units := [(0, { ProofUnit.reset with online := false }), (1, { ProofUnit.reset with online := false }),
      (2, { ProofUnit.reset with online := false }), (3, { ProofUnit.reset with online := false })] }
    let t := op 1 2 0 0 0x00920180
    Issuing s t at0 slot0 prog0 ∧ fits t true true false 0x70 0xFFFFEFFF = true ∧ passForm 0 0 = some (128, 16) ∧
    bits t.imm.toNat 31 28 = 0 ∧ bits t.imm.toNat 27 24 = 0 ∧ bits t.imm.toNat 23 21 = 4 ∧ bits t.imm.toNat 20 18 = 4 ∧
    bits t.imm.toNat 17 13 = 16 ∧ slot0.sourceOk 4 0 = true ∧ (slot0.sreg t.a).toNat % 64 = 0 ∧ bits t.imm.toNat 11 0 + 128 ≤ slot0.galRows ∧
    (s.cluster 0).passWait = none ∧ s.samples 0 0 slot0.ptid = false ∧
    (fits (op 1 2 0 0 (512 * 4096)) true true false 0x70 0x01FFFFFF = true ∧ bits (512 * 4096) 24 12 = 512 ∧ 512 ≤ slot0.galRows ∧
      (s.cluster 0).drains = [] ∧ (s.cluster 0).rowsOut = []) := by
  refine ⟨issuing _ _ _ _ _ (by decide +kernel), by and_intros <;> decide +kernel⟩

/-- Nothing of the slot is under way. -/
theorem witness_TileBoundary :
    Issuing tile0 (op 0 0 0 0 0) at0 slot0 prog0 ∧ fits (op 0 0 0 0 0) false false false 0 0 = true ∧
    (tile0.cluster 0).arrayDone 0 slot0 = true ∧ (tile0.cluster 0).drainsDone 0 = true ∧ slot0.streams = [] :=
  ⟨issuing _ _ _ _ _ (by decide +kernel), by and_intros <;> decide +kernel⟩

/-- The cluster of the vector tests: v1 and v2 hold 1.0 in lane 0, the top-k list has room for 1024. -/
def clusterV : Cluster := { Cluster.reset with v := [(1, 0x3F800000), (2, 0x3F800000)], k := 1024 }

/-- A declared tensor. -/
def tensor0 : Tensor := {
  layer := 0, kind := 0, scope1 := false, ufWatch := false, fallbackOk := false, fmt := 7, delayed := true, histLen := 2, margin := 0, xInit := 0
  xMin := -10, xMax := 10, downMax := 1, onOvf := .saturate, ovfShift := 0, retries := 0, x := 3, hist := [0, 0x3F800000], stepMax := 0
  runMax := 0, last := 0, nonfin := false, fallback := false, marked := false, cmdRuns := 0, reruns := 0, writer := none }

/-- The vector engine's state: tensor 3 is declared. -/
def tileV : State := { onTile clusterV slot0 with tensors := [(3, some tensor0)] }

/-- Lane operations with three registers, with four, with two and of a scalar; a vector of FP32 that ends with the share; the
reductions; the top-k list at its greatest length; and a declared tensor's scale and report. -/
theorem witness_VectorInstructions :
    Issuing tileV (op 0 0 0 0 0) at0 slot0 prog0 ∧ fits (op 3 1 2 0 0) true true true 0 0 = true ∧
    fits (op 3 1 2 0x7C 0) true true true 0x7C 0 = true ∧ fits (op 3 1 0 0 0) true true false 0 0 = true ∧
    (fits (op 3 4 0 9 0xFFFFFC40) true true false 15 immAll = true ∧ (vectorFormat 9).map (·.width) = some 32 ∧
      (slot0.sreg 4 + simm (op 3 4 0 9 0xFFFFFC40)).toNat + 32 * 32 = slot0.formeSize) ∧
    (fits (op 0 0 0 0 1024) false false false 0 immAll = true) ∧
    (fits (op 0 1 3 0 0) false true true 0 0 = true ∧ (tileV.cluster 0).k = 1024) ∧
    (fits (op 0 1 0 0 0) false true false 0 0 = true ∧ (slot0.sreg 1).toNat % 64 = 0 ∧
      (slot0.sreg 1).toNat + 8 * 1024 ≤ slot0.formeSize) ∧
    (tileV.tensor 0 3 = some tensor0 ∧ fits (op 5 0 0 0 3) true false false 0 0xFFFF = true ∧
      fits (op 0 1 0 0 3) false true false 0 0xFFFF = true) :=
  ⟨issuing _ _ _ _ _ (by decide +kernel), by and_intros <;> decide +kernel⟩

/-- The destination is s0, and another register. -/
theorem witness_ScalarFrame :
    Issuing tile0 (op 0 1 2 0 0) at0 slot0 prog0 ∧ fits (op 0 1 2 0 0) true true true 0 0 = true ∧
    Instr.remu (op 0 1 2 0 0) ∈ [Instr.add (op 0 1 2 0 0), .remu (op 0 1 2 0 0)] ∧
    fits (op 31 1 0 0 0xFFFFFFFF) true true false 0 immAll = true :=
  ⟨issuing _ _ _ _ _ (by decide +kernel), by and_intros <;> decide +kernel⟩

/-- Object 5 of partition 0: 64 KiB of host memory. -/
def hostObj : Obj := {
  gen := 1, owner := 0, part := 0, pasid := 7, host := true, staging := false, ext := 0, kid := 0, base := 0x100000, len := 0x10000
  retiring := false, freeing := false, holds := 1, signal := none, signaller := 0 }

/-- Its handle: generation 1, index 5. -/
def handle0 : Nat := 0x100005

/-- The range that maps it at 0x1000. -/
def range0 : MapRange := { va := 0x1000, len := 0x10000, handle := BitVec.ofNat 32 handle0, off := 0, read := true, write := true, exec := true }

/-- A state in which the context maps the object. -/
def mapped (s : State) : State := { s with objs := [(5, some hostObj)], objGen := [(5, 1)], ctxs := [(0, { ctx0 with ranges := [range0] })] }

/-- A stream of two rows, of which one line has been fetched. -/
def streamF : Stream := { stream0 with
  desc := BitVec.ofNat 512 (desc0.toNat + 2 ^ 272), fetched := 1, arrived := 1, flight := [] }

/-- A TRANSPOSE stream whose group lacks one line of 64, and one that lacks two. -/
def streamT (n : Nat) : Stream := { stream0 with desc := descT, size := 64, fetched := 64, arrived := 0, flight := [1], group := List.replicate n 0 }

/-- The slot of the stream engines' tests. -/
def slotE : Slot := { slot0 with streams := [(0, some streamF), (1, some stream0), (2, some (streamT 62)), (3, some (streamT 63))] }

def tileE : State := mapped (onTile Cluster.reset slotE)

/-- A line to fetch; a line in flight; a group that a line does not complete, and one that it does. -/
theorem witness_StreamEngines :
    tileE.issues 0 = some (at0, slotE, prog0) ∧
    (slotE.stream 0 = some streamF ∧ streamF.fetched < dTotal streamF.desc ∧
      streamF.fetched - streamF.consumed < tileE.lookahead 0 streamF ∧
      okThen (sowRead at0 Env.quiet (sourceLine streamF.desc 1).1
        (sourceBytes streamF.desc (sourceLine streamF.desc 1).1 (sourceLine streamF.desc 1).2)) tileE
        (fun _ u => ((u.cluster 0).slot 0).isSome) = true) ∧
    (slotE.stream 1 = some stream0 ∧ stream0.flight = [5] ∧ dTranspose stream0.desc = false) ∧
    (slotE.stream 2 = some (streamT 62) ∧ dTranspose (streamT 62).desc = true ∧
      (streamT 62).group.length + 1 ≠ dGroup (streamT 62).desc) ∧
    (slotE.stream 3 = some (streamT 63) ∧ (streamT 63).group.length + 1 = dGroup (streamT 63).desc) := by
  and_intros <;> decide +kernel

/-- A drain of one row, whose record lies at the start of the share: BF16 with both factors 1.0 in the record; to the Forme store,
or, with DEST_MEM and ZERO, to memory. -/
def drain0 : Drain := { slot := 0, row := 128, rows := 1, dest := 0x1000, recAt := 0 }

def record0 (flags : Nat) : LineData :=
  BitVec.ofNat 512 (0x3000 + 7 * 64 + flags + 0x3F800000 * 2 ^ 96 + 0x3F800000 * 2 ^ 128 + 256 * 2 ^ 256)

def clusterD (flags : Nat) : Cluster := { Cluster.reset with forme := [(1024, record0 flags)], drains := [drain0] }

def tileD (flags : Nat) : State := mapped (onTile (clusterD flags) slot0)

theorem witness_Drains :
    (let k := (tileD 0xC00).cluster 0
     k.drains = [drain0] ∧ k.drainReady drain0 = true ∧ (tileD 0xC00).slotAt 0 0 = some (at0, slot0) ∧
     okThen (drainRead at0 slot0 drain0 .clean) ((tileD 0xC00).setCluster 0 { k with drains := [] }) (fun x _ => epiMem x.1) = true) ∧
    (let s := (tileD 0).setCluster 0 { (tileD 0).cluster 0 with drains := [] }
     okThen (drainRead at0 slot0 drain0 .clean) s (fun x v => !epiMem x.1 &&
       okThen (drainToForme at0 slot0 (drainRows 0 x.1 drain0 x.2 none)) v fun _ _ => true) = true) ∧
    (let x := { slot0 with closing := true }
     ((onTile (clusterD 0) x).cluster 0).voidSlot drain0.slot = true) ∧ ((tileD 0).cluster 0).voidSlot drain0.slot = false := by
  and_intros <;> decide +kernel

/-- A row of two bytes that waits for its write at the start of the mapped range. -/
theorem witness_DrainRows :
    let row : RowOut := { slot := 0, parts := [(0x1000, [1, 2])], bad := false, epi := 0, sat := 0, under := 0, tile := false, mag := none }
    let s := mapped (onTile { Cluster.reset with rowsOut := [row] } slot0)
    (s.cluster 0).rowsOut = [row] ∧ s.slotAt 0 0 = some (at0, slot0) ∧ (s.cluster 0).voidSlot 0 = false ∧
    okThen (vwriteWhole { src := src0, env := Env.quiet } .clWrite 0x1301 row.parts)
      (s.setCluster 0 { s.cluster 0 with rowsOut := [] }) (fun _ _ => true) = true ∧
    (onTile { Cluster.reset with rowsOut := [{ row with bad := true }] } slot0).slotAt 0 0 = some (at0, slot0) ∧
    ((onTile Cluster.reset { slot0 with closing := true }).cluster 0).voidSlot row.slot = true := by
  decide +kernel

/-- A pass of one chunk with both operands resident. -/
def pass0 : Pass := {
  slot := 0, ow := true, fa := 0, fb := 0, srcA := 4, srcB := 4, addrA := 0, addrB := 16384, kch := 1, row := 128, ptid := 0, done := 0
  behind := 0, sampled := false, got := [], crcs := [] }

/-- It starts with rows that no drain reads and runs to its end; the same pass of a stream that has nothing in its ring starts and
stays; and an unsettled row that the array has left settles. -/
theorem witness_PassRuns :
    (let k := { Cluster.reset with passWait := some pass0, unsettled := [600] }
     let s := onTile k slot0
     (s.cluster 0).passRun = none ∧ (s.cluster 0).passWait = some pass0 ∧ (s.cluster 0).mayStart pass0 = true ∧
     s.slotAt 0 0 = some (at0, slot0) ∧
     okThen (passChunks at0 1)
       (s.setCluster 0 { s.cluster 0 with passRun := some pass0, passWait := none, unsettled := [600] ++ pass0.rows })
       (fun _ u => ((u.cluster 0).passRun.map fun q => q.done == q.kch && !q.sampled) == some true) = true ∧
     (s.cluster 0).unsettled.contains 600 = true ∧ (s.cluster 0).inTree 600 = false) ∧
    (let p := { pass0 with srcA := 0 }
     let s := onTile { Cluster.reset with passWait := some p } slotE
     okThen (passChunks at0 1) (s.setCluster 0 { s.cluster 0 with passRun := some p, passWait := none, unsettled := p.rows })
       (fun _ u => ((u.cluster 0).passRun.map fun q => decide (q.done < q.kch)) == some true) = true) ∧
    (let s := onTile { Cluster.reset with passRun := some pass0 } { slot0 with closing := true }
     (s.cluster 0).passRun = some pass0 ∧ (s.cluster 0).voidSlot pass0.slot = true) := by
  decide +kernel

theorem witness_PassChunk : (127 : Nat) < 128 ∧ pass0.ow = true ∧ pass0.done = 0 := by decide

/-! ## Witnesses: commands of queues -/

/-- SYS_NOP of the context; SYS_COLOPHON of a management queue with the least MAXLEN, and of the context into its mapped range. -/
theorem witness_SystemCommands :
    (∃ t, base.admits 0xD1 fromCM (fun d => bodyOnly d []) (cmd []) t ∧ (!isMgmt src0) = true) ∧
    (∃ t, base.admits 0xD2 fromCM (fun d => bodyOnly d [(8, 12)] && decide (64 ≤ field d 16 4)) (cmdM [(8, 0x4000), (16, 64)]) t ∧
      isMgmt (QSrc.mgmt 0) = true) ∧
    (∃ t, (mapped base).admits 0xD2 fromCM (fun d => bodyOnly d [(8, 12)] && decide (64 ≤ field d 16 4))
        (cmd [(8, 0x1000), (16, 4096)]) t ∧
      okThen (egressPut { src := src0, env := Env.quiet } .copy 0x1000 (t.colophon (some 0) 1)) { t with coloGen := 1 }
        (fun _ _ => true) = true) :=
  ⟨admits_with _ _ _ _ _ (fun _ => !isMgmt src0) (by decide +kernel),
   admits_with _ _ _ _ _ (fun _ => isMgmt (QSrc.mgmt 0)) (by decide +kernel), admits_with _ _ _ _ _ _ (by decide +kernel)⟩

/-- A LIVE fence at 3 with RELEASE 5, owned by context 0 and granted to context 0 as well. -/
def fence0 : Fence := {
  value := 3, release := 5, state := .live, code := 0, owner := 0, mirror := 0
  grants := [{ ctx := 0, wait := true, signal := true, active := false }] }

/-- A state with that fence in slot 65535. -/
def fenced : State := { base with fences := [(65535, some fence0)] }

/-- A number that is free exists where one of the first `n + 1` numbers is free. -/
theorem pick_some (s : State) (top n : Nat) (free : Nat → Bool) (h : ((List.range (n + 1)).any fun k => decide (k < top) && free k) = true) :
    ∃ i u, s.pick top n free = (some i, u) := by
  unfold State.pick
  by_cases hf : free (Config.choice s.freeCtr % top) = true
  · exact ⟨Config.choice s.freeCtr % top, { s with freeCtr := s.freeCtr + 1 }, by simp only [hf, if_true]⟩
  · obtain ⟨k, hk, hp⟩ := List.any_eq_true.mp h
    cases e : (List.range (n + 1)).find? fun k => decide (k < top) && free k with
    | none => exact absurd hp (by simpa using List.find?_eq_none.mp e k hk)
    | some i => exact ⟨i, { s with freeCtr := s.freeCtr + 1 }, by simp only [hf]; simp⟩

/-- FENCE_ALLOC with VALUE equal to RELEASE; FENCE_FREE, FENCE_SIGNAL to RELEASE, FENCE_WAIT beyond the value, FENCE_GRANT and
FENCE_ACCEPT of the last fence slot. -/
theorem witness_FenceCommands :
    (∃ t, base.admits 0x41 fromC (fun d => bodyOnly d [(8, 24)] && field d 24 8 % 16 == 0) (cmd [(8, 5), (16, 5), (24, 16)]) t ∧
      decide (t.fencesOf 0 < t.reg (fnOf 0) .cmdp 0 0x6C 0) = true ∧ ∃ i u, t.pick 65536 t.fences.length (fun i => (t.fence i).isNone) = (some i, u)) ∧
    (∃ t, fenced.admits 0x42 fromC (fun d => bodyOnly d [(8, 2)]) (cmd [(8, 65535)]) t ∧
      decide (t.fence 65535 = some fence0 ∧ fence0.owner.toNat = 0) = true) ∧
    (∃ t, fenced.admits 0x43 fromC (fun d => bodyOnly d [(8, 2), (16, 8)]) (cmd [(8, 65535), (16, 5)]) t ∧
      decide (t.fence 65535 = some fence0 ∧ fence0.may 0 false = true) = true) ∧
    (∃ t, fenced.admits 0x44 fromC (fun d => bodyOnly d [(8, 2), (16, 8)]) (cmd [(8, 65535), (16, 4)]) t ∧
      decide (t.fence 65535 = some fence0 ∧ fence0.may 0 true = true ∧ fence0.state = .live) = true) ∧
    (∃ t, fenced.admits 0x45 fromC (fun d => bodyOnly d [(8, 5)] && decide (field d 10 2 < 4096) && decide (field d 12 1 < 4))
        (cmd [(8, 65535), (10, 0), (12, 3)]) t ∧
      decide (t.fence 65535 = some fence0 ∧ (t.ctx 0).bound = true) = true) ∧
    (∃ t, fenced.admits 0x46 fromC (fun d => bodyOnly d [(8, 4)] && decide (field d 10 2 < 4096)) (cmd [(8, 65535)]) t ∧
      decide (t.fence 65535 = some fence0 ∧ ∃ g ∈ fence0.grants, g.ctx.toNat = 0) = true) := by
  refine ⟨?_, admits_with _ _ _ _ _ _ (by decide +kernel),
    admits_with _ _ _ _ _ _ (by decide +kernel),
    admits_with _ _ _ _ _ _ (by decide +kernel),
    admits_with _ _ _ _ _ _ (by decide +kernel),
    admits_with _ _ _ _ _ _ (by decide +kernel)⟩
  obtain ⟨t, h, hp⟩ := admits_with base 0x41 fromC (fun d => bodyOnly d [(8, 24)] && field d 24 8 % 16 == 0)
    (cmd [(8, 5), (16, 5), (24, 16)]) (fun t => decide (t.fencesOf 0 < t.reg (fnOf 0) .cmdp 0 0x6C 0) &&
      (List.range (t.fences.length + 1)).any fun k => decide (k < 65536) && (t.fence k).isNone) (by decide +kernel)
  rw [Bool.and_eq_true] at hp
  exact ⟨t, h, hp.1, pick_some _ _ _ _ hp.2⟩

/-- A KeyID of partition 0 whose key the key cache holds and whose mask admits every agent. -/
def kid0 : KeyId := {
  state := .keyed, owner := 0, blob := BitVec.ofNat 1024 (0x1F0000FF * 2 ^ 160), cached := true, seed := 1, mask := 0x1F0000FF, jobDig := 0, used := 0 }

/-- A device object of the partition: the first granule of extent 0. -/
def devObj : Obj := { hostObj with host := false, kid := 9, base := 0, len := 4096, holds := 0 }

/-- The descriptor forms of the object commands. -/
def allocForm (d : Nat) : Bool :=
  bodyOnly d [(8, 4), (16, 16)] && decide (field d 8 1 < 4) && decide (field d 9 1 < 8) && (!(field d 8 1).testBit 0 || field d 9 3 == 0)

/-- What OBJ_ALLOC asks of a device object at the end of extent 0, to be staged. -/
def allocOk (t : State) : Bool :=
  decide ((t.objsOf 0).length < t.reg (fnOf 0) .cmdp 0 0x68 0 % 2 ^ 21) && decide (2 * 756 * 2 ^ 20 ≤ (t.part 0).extentBytes 0)
    && decide ((t.kid 9).state = .keyed ∧ (t.kid 9).owner.toNat = 0) && t.objs.isEmpty && (leAt (blobBytes (t.kid 9).blob) 20 4).testBit 7

theorem witness_ObjectCommands :
    (∃ t, ({ base with kids := [(9, kid0)] } : State).admits 0x31 fromC allocForm
        (cmd [(8, 2), (10, 9), (16, 4096), (24, 2 * 756 * 2 ^ 20 - 4096)]) t ∧ allocOk t = true ∧
      ∃ i u, t.pick (2 ^ 20) t.objs.length (fun i => (t.obj i).isNone) = (some i, u)) ∧
    (∃ t, base.admits 0x31 fromC allocForm (cmd [(8, 1), (16, 4096), (24, 0x100000)]) t ∧
      decide ((t.objsOf 0).length < t.reg (fnOf 0) .cmdp 0 0x68 0 % 2 ^ 21) = true ∧
      ∃ i u, t.pick (2 ^ 20) t.objs.length (fun i => (t.obj i).isNone) = (some i, u)) ∧
    (∃ t, (mapped base).admits 0x32 fromCM (fun d => bodyOnly d [(8, 4)]) (cmd [(8, handle0)]) t ∧
      okThen (getObj 0 handle0) t (fun x _ => x.2.holds == 1) = true) ∧
    (∃ t, ({ mapped base with objs := [(5, some { hostObj with holds := 0 })] } : State).admits 0x32 fromCM (fun d => bodyOnly d [(8, 4)])
        (cmdM [(8, handle0)]) t ∧ okThen (getObj 63 handle0) t (fun x _ => x.2.holds == 0 && x.2.host) = true) ∧
    (∃ t, ({ mapped base with objs := [(5, some devObj)] } : State).admits 0x32 fromCM (fun d => bodyOnly d [(8, 4)])
        (cmd [(8, handle0)]) t ∧ okThen (getObj 0 handle0) t (fun x _ => x.2.holds == 0 && !x.2.host) = true) ∧
    (∃ t, (mapped base).admits 0x33 fromC (fun d => bodyOnly d [(8, 5), (16, 24)] && decide (field d 12 1 < 8))
        (cmd [(8, handle0), (12, 7), (16, 2 ^ 48 - 4096), (24, 0xF000), (32, 4096)]) t ∧
      (okThen (getObj 0 handle0) t (fun x _ => decide (0xF000 + 4096 ≤ x.2.len)) && decide ((t.ctx 0).ranges.length < 256)
        && decide (t.rangesAll < 131072) && decide (t.rangesOf 0 < t.reg (fnOf 0) .iommu 0 0x44 0)
        && (t.ctx 0).ranges.all fun r => decide (r.va + r.len ≤ 2 ^ 48 - 4096)) = true) ∧
    (∃ t, (mapped base).admits 0x34 fromC (fun d => bodyOnly d [(16, 8)]) (cmd [(16, 0x1000)]) t ∧
      decide (((t.ctx 0).ranges.find? fun r => r.va == 0x1000) = some range0) = true) := by
  refine ⟨?_, ?_, admits_with _ _ _ _ _ _ (by decide +kernel), admits_with _ _ _ _ _ _ (by decide +kernel),
    admits_with _ _ _ _ _ _ (by decide +kernel), ?_, admits_with _ _ _ _ _ _ (by decide +kernel)⟩
  · obtain ⟨t, h, hp⟩ := admits_with ({ base with kids := [(9, kid0)] } : State) 0x31 fromC allocForm
      (cmd [(8, 2), (10, 9), (16, 4096), (24, 2 * 756 * 2 ^ 20 - 4096)])
      (fun t => allocOk t && (List.range (t.objs.length + 1)).any fun k => decide (k < 2 ^ 20) && (t.obj k).isNone) (by decide +kernel)
    rw [Bool.and_eq_true] at hp
    exact ⟨t, h, hp.1, pick_some _ _ _ _ hp.2⟩
  · obtain ⟨t, h, hp⟩ := admits_with base 0x31 fromC allocForm (cmd [(8, 1), (16, 4096), (24, 0x100000)])
      (fun t => decide ((t.objsOf 0).length < t.reg (fnOf 0) .cmdp 0 0x68 0 % 2 ^ 21) &&
        (List.range (t.objs.length + 1)).any fun k => decide (k < 2 ^ 20) && (t.obj k).isNone) (by decide +kernel)
    rw [Bool.and_eq_true] at hp
    exact ⟨t, h, hp.1, pick_some _ _ _ _ hp.2⟩
  · exact admits_with _ _ _ _ _ _ (by decide +kernel)

/-- The last hold on a RETIRING host object and on a RETIRING device object is gone; a retirement with no object and one with the
object of one granule. -/
theorem witness_ObjectEvents :
    (({ base with objs := [(5, some { hostObj with retiring := true, holds := 0 })] } : State).obj 5 =
      some { hostObj with retiring := true, holds := 0 }) ∧
    (({ base with objs := [(5, some { devObj with retiring := true })] } : State).obj 5 = some { devObj with retiring := true }) ∧
    (([((9 : BitVec 16), (none : Option Nat))].find? fun e => e.1 == 9) = some (9, none)) ∧
    (let s : State := { base with retiring := [(9, some 5)], objs := [(5, some { devObj with retiring := true, freeing := true, len := 0 })] }
     (s.retiring.find? fun e => e.1 == 9) = some (9, some 5) ∧ okThen (renewGranules { devObj with len := 0 }) s (fun _ _ => true) = true) := by
  decide +kernel

/-! ## Witnesses: contexts and the checks of a descriptor -/

theorem makeQueue_some (c n d : Nat) (s : State)
    (h : (queueDescOk d && decide (s.queuesOf (s.ctx c).part.toNat < s.ctxQuota (s.ctx c).part.toNat % 2 ^ 15)
      && (List.range (s.ctxs.foldl (fun m e => m + e.2.queueList.length) 0 + 1)).any fun k => decide (k < 16384) && s.queueFree k) = true) :
    ∃ num u, makeQueue c n d s = .ok num u := by
  simp only [Bool.and_eq_true] at h
  obtain ⟨⟨h1, h2⟩, h3⟩ := h
  obtain ⟨i, u, hp⟩ := pick_some s 16384 _ _ h3
  simp only [makeQueue, run_bind, run_look, run_need, h1, h2, Bool.and_self, if_true, run_act, hp, run_upd, run_pure]
  exact ⟨i, _, rfl⟩

/-- A second context of the partition: bound, idle and with queue 15. -/
def twoCtx : State := { base with
  ctxs := [(0, { ctx0 with admin := true }), (5, { Context.reset with bound := true, part := 0, pasid := 8, queues := [(15, some { queue0 with num := 1, tail := 0 })] })] }

/-- The descriptor forms of the context commands. -/
def createForm (d : Nat) : Bool :=
  bodyOnly d [(8, 8), (24, 24)] && decide (field d 8 2 < 4096) && decide (field d 10 1 < 64) && decide (field d 11 1 < 2) && decide (field d 12 4 < 2 ^ 20)

def ctxForm (d : Nat) : Bool := bodyOnly d [(8, 2)] && decide (field d 8 2 < 4096)

def queueForm (d : Nat) : Bool := bodyOnly d [(8, 3), (24, 24)] && decide (field d 8 2 < 4096) && countOk (field d 10 1) 15

/-- A CTX_CREATE of context 4095 with PASID 2^20 - 1 and a ring of 65536. -/
def create0 : List (Nat × Nat) := [(8, 4095), (10, 0), (11, 1), (12, 2 ^ 20 - 1), (24, 64), (32, 128), (40, 65536)]

def newCtx : Context := { Context.reset with bound := true, part := 0, pasid := BitVec.ofNat 20 (2 ^ 20 - 1), admin := true }

/-- Whether a free queue number and room for a queue exist. -/
def queueRoom (s : State) (c d : Nat) : Bool :=
  queueDescOk d && decide (s.queuesOf (s.ctx c).part.toNat < s.ctxQuota (s.ctx c).part.toNat % 2 ^ 15)
    && (List.range (s.ctxs.foldl (fun m e => m + e.2.queueList.length) 0 + 1)).any fun k => decide (k < 16384) && s.queueFree k

theorem witness_ContextCommands :
    (∃ t, twoCtx.admits 0xB1 fromM createForm (cmdM create0) t ∧
      ((t.ctx 4095).bound = false ∧ (t.part 0).state = .active ∧ (∀ e ∈ t.ctxs, e.2.bound = true → e.2.pasid.toNat ≠ 2 ^ 20 - 1) ∧
        (t.ctxsOf 0).length < bits (t.ctxQuota 0) 28 16 ∧ (t.ctxShare 4095).testBit 31 = false) ∧
      ∃ n u, makeQueue 4095 0 (descOf (cmdM create0) 0xB1) (t.setCtx 4095 newCtx) = .ok n u) ∧
    (∃ t, twoCtx.admits 0xB2 fromA ctxForm (cmd [(8, 5)]) t ∧ decide ((t.ctx 5).bound = true ∧ (t.ctx 5).part.toNat = t.partOf src0) = true) ∧
    (∃ t, twoCtx.admits 0xB3 fromA ctxForm (cmdM [(8, 4095)]) t ∧ decide ((t.ctx 4095).bound = false) = true) ∧
    (∃ t, twoCtx.admits 0xB4 fromA ctxForm (cmd [(8, 5)]) t ∧ decide ((t.ctx 5).bound = true) = true) ∧
    (∃ t, twoCtx.admits 0xC1 fromCM queueForm (cmd [(8, 0), (10, 15), (24, 64), (32, 128), (40, 16)]) t ∧
      decide ((t.ctx 0).bound = true ∧ t.queue 0 15 = none) = true ∧
      ∃ n u, makeQueue 0 15 (descOf (cmd [(8, 0), (10, 15), (24, 64), (32, 128), (40, 16)]) 0xC1) t = .ok n u) ∧
    (∃ t, twoCtx.admits 0xC2 fromCM (fun d => bodyOnly d [(8, 3)] && decide (field d 8 2 < 4096) && countOk (field d 10 1) 15)
        (cmdM [(8, 5), (10, 15)]) t ∧ decide ((t.ctx 5).bound = true ∧ (t.queue 5 15).isSome = true) = true) := by
  refine ⟨?_, admits_with _ _ _ _ _ _ (by decide +kernel), admits_with _ _ _ _ _ _ (by decide +kernel), admits_with _ _ _ _ _ _ (by decide +kernel),
    ?_, admits_with _ _ _ _ _ _ (by decide +kernel)⟩
  · obtain ⟨t, h, hp⟩ := admits_with twoCtx 0xB1 fromM createForm (cmdM create0)
      (fun t => decide ((t.ctx 4095).bound = false ∧ (t.part 0).state = .active ∧ (∀ e ∈ t.ctxs, e.2.bound = true → e.2.pasid.toNat ≠ 2 ^ 20 - 1) ∧
        (t.ctxsOf 0).length < bits (t.ctxQuota 0) 28 16 ∧ (t.ctxShare 4095).testBit 31 = false) &&
        queueRoom (t.setCtx 4095 newCtx) 4095 (descOf (cmdM create0) 0xB1)) (by decide +kernel)
    rw [Bool.and_eq_true] at hp
    exact ⟨t, h, of_decide_eq_true hp.1, makeQueue_some _ _ _ _ hp.2⟩
  · obtain ⟨t, h, hp⟩ := admits_with twoCtx 0xC1 fromCM queueForm (cmd [(8, 0), (10, 15), (24, 64), (32, 128), (40, 16)])
      (fun t => decide ((t.ctx 0).bound = true ∧ t.queue 0 15 = none) &&
        queueRoom t 0 (descOf (cmd [(8, 0), (10, 15), (24, 64), (32, 128), (40, 16)]) 0xC1)) (by decide +kernel)
    rw [Bool.and_eq_true] at hp
    exact ⟨t, h, hp.1, makeQueue_some _ _ _ _ hp.2⟩

/-- The state that a teardown or a reset of a context begins with. -/
def tearing (t : State) (c : Nat) (reset : Bool) : State :=
  t.setCtx c { t.ctx c with state := .teardown, code := 0, tdReset := reset, tdWait := [.mgmt 0] }

/-- Context 5 in a state. -/
def ctxIn (st : CtxState) : State := twoCtx.setCtx 5 { twoCtx.ctx 5 with state := st }

/-- A pinned context that fits, with a number in place of the one that is taken; a FAULTED context; a context that stands at a tile
boundary, one that does not, and one in TEARDOWN, as CTX_RESET and CTX_TEARDOWN find them; a QUEUE_DELETE that completes. -/
theorem witness_ContextEnds :
    (∃ t, (twoCtx.setReg (64 + 4095) .part 0 0x68 0x10040010 (2 ^ 31 + 0x10040010)).admits 0xB1 fromM createForm (cmdM create0) t ∧
      ((t.ctxShare 4095).testBit 31 &&
        (((t.setCtx 4095 { newCtx with pinned := true }).setQueue 4095 0 (some queue0)).fit 4095 0 (fun _ => true)).isSome) = true) ∧
    (∃ t, (ctxIn .faulted).admits 0xB2 fromA ctxForm (cmdM [(8, 5)]) t ∧
      decide ((t.ctx 5).state = .faulted ∧ (t.part (t.ctx 5).part.toNat).state ≠ .halted) = true) ∧
    (∃ t, twoCtx.admits 0xB3 fromA ctxForm (cmdM [(8, 5)]) t ∧ decide ((t.ctx 5).bound = true ∧ (t.ctx 5).state ≠ .teardown ∧
      (tearing t 5 true).atBoundary 5 = true ∧ (tearing t 5 true).heldCtx 5 = false) = true) ∧
    (∃ t, tile0.admits 0xB4 fromA ctxForm (cmdM [(8, 0)]) t ∧ decide ((t.ctx 0).bound = true ∧ (t.ctx 0).state ≠ .teardown ∧
      (tearing t 0 false).atBoundary 0 = false) = true) ∧
    (∃ t, (ctxIn .teardown).admits 0xB3 fromA ctxForm (cmdM [(8, 5)]) t ∧
      decide ((t.ctx 5).bound = true ∧ (t.ctx 5).state = .teardown) = true) ∧
    (let k : Cmd := {
       src := src0, index := 0, op := 0xC2, d := desc [(8, 5), (10, 15)], seq := 1, stage := .ready, holds := [], left := [], reruns := 0
       fellBack := false }
     let s : State := { twoCtx with inflight := [k] }
     s.cmdOf src0 = some k ∧ k.op = 0xC2 ∧ descSync k.desc ≠ 1 ∧ s.memBusy src0 = false) :=
  ⟨admits_with _ _ _ _ _ _ (by decide +kernel), admits_with _ _ _ _ _ _ (by decide +kernel), admits_with _ _ _ _ _ _ (by decide +kernel),
    admits_with _ _ _ _ _ _ (by decide +kernel), admits_with _ _ _ _ _ _ (by decide +kernel), by and_intros <;> decide +kernel⟩

/-- The number of a new queue, and a free number at the top of a range. -/
theorem witness_QueueNumbers :
    (∃ i u, twoCtx.pick 16384 2 twoCtx.queueFree = (some i, u)) ∧ (1 : Nat) < 2 ∧ ((List.range 2).any fun k => k == 1) = true :=
  ⟨pick_some _ _ _ _ (by decide +kernel), by decide, by decide⟩

/-- What a descriptor that is fetched leaves. -/
theorem fetches_some (s : State) (o : Nat) (q : CmdIn) (h : (s.cmdOf q.src = none ∧ s.memBusy q.src = false ∧ (s.fetch q.src).isSome = true)) :
    ∃ v, s.fetches o q v := by
  obtain ⟨⟨idx, u⟩, e⟩ := Option.isSome_iff_exists.mp h.2.2
  exact ⟨_, idx, u, h.1, h.2.1, e, rfl⟩

/-- A descriptor of each form that the checks refuse: the reserved opcodes next to listed ones; a SYS_NOP with a byte beside its
fields, and one of a management queue with a fence; CTX_RESUME of the last context by one without ADMIN; CTX_CREATE by a context. -/
theorem witness_DescriptorChecks :
    (∃ v, base.fetches 0x00 (cmd []) v) ∧
    (Instr.reservedDescriptor 0x00 (cmd [])).wellFormed = true ∧ (Instr.reservedDescriptor 0xFF (cmd [])).wellFormed = true ∧
    bodyOnly (descOf (cmd [(63, 1)]) 0xD1) [] = false ∧ syncForm (descOf (cmdM [(1, 1)]) 0xD1) true = false ∧
    syncForm (descOf (cmd [(1, 3)]) 0xD1) false = false ∧
    (syncForm (descOf (cmd [(8, 4095)]) 0xB2) false = true ∧ bodyOnly (descOf (cmd [(8, 4095)]) 0xB2) [(8, 2)] = true ∧
      field (descOf (cmd [(8, 4095)]) 0xB2) 8 2 = 4095 ∧ (base.ctx 0).admin = false) ∧
    (syncForm (descOf (cmd create0) 0xB1) false = true ∧ bodyOnly (descOf (cmd create0) 0xB1) [(8, 8), (24, 24)] = true ∧
      field (descOf (cmd create0) 0xB1) 8 2 = 4095 ∧ field (descOf (cmd create0) 0xB1) 12 4 = 2 ^ 20 - 1) :=
  ⟨fetches_some _ _ _ (by decide +kernel), by and_intros <;> decide +kernel⟩

/-! ## Witnesses: tile programs as commands -/

/-- Host memory under the context's PASID 7: (address, bytes, value). -/
def hostAt (l : List (Nat × Nat × Nat)) : Env := { Env.quiet with
  host := l.flatMap fun e => (List.range e.2.1).map fun i => (8 * 2 ^ 64 + e.1 + i, BitVec.ofNat 8 (e.2.2 >>> (8 * i))) }

/-- The bytes of a code object at the start of object 5: eight instructions from 64 on, one entry, the last instruction, in a table at
128; FORME_MIN 1 and GAL_MIN 128 (R100). -/
def code0 : List (Nat × Nat × Nat) := [
  (0x100000, 4, 0x54394C49), (0x100004, 2, 1), (0x100008, 4, 64), (0x10000C, 4, 8), (0x100010, 2, 1), (0x100014, 2, 1), (0x100016, 2, 128),
  (0x100018, 4, 128), (0x100080, 4, 7)]

/-- EXEC_TILE of that object, entry 0 or 1. -/
def execTile0 (e : Nat) : CmdIn := { src := src0, d := desc [(8, handle0), (12, e), (16, 1)], env := hostAt code0 }

def tileForm (d : Nat) : Bool := bodyOnly d [(8, 4), (12, 1), (16, 48)]

theorem witness_ExecCommands :
    (∃ t, (mapped base).admits 0x11 fromC tileForm (execTile0 0) t ∧
      (okThen (readCode { src := src0, env := (execTile0 0).env } 0 handle0) t fun k u =>
        decide (k.formeMin ≤ (u.shareOf 0).1 ∧ k.galMin ≤ (u.shareOf 0).2) && k.starts[0]? == some 7 &&
        okThen (execAllowed 0 handle0 k) u fun _ v => okThen (placeShares 0 0) v fun _ w => okThen (takeHold src0 handle0) w fun _ _ => true)
      = true) ∧
    (∃ t, (mapped base).admits 0x11 fromC tileForm (execTile0 1) t ∧
      (okThen (readCode { src := src0, env := (execTile0 0).env } 0 handle0) t fun k _ => k.starts[1]? == none) = true) ∧
    ((base.ctx (ctxOf src0)).placed = some placed0 ∧ base.clustersOf 0 = [0]) :=
  ⟨admits_with _ _ _ _ _ _ (by decide +kernel), admits_with _ _ _ _ _ _ (by decide +kernel), by and_intros <;> decide +kernel⟩

theorem witness_CodeChecked :
    okThen (readCode { src := src0, env := hostAt code0 } 0 handle0) (mapped base) (fun k _ => k.starts == [7] && k.words == 8) = true := by
  decide +kernel

/-- A layer entry of that code: FWD alone, or DGRAD alone, of layer 4095. -/
def entry0 (bwd : Bool) : List (Nat × Nat × Nat) := [
  (0x101000, 4, handle0), (0x101004, 4, if bwd then 0xFFFF00FF else 0xFFFFFF00), (0x101008, 2, 4095)]

/-- EXEC_LAYERS of one entry without a stash: TOKENS 1, JOB_TOKENS 8388608. -/
def layers0 (bwd : Bool) : CmdIn := {
  src := src0, env := hostAt (code0 ++ entry0 bwd)
  d := desc [(8, 0x2000), (16, 1), (18, if bwd then 1 else 0), (48, 1), (52, 8388608)] }

/-- What its checks answer. -/
def layersOk (bwd : Bool) (t : State) : Bool :=
  let q := layers0 bwd
  okThen (vread { src := src0, env := q.env } .copy 0x1901 0x2000 128) t fun raw u =>
    let l := (List.range 1).map fun i => BitVec.ofNat 1024 (leAt raw (128 * i) 128)
    okThen (((List.range 1).zip l).mapM fun e => checkEntry q 0 bwd e.1 e.2 (l.take e.1)) u fun _ v =>
      l.all v.entryRange && okThen (useStash 0 0 (descOf q 0x12) l) v fun _ w => okThen (placeShares 0 0) w fun _ _ => true

/-- The stash that a BWD command finds: it holds layer 4095. -/
def stash0 : Stash := {
  formeBytes := 0, obj := 0, off := 0, share := 0, reserve := 0, sizesGen := 0, tokens := 1, formeCur := 0, dramCur := 0, recompute := false
  layers := [{ layer := 4095, inForme := false, off := 0, bytes := 0, recompute := false }] }

def stashed : State := { mapped base with ctxs := [(0, { ctx0 with ranges := [range0], stash := some stash0 })] }

/-- EXEC_LAYERS with NEW: the stash lies in the second page of device object 6. -/
def layersNew : CmdIn := {
  src := src0, env := hostAt (code0 ++ entry0 false)
  d := desc [(8, 0x2000), (16, 1), (18, 2), (20, 0x100006), (24, 4096), (32, 4096), (40, 64), (48, 1), (52, 1)] }

def newStashState : State := { mapped base with
  objs := [(5, some hostObj), (6, some { devObj with len := 8192 })], objGen := [(5, 1), (6, 1)] }

theorem witness_LayerCommands :
    (∃ t, (mapped base).admits 0x12 fromC lyrFields (layers0 false) t ∧ layersOk false t = true) ∧
    (∃ t, stashed.admits 0x12 fromC lyrFields (layers0 true) t ∧ layersOk true t = true) ∧
    (∃ t, newStashState.admits 0x12 fromC lyrFields layersNew t ∧
      (lyrNew (descOf layersNew 0x12) && okThen (checkStash layersNew (descOf layersNew 0x12) 0 1) t fun _ w =>
        okThen (placeShares 0 0) w fun _ _ => true) = true) :=
  ⟨admits_with _ _ _ _ _ _ (by decide +kernel), admits_with _ _ _ _ _ _ (by decide +kernel), admits_with _ _ _ _ _ _ (by decide +kernel)⟩

/-- A layer command between runs: FWD or BWD, with the runs of its entries and its deferred list. -/
def run0 (bwd : Bool) (runs : Nat) (deferred : List Nat) (next : Nat) : LayerRun := {
  entries := [BitVec.ofNat 1024 (runs * 2 ^ 32), BitVec.ofNat 1024 (runs * 2 ^ 32)], code := [[8, 7, 7, 7, 7], [8, 7, 7, 7, 7]], scales := []
  bwd := bwd, fallback := false, deferMax := 1, tokens := 1, jobTokens := 1, next := next, recompOf := none, run := none, deferred := deferred
  signal := none, place := none }

/-- The command in flight. -/
def flight0 (o : Byte) (st : CmdStage) : Cmd := {
  src := src0, index := 0, op := o, d := 0, seq := 1, stage := st, holds := [], left := [], reruns := 0, fellBack := false }

def inLayers (r : LayerRun) : State := { mapped base with inflight := [flight0 0x12 (.layers r)], fences := [(0, some fence0)] }

/-- The kind of a decision of the backward direction. -/
def pickKind : BwdPick → Nat
  | .run _ .dgrad _ => 0
  | .run _ .wgrad _ => 1
  | .run _ _ _ => 2
  | .wait _ => 3
  | .bad _ => 4
  | .finished _ => 5

theorem witness_LayerRuns :
    (let r := run0 false 0xFFFFFF00 [] 1
     (inLayers r).layersIdle src0 = some r ∧ r.bwd = false ∧ r.next < r.entries.length ∧
     ((inLayers r).placeSlice 0 r 1).isSome = true) ∧
    (let r := { run0 false 0xFFFFFF00 [] 0 with entries := [BitVec.ofNat 1024 (0xFFFFFF00 * 2 ^ 32 + 64 * 2 ^ 96)] }
     (inLayers r).layersIdle src0 = some r ∧ ((inLayers r).placeSlice 0 r 0).isNone = true) ∧
    (let r := run0 true 0xFFFF00FF [] 0
     (inLayers r).layersIdle src0 = some r ∧ pickKind ((inLayers r).pickBwd 0 3 r) = 0) ∧
    (let r := run0 true 0xFF0000FF [0] 2
     (inLayers r).layersIdle src0 = some r ∧ pickKind ((inLayers r).pickBwd 0 3 r) = 1) ∧
    (let r := run0 true 0xFFFF00FF [] 2
     (inLayers r).layersIdle src0 = some r ∧ pickKind ((inLayers r).pickBwd 0 3 r) = 5) ∧
    (let e := BitVec.ofNat 1024 (0xFFFF00FF * 2 ^ 32 + 2 ^ 80 + 5 * 2 ^ 192)
     let r := { run0 true 0xFFFF00FF [] 0 with entries := [e, e] }
     (inLayers r).layersIdle src0 = some r ∧ pickKind ((inLayers r).pickBwd 0 3 r) = 3 ∧
     (let b : State := { inLayers r with fences := [(0, some { fence0 with state := .broken, code := 0x1A00 })] }
      b.layersIdle src0 = some r ∧ pickKind (b.pickBwd 0 3 r) = 4)) ∧
    (let r := { run0 true 0xFF00FFFF [] 2 with signal := some 0 }
     (inLayers r).cmdOf src0 = some (flight0 0x12 (.layers r)) ∧ (inLayers r).fenceUse 0 0 0 false = 0) := by
  and_intros <;> decide +kernel

/-- The cases of the rule for the next run: the deferred list is full; the next layer is free to run; it waits with and without a
deferred run; the end, with and without one. -/
theorem witness_BackwardOrder :
    (let r := run0 true 0xFF0000FF [0] 1
     r.deferMax ≤ r.deferred.length ∧ (inLayers r).recomputes 0 (r.entry 0) = false) ∧
    (let r := run0 true 0xFF0000FF [] 1
     r.deferred.length < r.deferMax ∧ r.next < r.entries.length ∧ hasRun (r.entry 1) 5 = true ∧ (inLayers r).recomputes 0 (r.entry 1) = false ∧
     (entryAt (r.entry 1) 10 1).testBit 0 = false) ∧
    (let e := BitVec.ofNat 1024 (0xFF0000FF * 2 ^ 32 + 2 ^ 80 + 5 * 2 ^ 192)
     let r := { run0 true 0 [0] 1 with entries := [e, e], deferMax := 2 }
     r.deferred.length < r.deferMax ∧ hasRun (r.entry 1) 5 = true ∧ (entryAt e 10 1).testBit 0 = true ∧
     (inLayers r).waitEnd (entryAt e 16 2) (BitVec.ofNat 64 (entryAt e 24 8)) = none) ∧
    (let r := { run0 true 0xFF0000FF [0] 2 with deferMax := 2 }
     r.deferred.length < r.deferMax ∧ r.entries.length ≤ r.next) := by
  and_intros <;> decide +kernel

/-! ## Witnesses: memory commands, reductions and collectives -/

/-- One of a list that is not empty is chosen. -/
theorem choose_some (s : State) (l : List Nat) (h : l ≠ []) : ∃ i, s.choose l = (some i, { s with freeCtr := s.freeCtr + 1 }) := by
  have hlt := Nat.mod_lt (Config.choice s.freeCtr) (List.length_pos_iff.mpr h)
  exact ⟨l[Config.choice s.freeCtr % l.length], by rw [State.choose, List.getElem?_eq_getElem hlt]⟩

/-- A free region exists where the quota leaves room and one of the identifiers is free. -/
theorem freeRegion_some (p : Nat) (s : State)
    (h : (decide (s.regionsOf p < s.reg (fnOf p) .rdu 0 0x44 0) && !((List.range 1024).filter fun i => (s.region i).isNone).isEmpty) = true) :
    ∃ id, freeRegion p s = .ok id { s with freeCtr := s.freeCtr + 1 } := by
  rw [Bool.and_eq_true] at h
  obtain ⟨i, e⟩ := choose_some s ((List.range 1024).filter fun i => (s.region i).isNone) (by
    intro hn; rw [hn] at h; exact absurd h.2 (by simp))
  exact ⟨i, by simp only [freeRegion, run_bind, run_look, run_need, h.1, if_true, run_act, e, run_pure]⟩

/-- The partition may hold 64 regions. -/
def quotaR (s : State) : State := s.setReg 1 .rdu 0 0x44 0 64

/-- The Case holds the first line of the partition's extent 0, which is line `lid0`, and the KeyID of its object is KEYED. -/
def lid0 : Nat := 0

def cased (s : State) : State := quotaR { s with
  kids := [(9, kid0)], cases := [(lid0, some { data := 0, dirty := true, kid := 9, part := 0, way := 0, stamp := none, used := 0 })]
  objs := [(5, some hostObj), (6, some { devObj with len := 64 })], objGen := [(5, 1), (6, 1)] }

/-- A region of four elements in that object, with one contribution of two. -/
def region0 : Region := {
  b := -100, limit := 2, contrib := 1, shed := 0, nonfin := 0, ovf := false, ovfExp := 0, ctx := 0, obj := 0x100006, off := 0, elems := 4
  residue := false }

/-- MEM_COPY of one byte; MEM_XW_OPEN of four elements with LIMIT 2048 and base 100; MEM_XW_ADD of the last BF16 element that the
limit admits; MEM_XW_CLOSE in FP32, and of a region that has overflowed. -/
theorem witness_ReductionCommands :
    (∃ t, (mapped base).admits 0x21 fromC (fun d => bodyOnly d [(8, 24)] && countOk (field d 24 8) (2 ^ 40))
        (cmd [(8, 0x1000), (16, 0x10FFF), (24, 1)]) t ∧
      (okThen (vread { src := src0, env := Env.quiet } .copy 0x1901 0x1000 1) t fun l u =>
        okThen (vwrite { src := src0, env := Env.quiet } .copy 0x1901 0x10FFF l) u fun _ _ => true) = true) ∧
    (∃ t, (cased (mapped base)).admits 0x22 fromC (fun d => bodyOnly d [(8, 4), (16, 15), (32, 3)] && decide (field d 30 1 < 2))
        (cmd [(8, 0x100006), (24, 4), (28, 2048), (32, 100)]) t ∧
      (okThen (getObj 0 0x100006) t (fun x _ => !x.2.host && x.2.owner == 0 && decide (16 * 4 ≤ x.2.len)) &&
        okThen (windowBase 0 false 100 100 0) { t with freeCtr := t.freeCtr + 1 } (fun b w => decide (b = 100) &&
          okThen (takeHold src0 0x100006) w fun _ x =>
            okThen (objWrite { src := src0, env := Env.quiet } .reduce { devObj with len := 64 } 0 (List.replicate 64 0)) x fun _ _ => true))
        = true ∧
      ∃ id, freeRegion 0 t = .ok id { t with freeCtr := t.freeCtr + 1 }) ∧
    (∃ t, ({ cased (mapped base) with regions := [(1023, some region0)] } : State).admits 0x23 fromC
        (fun d => bodyOnly d [(8, 2), (12, 8), (24, 9)]) (cmd [(8, 1023), (12, 3), (16, 1), (24, 0x1000), (32, 7)]) t ∧
      (okThen (regionOf src0 1023) t (fun r _ => r == region0) &&
        okThen (vread { src := src0, env := Env.quiet } .reduce 0x1901 0x1000 2) t fun l u =>
          okThen (regionObj region0) u fun o _ =>
            okThen (addElems { src := src0, env := Env.quiet } .reduce 1023 o region0 .clean 0 ((List.range 1).map fun i =>
                { elem := 3 + i, first := false, win := windowOf region0.b (Fmt.BF16.decode (leAt l (2 * i) 2)) }))
              (u.setRegion 1023 (some { region0 with contrib := 2 })) fun _ _ => true) = true) ∧
    (∃ t, ({ cased (mapped base) with regions := [(1023, some region0)] } : State).admits 0x24 fromC
        (fun d => bodyOnly d [(8, 4), (16, 8)] && decide (field d 11 1 < 2)) (cmd [(8, 1023), (10, 9), (11, 1), (16, 0x1000)]) t ∧
      (okThen (regionOf src0 1023) t (fun r _ => r == region0) && okThen (regionObj region0) t fun o _ =>
        okThen (objRead { src := src0, env := Env.quiet } .reduce o 0 64) t fun raw u =>
          okThen (vwrite { src := src0, env := Env.quiet } .reduce 0x1901 0x1000 (((List.range 4).map fun i =>
            xwConvert .FP32 (-100) (BitVec.ofNat 128 (leAt raw (16 * i) 16))).flatMap fun x => leBytes 4 x.bits)) u fun _ _ => true) = true) ∧
    (∃ t, ({ cased (mapped base) with regions := [(0, some { region0 with ovf := true, ovfExp := 20 })] } : State).admits 0x24 fromC
        (fun d => bodyOnly d [(8, 4), (16, 8)] && decide (field d 11 1 < 2)) (cmd [(10, 7), (16, 0x1000)]) t ∧
      okThen (regionOf src0 0) t (fun r _ => r.ovf && !r.residue) = true) := by
  refine ⟨admits_with _ _ _ _ _ _ (by decide +kernel), ?_, admits_with _ _ _ _ _ _ (by decide +kernel), admits_with _ _ _ _ _ _ (by decide +kernel),
    admits_with _ _ _ _ _ _ (by decide +kernel)⟩
  obtain ⟨t, h, hp⟩ := admits_with (cased (mapped base)) 0x22 fromC
    (fun d => bodyOnly d [(8, 4), (16, 15), (32, 3)] && decide (field d 30 1 < 2)) (cmd [(8, 0x100006), (24, 4), (28, 2048), (32, 100)])
    (fun t => (okThen (getObj 0 0x100006) t (fun x _ => !x.2.host && x.2.owner == 0 && decide (16 * 4 ≤ x.2.len)) &&
        okThen (windowBase 0 false 100 100 0) { t with freeCtr := t.freeCtr + 1 } (fun b w => decide (b = 100) &&
          okThen (takeHold src0 0x100006) w fun _ x =>
            okThen (objWrite { src := src0, env := Env.quiet } .reduce { devObj with len := 64 } 0 (List.replicate 64 0)) x fun _ _ => true))
      && (decide (t.regionsOf 0 < t.reg (fnOf 0) .rdu 0 0x44 0) && !((List.range 1024).filter fun i => (t.region i).isNone).isEmpty)) (by decide +kernel)
  rw [Bool.and_eq_true] at hp
  exact ⟨t, h, hp.1, freeRegion_some 0 t hp.2⟩

/-- A finite contribution on either side of the window's base, with and without bits below it, and one above the window. -/
theorem witness_ReductionOrder :
    ((-100 : Int) ≤ 0 ∧ 1 * 2 ^ (0 - (-100 : Int)).toNat < 2 ^ 116) ∧ ((-101 : Int) < -100 ∧ 3 / 2 ^ ((-100 : Int) - (-101)).toNat < 2 ^ 116) ∧
    ((-100 : Int) ≤ 16 ∧ 2 ^ 116 ≤ 1 * 2 ^ (16 - (-100 : Int)).toNat) ∧
    [windowOf 0 (.fin false 1 0), windowOf 0 (.fin true 1 0)].Perm [windowOf 0 (.fin true 1 0), windowOf 0 (.fin false 1 0)] :=
  ⟨by decide, by decide, by decide, List.Perm.swap _ _ _⟩

/-- A plan with this device as number 0 of a torus group of two, device 64 in another group, and slice 5 of 0, 1 and 64, which may run
degraded and use uplinks (R398). -/
def plan0 : List Byte := (List.range 336).map fun i =>
  if i = 7 ∨ i = 17 ∨ i = 19 ∨ i = 20 ∨ i = 216 then 1 else if i = 16 ∨ i = 18 ∨ i = 21 then 2 else if i = 192 then 5
  else if i = 193 ∨ i = 208 then 3 else 0

/-- A port that is UP with a hop session. -/
def portUp : Port := { Port.reset with state := .up, reason := 0, idOk := true, attested := true, session := some 1 }

/-- The plan is loaded, its slice has a key, the links to device 1 and an uplink are UP, and partition 0 runs in slice 5. -/
def fabricOf (s : State) : State := { s with
  frt := { Frt.reset with plan := some plan0, keys := [(5, some 1)] }
  ports := [(4, portUp), (5, portUp), (6, portUp)]
  parts := [(0, { s.part 0 with slice := some 5 })] }

/-- A collective descriptor (R157): operation, formats, count, ranks and own rank; SRC at 0x2000, DST at 0x3000, SCRATCH at 0x20000,
the rank table at 0x5000. -/
def coll0 (o ranks : Nat) : Nat :=
  o + 7 * 16 + 7 * 256 + 0x2000 * 2 ^ 64 + 0x3000 * 2 ^ 128 + (if o = 0 ∨ o = 2 then 0x20000 * 2 ^ 192 else 0) + 2 * 2 ^ 256
    + ranks * 2 ^ 288 + 0x5000 * 2 ^ 320

/-- COLL_RUN of a descriptor at 0x1000 with ranks 0 and 1 on devices 0 and 1. -/
def collCmd (o ranks : Nat) : CmdIn := {
  src := src0, d := desc [(8, 0x1000)], env := hostAt [(0x100000, 64, coll0 o ranks), (0x104000, 2, 0), (0x104002, 2, 1)] }

/-- The collective that it starts. -/
def collOf (o ranks : Nat) (stage : CollStage) : Coll := {
  src := src0, desc := BitVec.ofNat 512 (coll0 o ranks), ranks := (List.range ranks).map fun i => (BitVec.ofNat 10 i, 0), digest := 0, base := 0
  stage := stage, seen := [], region := none, slots := [], landed := [], sent := [], got := [], own := false, shed := 0, nonfin := 0
  reran := false, arrivals := [], opt := none, touched := false }

/-- A state in which the context also maps a device object of its own, at 0x20000. -/
def scratched (s : State) : State := { cased (mapped s) with
  ctxs := [(0, { ctx0 with
    ranges := [range0, { va := 0x20000, len := 0x1000, handle := 0x100006, off := 0, read := true, write := true, exec := false }] })] }

/-- The landing region opens where SCRATCH lies in an object of the context, a region is free, and the zeros are written. -/
theorem openLanding_some (q : CmdIn) (d : Nat) (b : Int) (s : State) (h : Word32) (off : Nat) (f : State → Bool)
    (h1 : s.scratchAt (ctxOf q.src) d = some (h, off))
    (h2 : (decide (s.regionsOf (s.partOf q.src) < s.reg (fnOf (s.partOf q.src)) .rdu 0 0x44 0) &&
      !((List.range 1024).filter fun i => (s.region i).isNone).isEmpty) = true)
    (h3 : okThen (vwriteWhole { src := q.src, env := q.env } .fabric 0x1901 [(cdScratch d, List.replicate (16 * cdCount d) 0)])
      { s with freeCtr := s.freeCtr + 1 } (fun _ t => f (t.addHold (h.toNat % 2 ^ 20) 1)) = true) :
    ∃ id u y, openLanding q d b s = .ok id (u.setRegion id y) ∧ f u = true := by
  obtain ⟨id, e⟩ := freeRegion_some (s.partOf q.src) s h2
  obtain ⟨_, u, hu, hf⟩ := (okThen_iff _ _ _).mp h3
  refine ⟨id, u.addHold (h.toNat % 2 ^ 20) 1, some {
    b := b, limit := 2048, contrib := 0, shed := 0, nonfin := 0, ovf := false, ovfExp := 0, ctx := BitVec.ofNat 12 (ctxOf q.src), obj := h
    off := off, elems := cdCount d, residue := false }, ?_, hf⟩
  simp only [openLanding, run_bind, run_look, h1, e, hu, run_upd, run_pure]

/-- A partition in no slice tells nobody. -/
theorem tellAll_alone (q : QSrc) (kind : Nat) (l : List Byte) (s : State) (c : Coll) (h : s.coll q = some c) (hq : c.src = q)
    (hs : (s.part (s.partOf q)).slice = none) : tellAll q kind l s = .ok () s := by
  simp only [tellAll, run_bind, run_look, h, run_act, State.collTell, hq, hs, run_pure]

/-- What the checks of COLL_RUN answer, up to the state in which a collective that adds opens its region, or tells its header. -/
def collOk (o ranks : Nat) (t : State) (f : State → Bool) : Bool :=
  let v : Via := { src := src0, env := (collCmd o ranks).env }
  decide ((t.colls.filter fun x => x.opt.isNone).length < 16) && okThen (vread v .copy 0x1901 0x1000 64) t fun raw u =>
    let d := ofLe raw
    decide (d = coll0 o ranks) && collDescOk d && (!cdAdds d || u.scratchMapped 0 d) &&
      okThen (vread v .copy 0x1901 (field d 40 8) (2 * cdRanks d)) u fun tab w =>
        w.rankTableOk 0 tab (cdRanks d) (cdRank d) &&
          (let c := Coll.start src0 d tab (cdRanks d) .headers none
           f { w with colls := w.colls ++ [if cdRanks d = 1 then { c with stage := c.after } else c] })

/-- ALL_GATHER of two ranks, and REDUCE_SCATTER of one, whose landing region can be opened, and which tells nobody. -/
theorem witness_CollRun :
    (∃ t, (fabricOf (mapped base)).admits 0x81 fromC (fun d => bodyOnly d [(8, 8)]) (collCmd 1 2) t ∧
      collOk 1 2 t (fun w => (match w.coll src0 with
        | some y => okThen (tellAll src0 0 (headerBytes (y.header 5))) w fun _ _ => true
        | none => false)) = true) ∧
    (∃ t, (scratched base).admits 0x81 fromC (fun d => bodyOnly d [(8, 8)]) (collCmd 0 1) t ∧
      collOk 0 1 t (fun w =>
        okThen (windowBase 0 ((field (coll0 0 1) 0 2).testBit 12) (field (coll0 0 1) 6 2) (field (coll0 0 1) 2 2) (field (coll0 0 1) 4 1)) w
          fun b _ => decide (b = 0)) = true) :=
  ⟨admits_with _ _ _ _ _ _ (by decide +kernel), admits_with _ _ _ _ _ _ (by decide +kernel)⟩

/-- The single rank's landing region opens, and its header goes to nobody. -/
theorem witness_CollLanding :
    let w : State := { scratched base with colls := [collOf 0 1 .closing] }
    windowBase 0 false 0 0 0 w = .ok 0 w ∧
    ∃ reg w3 y z, openLanding (collCmd 0 1) (coll0 0 1) 0 w = .ok reg w3 ∧
      (w3.setColl src0 fun x => { x with base := 0, region := some reg }).coll src0 = some y ∧
      tellAll src0 0 (headerBytes (y.header 0)) (w3.setColl src0 fun x => { x with base := 0, region := some reg }) = .ok () z := by
  intro w
  refine ⟨rfl, ?_⟩
  obtain ⟨id, u, y, e, hf⟩ := openLanding_some (collCmd 0 1) (coll0 0 1) 0 w 0x100006 0
    (fun u => decide (u.colls = [collOf 0 1 .closing] ∧ (u.part (u.partOf src0)).slice = none))
    (by decide +kernel) (by decide +kernel) (by decide +kernel)
  obtain ⟨hc, hs⟩ := of_decide_eq_true hf
  have hcoll : ((u.setRegion id y).setColl src0 fun x => { x with base := 0, region := some id }).coll src0 =
      some { collOf 0 1 .closing with base := 0, region := some id } := by
    show (u.colls.map _).find? _ = _
    rw [hc]; rfl
  exact ⟨id, _, _, _, e, hcoll, tellAll_alone _ _ _ _ _ hcoll rfl hs⟩

/-- A collective in a stage. -/
def inColl (c : Coll) : State := { fabricOf (mapped base) with colls := [c], inflight := [flight0 0x81 .coll] }

/-- One that adds, whose region 1023 has room for its block of two elements. -/
def summing (o : Nat) (stage : CollStage) : Coll := { collOf o 2 stage with region := some 1023 }

def inSum (c : Coll) : State := { fabricOf (scratched base) with
  colls := [c], inflight := [flight0 0x81 .coll], regions := [(1023, some { region0 with limit := 2048, elems := 2 })] }

/-- A phase from rank 1 with its elements and bytes, and what leaves. -/
def phase0 (first count : Nat) (l : List Byte) (out : Option PhaseOut) : PhaseIn := {
  src := src0, peer := 1, first := first, count := count, ranks := [], data := l, out := out, arrive := 3, last := true, up := .clean
  hit := 0, env := Env.quiet }

def via0 : Via := { src := src0, env := Env.quiet }

/-- A peer's part in a closing exchange. -/
def closing0 (e : Option Int) : ClosingIn := { peer := 1, ovfExp := e, shed := 0, nonfin := 0 }

theorem witness_CollectiveSteps :
    (let c := collOf 1 2 .headers
     (inColl c).gateRoom = true ∧ (inColl c).coll src0 = some c ∧ c.stage = .headers ∧ (1 : Nat) ∈ c.peers ∧
     { c.header 5 with seq := 1 } ≠ c.header 5) ∧
    (let c := collOf 1 2 .phases
     (inColl c).gateRoom = true ∧ (inColl c).coll src0 = some c ∧ ((inColl c).part 0).holder = some 0 ∧ tget 0 c.got 1 < c.total ∧
     c.reduces = false ∧ okThen (phaseMove via0 c (phase0 0 0 [1, 2, 3, 4] none)) (inColl c) (fun _ _ => true) = true ∧
     okThen (ownLands via0 .clean 0 c) (inColl c) (fun _ t => okThen (copyMove via0 c 1 [1, 2, 3, 4]) t fun n _ => n == 4) = true) ∧
    (let c := { summing 2 .spread with own := true }
     c.reduces = true ∧ tget 0 c.got 1 < c.total ∧
     okThen (spreadMove via0 c 1 (wireOf 1 [1, 2])) (inSum c) (fun n _ => n == 2) = true) ∧
    (let c := { summing 0 .closing with own := true }
     (inSum c).gateRoom = true ∧ c.peers = [1] ∧ (∀ k ∈ c.peers, ∃ x ∈ [closing0 none], x.peer.toNat = k) ∧
     (closing0 none).ovfExp = none ∧
     (∀ ovf, let s := (inSum c).setRegion 1023 (some { region0 with ovf := ovf })
       s.coll src0 = some c ∧ okThen (ownLands via0 .clean 0 c) s (fun _ t => decide (c.region.bind t.region = some { region0 with ovf := ovf }) &&
         okThen (tellAll src0 1 [0]) t fun _ _ => true) = true)) ∧
    (let c := { summing 0 .final with own := true }
     okThen (writeSums via0 c) (inSum c) (fun _ u => okThen (tellAll src0 2 []) u fun _ _ => true) = true) ∧
    (let c := { collOf 1 2 .final with own := true }
     okThen (ownLands via0 .clean 0 c) (inColl c) (fun _ u => okThen (tellAll src0 2 []) (u.spoilColl c) fun _ _ => true) = true) := by
  and_intros <;> decide +kernel

/-- R164: a peer's contributions to this rank's block land; this rank's contributions to the other block leave; and, once partial sums
of that block have landed here, they leave in wire form. -/
theorem witness_ReductionPieces :
    (let c := summing 0 .phases
     let x := phase0 0 2 [0x80, 0x3F, 0, 0] none
     c.reduces = true ∧ xwFmt (cdSrcFmt c.desc.toNat) = some (Fmt.BF16, 2) ∧ x.data ≠ [] ∧ (inSum c).coll src0 = some c ∧
     okThen (landPiece via0 Fmt.BF16 2 c x) (inSum c) (fun _ t => okThen (phaseMove via0 c x) (inSum c) fun _ _ =>
       ((t.coll src0).map (·.landed)) == some [(0, 2, [1])]) = true) ∧
    (let c := summing 0 .phases
     let o : PhaseOut := { peer := 1, first := 2, count := 2 }
     okThen (sendPiece via0 .clean 0 Fmt.BF16 2 c o) (inSum c) (fun _ t => (match t.coll src0 with
       | some e => okThen (landPiece via0 Fmt.BF16 2 e (phase0 0 2 [0x80, 0x3F, 0, 0] (some o))) t fun _ _ => decide (e.sent = [(2, 2)])
       | none => false)) = true) ∧
    (let c := { summing 0 .phases with slots := [(0, 2), (1, 2)], landed := [(2, 2, [1])] }
     okThen (sendPiece via0 .clean 0 Fmt.BF16 2 c { peer := 1, first := 2, count := 2 }) (inSum c) (fun _ t =>
       ((t.coll src0).map (·.slots)) == some []) = true) := by
  and_intros <;> decide +kernel


/-! ## Witnesses: training state, steps and scales -/

/-- A tensor record (R178): QUANTISED, BF16 gradient, 1 by 32 elements, planes from 0x2000 to 0x3000. -/
def record1 : Nat :=
  0x2000 + 0x2100 * 2 ^ 64 + 0x2200 * 2 ^ 128 + 0x2300 * 2 ^ 256 + 2 ^ 320 + 32 * 2 ^ 352 + 5 * 2 ^ 400 + 32 * 2 ^ 448

/-- The same with a reserved flag bit. -/
def record2 : Nat := record1 + 128 * 2 ^ 400

/-- Host memory with a hyper record at 0x1000, whose eps is 1.0, and a table of one tensor record at 0x1800. -/
def trainEnv (r : Nat) : Env := hostAt [(0x100014, 4, 0x3F800000), (0x100800, 64, r)]

def optimCmd (r : Nat) : CmdIn := { src := src0, d := desc [(8, 0x1800), (16, 1), (24, 0x1000)], env := trainEnv r }

def optimForm (d : Nat) : Bool := bodyOnly d [(8, 12), (24, 8)] && countOk (field d 16 4) 65535

/-- What EXEC_OPTIM checks of a record. -/
def sound (t : State) (h : List Byte) (l : List TRec) (r : TRec) : Bool :=
  hyperOk h l r.hyper && (r.gradPlane :: r.planes).all (t.ctx 0).maps

theorem witness_Optimiser :
    (∃ t, (mapped base).admits 0x13 fromC optimForm (optimCmd record1) t ∧
      (okThen (vread { src := src0, env := trainEnv record1 } .copy 0x1901 0x1000 512) t fun h u =>
        okThen (readTable { src := src0, env := trainEnv record1 } 0x1800 1 (sound t h)) u fun rs w =>
          okThen (placeShares 0 0) w fun _ w1 =>
            let w2 := w1.onClusters 0 fun k => { k with worked := true, pwr := if k.pwr = .idle then .active else k.pwr }
            okThen (((List.range rs.length).zip (rs.zip (w2.optShared 0 rs))).mapM fun e => do
              laneResidue src0 none e.1
              optRecord { src := src0, env := trainEnv record1 } h e.2.2 e.2.1) w2 (fun _ _ => true) &&
            (match (((List.range rs.length).zip (rs.zip (w2.optShared 0 rs))).mapM fun e => do
                laneResidue src0 (some (0, 0)) e.1
                optRecord { src := src0, env := trainEnv record1 } h e.2.2 e.2.1 : M (List (Nat × Nat))) w2 with
              | .error (.fault 0x1402 0 0) _ => true
              | _ => false)) = true) ∧
    (∃ t, (mapped base).admits 0x13 fromC optimForm (optimCmd record2) t ∧
      (okThen (vread { src := src0, env := trainEnv record2 } .copy 0x1901 0x1000 512) t fun h u =>
        match readTable { src := src0, env := trainEnv record2 } 0x1800 1 (sound t h) u with
        | .error (.fault 0x1410 0 0) _ => true
        | _ => false) = true) :=
  ⟨admits_with _ _ _ _ _ _ (by decide +kernel), admits_with _ _ _ _ _ _ (by decide +kernel)⟩

/-- R184: two records of one table that name the same elements clash; one alone does not. -/
theorem test_optim_clash :
    (((mapped base).optShared 0 [TRec.of record1]).all (·.none)) = true ∧
    ((mapped base).optShared 0 [TRec.of record1, TRec.of record1]).map (fun x => (x.p, x.grad)) =
      [(List.replicate 32 true, []), (List.replicate 32 true, [])] := by decide +kernel

/-- R163: a byte of SRC that is written while a collective runs marks it; a byte behind its last line does not. -/
theorem test_collective_touched :
    let s := inColl (collOf 1 2 .phases)
    let k := (s.ctx 0).pasid.toNat
    (s.touch (true, k, 0x101003, 1)).colls.map (·.touched) = [true] ∧
    (s.touch (true, k, 0x101004, 1)).colls.map (·.touched) = [false] := by decide +kernel

/-- OPT_DIGEST of one record and the single rank on device 0. -/
def digestCmd : CmdIn := { src := src0, d := desc [(8, 0x1800), (16, 1), (24, 0x4000), (32, 1)], env := trainEnv record1 }

def digestForm (d : Nat) : Bool :=
  bodyOnly d [(8, 12), (24, 17)] && countOk (field d 16 4) 65535 && countOk (field d 32 2) 1024 && decide (field d 34 2 < field d 32 2)
    && decide (field d 40 1 < 2)

theorem witness_Digests :
    (∃ t, (mapped base).admits 0x91 fromC digestForm digestCmd t ∧
      (okThen (readTable { src := src0, env := trainEnv record1 } 0x1800 1
          (fun _ r => [(r.hi, 2 * r.count), (r.lo, 2 * r.count)].all (t.ctx 0).maps)) t fun rs u =>
        okThen (vread { src := src0, env := trainEnv record1 } .copy 0x1901 0x4000 2) u fun tab w => w.rankTableOk 0 tab 1 0 &&
          okThen (rs.mapM fun r => digestPart { src := src0, env := trainEnv record1 } 0 false r) w fun _ y =>
            okThen (tellAll src0 0 []) { y with colls := [collOf 1 1 .phases] } fun _ _ => true) = true) ∧
    (let c := { collOf 1 2 .phases with opt := some (5, 9) }
     (inColl c).gateRoom = true ∧ ((inColl c).part 0).holder = some 0 ∧
     (inColl c).coll src0 = some c ∧ c.peers.length = [(5 : BitVec 256)].length ∧ okThen (tellAll src0 2 []) (inColl c) (fun _ _ => true) = true) :=
  ⟨admits_with _ _ _ _ _ _ (by decide +kernel), by decide +kernel⟩

/-- The record, lists of its length, and a place in them. -/
theorem witness_OptimiserUpdate :
    let r := TRec.of record1
    r.quant = true ∧ r.count = 32 ∧ (List.replicate 32 (0 : Word32))[31]? = some 0 ∧ (List.replicate 32 7)[31]? = some 7 ∧
    (TRec.of (record1 + 2 * 2 ^ 400)).mEn = true := by decide +kernel

/-- All agree; a majority with this rank and against it; no majority. -/
theorem witness_DigestOutcome :
    ([(1 : BitVec 256), 1].all fun x => x == 1) = true ∧ ([(1 : BitVec 256), 1, 2].length < 2 * [(1 : BitVec 256), 1, 2].count 1) ∧
    ([(1 : BitVec 256), 2, 2].length < 2 * [(1 : BitVec 256), 2, 2].count 2) ∧
    ([(1 : BitVec 256), 2].all fun v => !decide ([(1 : BitVec 256), 2].length < 2 * [(1 : BitVec 256), 2].count v)) = true := by decide +kernel

/-- A partition with an installed job. -/
def jobbed (s : State) : State := { s with
  sec := { s.sec with jobs := [(0, some { digest := 1, key := 2, record := [] })] } }

def ckptForm (d : Nat) : Bool := bodyOnly d [(8, 13), (24, 24)] && countOk (field d 16 4) 65535 && decide (field d 20 1 < 2)

/-- A SUSPECT context. -/
def suspectS : State := { mapped base with ctxs := [(0, { ctx0 with suspect := true })] }

/-- CKPT_WRITE of one record with LEN bytes at 0x4000. -/
def ckptCmd (len : Nat) : CmdIn := { src := src0, d := desc [(8, 0x1800), (16, 1), (24, 0x4000), (32, len), (40, 0xF000)], env := trainEnv record1 }

/-- CKPT_WRITE of a SUSPECT context, with one byte too few, and with room; of the last, its sections as well. -/
theorem witness_CkptWrite :
    (∃ t, suspectS.admits 0xA1 fromC ckptForm (ckptCmd 0x8000) t ∧ (t.ctx 0).suspect = true) ∧
    (∃ t, (jobbed (mapped base)).admits 0xA1 fromC ckptForm (ckptCmd 463) t ∧
      ((tget none t.sec.jobs 0).isSome && decide (t.ckpts.length < 256) && !(t.ctx 0).suspect &&
        okThen (readTable { src := src0, env := trainEnv record1 } 0x1800 1 fun _ r => ckptMaps (t.ctx 0) false r) t fun rs _ =>
          (sectionsAt rs.length (rs.map fun r => r.secLen false)).2 == 464) = true) ∧
    (∃ t, (jobbed (mapped base)).admits 0xA1 fromC ckptForm (ckptCmd 464) t ∧
      (okThen (readTable { src := src0, env := trainEnv record1 } 0x1800 1 fun _ r => ckptMaps (t.ctx 0) false r) t fun rs u =>
        okThen (rs.mapM fun r => sectionText { src := src0, env := trainEnv record1 } false r) u fun _ _ => true) = true) :=
  ⟨admits_with _ _ _ _ _ (fun t => (t.ctx 0).suspect) (by decide +kernel), admits_with _ _ _ _ _ _ (by decide +kernel),
   admits_with _ _ _ _ _ _ (by decide +kernel)⟩

/-- A checkpoint file of 480 bytes at 0x4000 with one record, whose manifest tag lies at its byte 128 (R190, R191): header, entry. -/
def fileBytes (tag : Nat) : List (Nat × Nat × Nat) := [
  (0x103000, 4, 0x43394C49), (0x103004, 2, 1), (0x10300C, 4, 1), (0x103028, 8, 480), (0x103080, 16, tag),
  (0x103044, 1, 1), (0x103048, 4, 1), (0x10304C, 4, 32)]

/-- CKPT_LOAD of a file with the table of one record: whatever the manifest tag is, one of two tags in the file differs from it. -/
theorem witness_CkptLoad :
    ∃ t, (jobbed (mapped base)).admits 0xA2 fromC ckptForm
        { src := src0, d := desc [(8, 0x1800), (16, 1), (20, 1), (24, 0x4000), (32, 480)], env := hostAt (fileBytes 0 ++ [(0x100800, 64, record1)]) } t ∧
      ((tget none t.sec.jobs 0).isSome &&
        okThen (readTable { src := src0, env := hostAt [(0x100800, 64, record1)] } 0x1800 1 fun _ r => r.planes.all (t.ctx 0).maps) t fun rs u =>
          rs.length == 1 && okThen (vread { src := src0, env := hostAt (fileBytes 0) } .ckpt 0x1901 0x4000 480) u fun file _ =>
            headerForm file 480) = true :=
  admits_with _ _ _ _ _ _ (by decide +kernel)

/-- STEP_MARK with the next count, with count 0, and with another; a recorded mismatch, and none. -/
theorem witness_StepMark :
    (∃ t, base.admits 0x51 fromC (fun d => bodyOnly d [(8, 8)]) (cmd [(8, 1)]) t ∧
      (decide (((t.ctx 0).steps.toNat + 1) % 2 ^ 64 = 1) && !t.proofBusy 0 &&
        okThen (mergeStep src0 0 0 []) t fun _ u => decide ((u.ctx 0).prfPend = none)) = true) ∧
    (∃ t, base.admits 0x51 fromC (fun d => bodyOnly d [(8, 8)]) (cmd [(8, 2)]) t ∧
      decide (2 ≠ ((t.ctx 0).steps.toNat + 1) % 2 ^ 64) = true) ∧
    (∃ t, ({ base with ctxs := [(0, { ctx0 with prfPend := some 2 })] } : State).admits 0x51 fromC (fun d => bodyOnly d [(8, 8)]) (cmd []) t ∧
      (!t.proofBusy 0 && okThen (mergeStep src0 0 0 []) t fun _ u => decide ((u.ctx 0).prfPend = some 2)) = true) :=
  ⟨admits_with _ _ _ _ _ _ (by decide +kernel), admits_with _ _ _ _ _ _ (by decide +kernel), admits_with _ _ _ _ _ _ (by decide +kernel)⟩

/-- SCALE_DECLARE of one record at 0x1000: tensor 16383 with the defaults, or tensor 16384, which does not exist. -/
def declareCmd (id : Nat) : CmdIn := { src := src0, d := desc [(8, 0x1000), (16, 1)], env := hostAt [(0x100000, 16, id + 0x80 * 2 ^ 32)] }

def declareForm (d : Nat) : Bool := bodyOnly d [(8, 12)] && countOk (field d 16 2) 16384 && decide (field d 18 2 < 4096)

theorem witness_ScaleDeclare :
    (∃ t, (mapped base).admits 0x61 fromC declareForm (declareCmd 16383) t ∧
      (okThen (vread { src := src0, env := (declareCmd 16383).env } .copy 0x1901 0x1000 16) t fun l u =>
        let recs := (List.range 1).map fun i => leAt l (16 * i) 16
        let new := recs.foldl (fun (a : State) r => a.applyRec 0 r) u
        decide (firstBad (u.part 0).slice.isSome (u.tensorsOf 0) recs = none) &&
          !overUse (u.scaleUse 0).1 (new.scaleUse 0).1 (bits (u.reg (fnOf 0) .scl 0 0x44 0) 30 16) &&
          !overUse (u.scaleUse 0).2 (new.scaleUse 0).2 (bits (u.reg (fnOf 0) .scl 0 0x44 0) 12 0)) = true) ∧
    (∃ t, (mapped base).admits 0x61 fromC declareForm (declareCmd 16384) t ∧
      (okThen (vread { src := src0, env := (declareCmd 16384).env } .copy 0x1901 0x1000 16) t fun l u =>
        decide (firstBad (u.part 0).slice.isSome (u.tensorsOf 0) ((List.range 1).map fun i => leAt l (16 * i) 16) = some 0)) = true) :=
  ⟨admits_with _ _ _ _ _ _ (by decide +kernel), admits_with _ _ _ _ _ _ (by decide +kernel)⟩

/-- A DELAYED tensor whose history is empty, and one whose history holds a maximum, with and without a limit on its fall. -/
theorem witness_ScaleFollows :
    tensor0.delayed = true ∧ (tensor0.stepped 0).hist.foldl maxF 0 ≠ 0 ∧ tensor0.fallback = false ∧ tensor0.xMin ≤ tensor0.xMax ∧
    tensor0.downMax ≠ 0 ∧ tensor0.x ≤ tensor0.xMax ∧ (({ tensor0 with hist := [0, 0] } : Tensor).stepped 0).hist.foldl maxF 0 = 0 ∧
    ({ tensor0 with downMax := 0 } : Tensor).downMax = 0 := by
  and_intros <;> decide +kernel

/-- What CKPT_WRITE of the last of these writes, up to its end: the sections and the body. -/
def ckptWritten (q : CmdIn) (t : State) : Bool :=
  let d := descOf q 0xA1
  let v : Via := { src := q.src, env := q.env }
  match tget none t.sec.jobs 0 with
  | none => false
  | some j =>
    okThen (readTable v (field d 8 8) (field d 16 4) fun _ r => ckptMaps (t.ctx 0) false r) t fun rs u =>
      let at' := sectionsAt rs.length (rs.map fun r => r.secLen false)
      let id := u.ckptId
      let w0 := { u with ckptId := u.ckptId + 1 }
      let key := ckptKey j Config.serial.toNat id.toNat
      let head := fileHeader (field d 20 1) id.toNat rs.length (t.ctx 0).steps.toNat
          (if (w0.part 0).slice.isSome then w0.devNum else 0) (((w0.part 0).slice.map (·.toNat)).getD 0) at'.2
        ++ (rs.zip at'.1).flatMap fun e => manifestEntry e.1 e.2 (e.1.secLen false + 16)
      okThen (((List.range rs.length).zip rs).mapM fun (e : Nat × TRec) => do
        let l ← sectionText v false e.2
        let sealed := gcmSeal key (beBytes 12 e.1) [] l
        pure (slice sealed.1 0 l.length ++ leBytes 16 sealed.2.toNat) : M (List (List Byte))) w0 fun secs w =>
        let body := (at'.1.zip secs).foldl (fun (f : List Byte) e => f ++ List.replicate (e.1 - f.length) 0 ++ e.2) (head ++ manifestTag key head)
        body.length == 464 && okThen (egressPut v .ckpt (field d 24 8) body) w fun _ _ => true

theorem witness_CkptWritten :
    ∃ t, (jobbed (mapped base)).admits 0xA1 fromC ckptForm (ckptCmd 464) t ∧ ckptWritten (ckptCmd 464) t = true :=
  admits_with _ _ _ _ _ _ (by decide +kernel)

/-! ## Witnesses: partitions and slices -/

/-- A bind request for FREE partition 62: cluster 127 and channel 511 join. -/
def bindReq0 : Nat := 1 + 62 * 2 ^ 8 + 0x40 * 2 ^ 24 + 2 ^ (8 * 16 + 127) + 2 ^ (8 * 48 + 511)

/-- A release and a reset of partition 0. -/
def relReq : Nat := 2
def rstReq : Nat := 3

/-- A partition that has nothing left of its contexts, in a state, with a request under way. -/
def drainedS (st : PartState) (o : BitVec 8) : State := { base with
  ctxs := [], parts := [(0, { Partition.reset with state := st, extents := [(0, [0, 1])] })], bind := some { op := o, part := 0, req := 2, moved := false } }

/-- A bind of a cluster under way in partition 0. -/
def bindingS : State := { base with
  parts := [(0, { Partition.reset with state := .binding, extents := [(0, [0, 1])] })]
  bind := some { op := 1, part := 0, req := BitVec.ofNat 2048 (1 + 0x40 * 2 ^ 24 + 2 ^ (8 * 16 + 127))
                 moved := false } }

/-- A request that cannot be read; a bind, a release and a reset that are accepted; one that is refused. -/
theorem witness_PartitionRequests :
    base.partLive = true ∧ base.bind = none ∧ base.bindCheck bindReq0 = 0 ∧ field bindReq0 0 1 = 1 ∧ field bindReq0 1 1 = 62 ∧
    base.bindCheck relReq = 0 ∧ base.bindCheck rstReq = 0 ∧ base.bindCheck (relReq + 62 * 256) = 2 := by
  and_intros <;> decide +kernel

theorem witness_PartitionSequences :
    (bindingS.quiescent 0 = true ∧ bindingS.partLive = true ∧
      (∀ c ∈ reqBits (1 + 0x40 * 2 ^ 24 + 2 ^ (8 * 16 + 127)) 16 16, bindingS.isReferee c = false) ∧
      reqBits (1 + 0x40 * 2 ^ 24 + 2 ^ (8 * 16 + 127)) 112 1 = [] ∧
      okThen (bindMoves 0 (1 + 0x40 * 2 ^ 24 + 2 ^ (8 * 16 + 127))) bindingS (fun _ _ => true) = true) ∧
    ((drainedS .draining 2).drained 0 = true ∧ (drainedS .draining 2).partLive = true ∧ (drainedS .draining 2).ctrs = [] ∧ okThen (releaseMoves 0) (drainedS .draining 2) (fun _ _ => true) = true) ∧
    (((drainedS .resetting 3).part 0).state = .resetting ∧ (drainedS .resetting 3).drained 0 = true ∧
      (drainedS .resetting 3).partLive = true) ∧
    (let s : State := { cased (mapped base) with flushing := [0] }
     okThen ((s.cases.filterMap fun e => match e.2 with
       | some c => if c.way = 0 then some e.1 else none
       | none => none).forM (writeBack Env.quiet) : M Unit) s (fun _ _ => true) = true) ∧
    (let s : State := { base with clusters := [(0, { Cluster.reset with owner := 0, health := .confirmed })] }
     s.leaves 0 = true ∧ s.atCommand 0 = true ∧ (s.part 0).state ≠ .binding) ∧
    (let s : State := { base with flushing := [5], bind := some { op := 2, part := 0, req := 2, moved := true } }
     (5 : BitVec 4) ∈ s.flushing ∧ s.cases = [] ∧ s.flushing.filter (· != 5) = []) ∧
    ((base.part 0).state = .active ∧ (bindingS.part 0).state = .binding ∧ (base.part 62).state = .free ∧ base.partLive = true ∧
      (base.tdi 0 = .run)) := by
  and_intros <;> decide +kernel

/-- A request with operation 4; a release of a FREE partition; a bind of one that is BINDING, and one in EVACUATE. -/
theorem witness_RequestChecks :
    reqForm 4 = false ∧ (reqForm (2 + 62 * 256) = true ∧ (base.part 62).state = .free ∧ field (2 + 62 * 256) 0 1 ≠ 1) ∧
    (reqForm bindReq0 = true ∧ (bindingS.part 0).state = .binding) ∧
    ({ base with pwr := { base.pwr with state := .evacuate } } : State).bindCheck bindReq0 = 2 ∧ base.bindCheck bindReq0 = 0 := by
  and_intros <;> decide +kernel

/-- Cluster 127 is unbound: active, FALLOW, or in a flash-clear; cluster 0 has no work. -/
theorem witness_Clusters :
    (base.gate 0 .cl 127 true true = .go ∧ (base.cluster 127).owner = 0x3F ∧ (base.cluster 127).inService = true ∧
      (base.cluster 127).pwr = .active ∧ (base.cluster 127).clear = false ∧ base.isReferee 127 = false) ∧
    (let s : State := { base with clusters := [(127, { Cluster.reset with pwr := .fallow })] }
     s.gate 0 .cl 127 true true = .go ∧ (s.cluster 127).pwr = .fallow ∧ s.pwr.state ≠ .slumber) ∧
    base.gate 1 .cl 0 true true = .go ∧
    ((base.cluster 0).pwr = .active ∧ (base.clCtrl 0).testBit 0 = true ∧ (base.cluster 0).slots = []) ∧
    (({ base with clusters := [(0, { Cluster.reset with owner := 0, clear := true })] } : State).cluster 0).clear = true := by
  and_intros <;> decide +kernel

/-- A rival of the holder: context 5 waits for the slice with an EXEC_OPTIM of its queue 15. -/
def rivalS (due : Bool) (queueing : List (BitVec 12)) : State := { twoCtx with
  ctxs := [(0, { ctx0 with admin := true, queues := [(0, some { queue0 with head := 1 })] }), (5, { Context.reset with
    bound := true, part := 0, pasid := 8, state := .runnable, queues := [(15, some { queue0 with num := 1 })] })]
  inflight := [{ flight0 0x13 .ready with src := .ctx 5 15 }]
  parts := [(0, { Partition.reset with state := .active, holder := some 0, queueing := queueing, preemptDue := due })] }

/-- Outside confidential mode: the life-cycle word is FACTORY (R426). -/
def open' (s : State) : State := { s with sec := { s.sec with lc := List.replicate 3 0x000F#16 } }

theorem witness_Slices :
    (((rivalS false [5]).part 0).holder = some 0 ∧ (5 : BitVec 12) ∈ ((rivalS false [5]).part 0).queueing ∧
      (rivalS false [5]).readyPrio 5 = some 0 ∧ ((rivalS false [5]).readyPrio 0).getD 0 ≤ 0) ∧
    ((rivalS false []).part 0).queueing = [] ∧
    (((rivalS true [5]).part 0).preemptDue = true ∧ (rivalS true [5]).atBoundary 0 = true ∧ (rivalS true [5]).dbgKeeps 0 = false ∧
      (rivalS true [5]).nextHolder [5] = some 5 ∧ (rivalS true []).nextHolder [] = none) ∧
    (base.gate 0 .part 0 true false = .go ∧ base.lockHolds 0 .part 0 = false) ∧
    ({ base with dbg := { hold := true, held := false, cl := 0 } } : State).dbg.hold = true ∧
    (base.confidential = true ∧ (2 ^ 31).testBit 31 = true) ∧
    ((open' base).confidential = false ∧ (open' base).dbg.hold = false ∧ ((open' base).cluster 5).running = none) ∧
    ((open' tile0).confidential = false ∧ ((open' tile0).cluster 0).running = some 0 ∧ ((open' tile0).cluster 0).slot 0 = some slot0) ∧
    (2 ^ 31 - 1).testBit 31 = false := by
  and_intros <;> decide +kernel

/-- A TAIL at the end of the ring and one beyond it, of a context's queue and of a management queue that is enabled; the enabling of
one that is not. -/
theorem witness_Doorbells :
    (base.bellsLive 1 = true ∧ (base.ctx 0).bound = true ∧ (base.ctx 0).part.toNat = 0 ∧ (base.ctx 0).state ≠ .teardown ∧
      base.queue 0 0 = some queue0 ∧ ¬ queue0.size < ((16 : Word32) - queue0.head).toNat ∧ queue0.size < ((17 : Word32) - queue0.head).toNat) ∧
    (base.bellsLive 0 = true ∧ (16 - (base.mq 0).head).toNat ≤ 2 ^ (base.mq 0).log2 ∧ 2 ^ (base.mq 0).log2 < (17 - (base.mq 0).head).toNat ∧
      (base.mq 0).enable = true) ∧
    (base.gate 0 .cmdp 0 true false = .go ∧ base.lockHolds 0 .cmdp 0 = false ∧
      (let s := base.setReg 0 .cmdp 0 0x40 0 15
       s.reg 0 .cmdp 0 0x40 0 % 16 = 15 ∧ (s.mq 15).enable = false)) := by
  and_intros <;> decide +kernel

/-! ## Witnesses: lines, the Seal engine and the egress gate -/

/-- An access to the last object line of channel 0. -/
def lastLine : LineAcc := { ch := 0, line := BitVec.ofNat 24 (objectLines - 1), kid := 9, part := 0, agent := .copy, env := Env.quiet }

/-- A state with the KeyID of the access. -/
def keyedS : State := { base with kids := [(9, kid0)] }

/-- The same, with the line in the Case. -/
def casedLast : State := { keyedS with
  cases := [(lidOf 0 (objectLines - 1), some { data := 7, dirty := true, kid := 9, part := 0, way := 0, stamp := none, used := 0 })] }

theorem witness_LineAccesses :
    lastLine.line.toNat < objectLines ∧ keyedS.memLive = true ∧ (keyedS.chan 0).owner = lastLine.part ∧ (keyedS.chan 511).owner ≠ 0 ∧
    okThen (readLine Env.quiet (accOf lastLine)) keyedS (fun _ _ => true) = true ∧
    okThen (keyCheck 9 0 .copy 0) keyedS (fun _ t => okThen (sealStore Env.quiet (accOf lastLine) 5) t fun _ _ => true) = true ∧
    okThen (keyCheck 9 0 .copy 0) keyedS (fun _ t => decide (t.caseLine (lidOf 0 (objectLines - 1)) = none) &&
      okThen (sealVerified Env.quiet (accOf lastLine)) t fun old u =>
        okThen (sealStore Env.quiet (accOf lastLine) (mergeBytes old 5 1)) u fun _ _ => true) = true ∧
    okThen (keyCheck 9 0 .copy 0) casedLast (fun _ t => okThen (settleLine (lidOf 0 (objectLines - 1))) t fun _ u =>
      okThen (sealStore Env.quiet (accOf lastLine) (mergeBytes 7 5 1)) u fun _ _ => true) = true ∧
    okThen (keyCheck 9 0 .copy 0) casedLast (fun _ t => ((t.caseLine (lidOf 0 (objectLines - 1))).map (·.dirty) == some true) &&
      okThen (readLine Env.quiet (accOf lastLine)) (t.ceAt 0 (objectLines - 1) 0) (fun d _ => d == 7) &&
      okThen (putLine Env.quiet (accOf lastLine) (BitVec.allOnes 64) 5) t fun _ _ => true) = true ∧
    okThen (keyCheck 9 0 .copy 0) { casedLast with cases := casedLast.cases.map fun e => (e.1, e.2.map fun c => { c with dirty := false }) }
      (fun _ t => ((t.caseLine (lidOf 0 (objectLines - 1))).map (·.dirty) == some false) &&
        okThen (readLine Env.quiet (accOf lastLine)) (t.setCaseLine (lidOf 0 (objectLines - 1)) none) (fun _ _ => true) &&
        okThen (putLine Env.quiet (accOf lastLine) (BitVec.allOnes 64) 5) (t.setCaseLine (lidOf 0 (objectLines - 1)) none) fun _ _ => true)
      = true := by
  and_intros <;> decide +kernel

/-- The greatest minor counter that rises without an overflow, in the last place. -/
theorem witness_CounterRises : (63 : Nat) < 64 ∧ (CtrBlk.zero.setMin 63 62).min 63 < 63 ∧ (62 : Nat) ≠ 63 := by decide +kernel

/-- A pending read of quadrant 3 whose check passes, or fails. -/
def pendRead0 (bad : Option HaltAt) : PendRead := { q := 3, stamp := 1, stack := 31, lid := 511 * 2 ^ 24, blks := [], bad := bad }

/-- The cause of a failed check. -/
def halt0 : HaltAt := { cause := .tag, stack := 31, level := 0, loc := 15, line := 0 }

theorem witness_SealRows :
    (∃ r rest, takeFirst (fun (r : PendRead) => r.q == 3) [pendRead0 none] = some (r, rest) ∧ r.bad = none) ∧
    (∃ r rest, takeFirst (fun (r : PendRead) => r.q == 3) [pendRead0 (some halt0)] = some (r, rest) ∧ r.bad = some halt0) ∧
    (([pendRead0 none].find? fun r => r.q == 3) = some (pendRead0 none)) ∧
    base.verifyLimit 31 < 12751 ∧ 0 ≤ base.verifyLimit 31 ∧
    (let s : State := { base with ctrs := [(ctrKey 511 3 0, some { CtrBlk.zero with dirty := true })] }
     (s.ctr 511 3 0).isSome = true ∧ okThen (flushCtr Env.quiet 511 3 0) s (fun _ _ => true) = true) ∧
    (({ base with ctrs := [(ctrKey 511 3 0, some CtrBlk.zero)] } : State).ctr 511 3 0 = some CtrBlk.zero ∧ CtrBlk.zero.dirty = false) ∧
    (let s : State := { base with kids := [(65535, { kid0 with cached := false })] }
     (s.kid 65535).state = .keyed ∧ (s.kid 65535).cached = false) :=
  ⟨⟨_, _, rfl, rfl⟩, ⟨_, _, rfl, rfl⟩, by and_intros <;> decide +kernel⟩

/-- A corrected line of the last channel, an error pattern that cannot be corrected on an object line and on a line of the counter tree,
of a tenant and of none; a running erase pass at its last line, whose line is of the pass's ERA, or cannot be read. -/
theorem witness_Harrow :
    (base.reg 0 .mc 31 0x10 0x180421).testBit 0 = true ∧ (base.mcRead 511 0 (Env.onLine (lidOf 511 0) 1)).1.isSome = true ∧
    (base.mcRead 511 (objectLines - 1) (Env.onLine (lidOf 511 (objectLines - 1)) (BitVec.allOnes 640))).1 = none ∧ treeLevel (objectLines - 1) = 0 ∧
    ((base.mcRead 511 objectLines (Env.onLine (lidOf 511 objectLines) (BitVec.allOnes 640))).1 = none ∧ treeLevel objectLines ≠ 0 ∧ objectLines < channelLines ∧
      ((base.mcRead 511 objectLines (Env.onLine (lidOf 511 objectLines) (BitVec.allOnes 640))).2.chan 511).owner = 63) ∧
    ((base.mcRead 0 objectLines (Env.onLine (lidOf 0 objectLines) (BitVec.allOnes 640))).1 = none ∧
      ((base.mcRead 0 objectLines (Env.onLine (lidOf 0 objectLines) (BitVec.allOnes 640))).2.chan 0).owner = 0) ∧
    (let s : State := { base with chans := [(511, { Channel.reset with front := some (BitVec.ofNat 24 (objectLines - 1)) })] }
     (s.chan 511).front = some (BitVec.ofNat 24 (objectLines - 1)) ∧
     ((s.mcRead 511 (objectLines - 1) (Env.onLine (lidOf 511 (objectLines - 1)) 0)).1.map fun l => l.state.toNat % 2 ^ 14) = some 0 ∧ (s.chan 511).era = 0) := by
  and_intros <;> decide +kernel

theorem witness_SealHaltEffect :
    base.pwr.state ≠ .halted ∧ ({ base with pwr := { base.pwr with state := .halted } } : State).pwr.state = .halted ∧ (7 : Nat) < 8 := by
  and_intros <;> decide +kernel

theorem witness_EgressGate :
    base.pwr.state ≠ .slumber ∧ base.gateUsed (gateBuffer .cxl).1 + ([0] : List Byte).length ≤ (gateBuffer .cxl).2 ∧
    base.pwr.state ≠ .halted := by
  and_intros <;> decide +kernel

/-- An unstamped record, which passes; an entry stamped at the watermark, which passes; one that is not stamped, which does not. -/
def entryE (stamp : Option (List Word64)) (free : Bool) : Egress := { stamp := stamp, free := free, src := none, seq := none, ev := .msix 0 0 }

def gateS (e : Egress) : State := { base with egress := [(0, [e])], epochs := [(0, 2), (1, 2), (2, 2), (3, 2)] }

theorem witness_NothingUnverifiedLeaves :
    (gateS (entryE (some [1, 1, 1, 1]) false)).passes (entryE (some [1, 1, 1, 1]) false) = true ∧
    tget [] (gateS (entryE none false)).egress (pathNum .cxl) = [entryE none false] ∧ (gateS (entryE none false)).passes (entryE none false) = false ∧
    (gateS (entryE none true)).passes (entryE none true) = true ∧ (gateS (entryE none true)).pathOpen .cxl = true ∧
    (gateS (entryE none false)).nextOut [entryE none false] = none ∧
    (gateS (entryE none false)).nextOut [entryE none false, entryE none true] = some (entryE none true, [entryE none false]) ∧
    (gateS (entryE none true)).nextOut [entryE none true, entryE none false] = some (entryE none true, [entryE none false]) := by
  and_intros <;> decide +kernel

/-! ## Witnesses: Proof units -/

/-- A captured pass of cluster 0, narrow or wide, without and with its referee, whose array sent the CRCs given. -/
def capture0 (wide : Bool) (referee : Option (BitVec 7)) (crcs own : List Word64) : Capture := {
  cl := 0, ctx := 0, part := 0, cmd := 1, id := 0, fa := if wide then 7 else 0, fb := if wide then 7 else 0, blocks := [], crcs := crcs
  own := own, row := 0, found := false, void := false, gone := false, referee := referee }

def captured0 (k : Capture) : State := { base with units := [(0, { ProofUnit.reset with queue := [k] })] }

/-- A unit's capture waits, of agreeing and of differing CRCs, narrow and wide, with and without a cluster for a referee; the CRCs of a
referee's pass are the unit's, the array's, or neither. -/
theorem witness_ProofRows :
    (∀ wide crcs, (crcs = [] ∨ crcs = [1]) → let k := capture0 wide none crcs []
      ((captured0 k).unit 0).queue.find? (fun k => k.cl == 0 && k.referee.isNone) = some k ∧ k.wide = wide) ∧
    (withErrs [] [] = ([] : List Word64) ∧ withErrs [1] [] ≠ ([] : List Word64)) ∧ (captured0 (capture0 true none [1] [])).referees 0 ≠ [] ∧
    (let s : State := { captured0 (capture0 true none [1] []) with
       clusters := (List.range 128).map fun c => (c, { Cluster.reset with owner := if c = 0 then 0 else 0x3F, health := .suspect }) }
     s.referees 0 = []) ∧
    (∀ crcs own, (crcs = [] ∨ crcs = [1]) → (own = [] ∨ own = [1]) → let k := capture0 true (some 127) crcs own
      ((captured0 k).unit 0).queue.find? (fun k => k.referee.isSome) = some k ∧
      ((captured0 k).cluster 127).blocksOf k = []) ∧
    (let s : State := { base with clusters := [(127, { Cluster.reset with health := .suspect, sampled := 2 ^ bits base.prfCtrl 20 16 })] }
     (s.cluster 127).health = .suspect ∧ 2 ^ bits s.prfCtrl 20 16 ≤ (s.cluster 127).sampled) ∧
    (([] : List RateIn).filter fun r => r.ideal != 0 && r.busy != 0 && (base.cluster r.cl.toNat).owner.toNat == 0).length < 4 := by
  and_intros
  · rintro (_ | _) _ (rfl | rfl) <;> decide +kernel
  · decide
  · decide
  · decide +kernel
  · decide +kernel
  · rintro _ _ (rfl | rfl) (rfl | rfl) <;> decide +kernel
  all_goals decide +kernel

/-- A referee is chosen for a wide capture. -/
theorem witness_Referee :
    ∃ r t, (captured0 (capture0 true none [1] [])).choose (((captured0 (capture0 true none [1] [])).referees 0).filter fun c =>
      !(captured0 (capture0 true none [1] [])).isReferee c && !((captured0 (capture0 true none [1] [])).cluster c).clear) = (some r, t) := by
  obtain ⟨r, h⟩ := choose_some (captured0 (capture0 true none [1] [])) (((captured0 (capture0 true none [1] [])).referees 0).filter fun c =>
      !(captured0 (capture0 true none [1] [])).isReferee c && !((captured0 (capture0 true none [1] [])).cluster c).clear) (by decide +kernel)
  exact ⟨r, _, h⟩

/-- A finding at the end of the span since the last one, and one within it, against the last cluster. -/
theorem witness_Findings :
    (127 : Nat) < 128 ∧ (let s : State := { base with clusters := [(127, { Cluster.reset with hours := BitVec.ofNat 16 (max 1 (bits base.prfCtrl 7 0)) })] }
     (s.cluster 127).health = .normal ∧ max 1 (bits s.prfCtrl 7 0) ≤ (s.cluster 127).hours.toNat) ∧
    (let s : State := { base with clusters := [(127, { Cluster.reset with hours := 0 })] }
     (s.cluster 127).health = .normal ∧ (s.cluster 127).hours.toNat < max 1 (bits s.prfCtrl 7 0)) ∧
    (({ base with clusters := [(127, { Cluster.reset with health := .suspect })] } : State).cluster 127).health ≠ .normal := by
  and_intros <;> decide +kernel
/-! ## Witnesses: the host link -/

/-- The state with its host interface changed. -/
def hifS (f : Hif → Hif) : State := { base with hif := f base.hif }

/-- The ends of the rates and widths; the retraining of a link that is up to other and to the same values; the failures before the
eighth and the eighth; a link that is up, over TDIs of three states; a stream of the last number that is Secure; a confidential device
whose required streams are not Secure; the last VF. -/
theorem witness_HostLink :
    (let s := hifS fun h => { h with up := false }
     s.hif.up = false ∧ s.hif.stuck = false ∧ s.pwr.offHold = false ∧ s.pwr.refCxl = true ∧ 1 ≤ (1 : BitVec 3).toNat ∧
       (4 : BitVec 3).toNat ≤ 4 ∧ (4 : BitVec 5).toNat ∈ [4, 8, 16] ∧ (16 : BitVec 5).toNat ∈ [4, 8, 16]) ∧
    (base.hif.up = true ∧ base.hif.rate = 3 ∧ base.hif.width = 16) ∧
    (∀ n ∈ [6, 7], (hifS fun h => { h with up := false, tries := n }).hif.stuck = false) ∧
    ((hifS fun h => { h with tdi := [(0, .run), (1, .locked)] }).tdi 0 = .run ∧
      (hifS fun h => { h with tdi := [(0, .run), (1, .locked)] }).tdi 1 = .locked ∧ base.tdi 62 = .unlocked) ∧
    (hifS fun h => { h with ide := 0x20 }).hif.ide.toNat.testBit 5 = true ∧
    ((hifS fun h => { h with ide := 1 }).confidential = true ∧ (hifS fun h => { h with ide := 1 }).ideSecure = false) ∧
    ((63 : BitVec 6) ≠ 0 ∧ (hifS fun h => { h with tdi := [(62, .run)] }).tdi ((63 : BitVec 6).toNat - 1) = .run ∧
      base.tdi ((63 : BitVec 6).toNat - 1) = .unlocked ∧ base.pwr.offHold = false) := by
  and_intros <;> decide +kernel

/-- A configuration write of each kind but the one that clears error status. -/
theorem witness_ConfigWrites :
    (∀ m, CfgWrite.busMaster true ≠ .aerClear m) ∧ (∀ on, CfgWrite.vfEnable true 63 ≠ .busMaster on) ∧
    (∀ m, CfgWrite.vfEnable true 63 ≠ .aerClear m) ∧ ((hifS fun h => { h with tdi := [(62, .locked)] }).tdi 62 = .locked) := by
  refine ⟨nofun, nofun, nofun, by decide +kernel⟩

/-- A code that the responder does not take; requests in a session and out of one, to a TDI of each state; the last stream. -/
theorem witness_Spdm :
    (0xFF : Byte).toNat ∉ spdmCodes ∧ (0x81 : Byte).toNat ∈ spdmCodes ∧ (hifS fun h => { h with keyEx := true }).hif.keyEx = true ∧
    base.hif.keyEx = false ∧ (2 : BitVec 8).toNat ≤ 2 ∧ 2 < (3 : BitVec 8).toNat ∧ (63 : BitVec 6).toNat ≤ (hifS fun h => { h with numVfs := 63 }).hif.numVfs.toNat ∧
    base.hif.session = false ∧ (hifS fun h => { h with session := true }).hif.session = true ∧
    (base.tdi ((63 : BitVec 6).toNat - 1) = .unlocked ∧ base.tdi ((1 : BitVec 6).toNat - 1) ≠ .unlocked ∧
      base.tdi ((1 : BitVec 6).toNat - 1) ≠ .locked ∧
      (hifS fun h => { h with tdi := [(62, .locked)] }).tdi ((63 : BitVec 6).toNat - 1) = .locked) ∧ (5 : BitVec 3).toNat < 6 := by
  and_intros <;> decide +kernel

/-- Staging slot 255 maps the device object of partition 0, whose KeyID is KEYED. -/
def windowS : State := { keyedS with
  objs := [(5, some { devObj with staging := true })], objGen := [(5, 1)]
  hif := { base.hif with staging := [(255, { mapped := true, part := 0, handle := BitVec.ofNat 32 handle0, off4k := 0, err := 0 })] } }

/-- The last byte of the object in the slot's window, and the byte after it. -/
def offLast : BitVec 36 := 0xFF0000FFF
def offPast : BitVec 36 := 0xFF0001000

/-- The line that the window shows there. -/
def accLast : Acc :=
  match windowS.windowAt offLast with
  | .inr a => a
  | .inl _ => { ch := 0, line := 0, kid := 0, part := 0, agent := .copy }

/-- The same, with a block of the line's counters in the cache whose own check has failed. -/
def badS : State := { windowS with ctrs := [(ctrKey accLast.ch 1 (accLast.line / 64), some { CtrBlk.zero with bad := some halt0 })] }

/-- What a window answers: a cause of rejection, or a line. -/
def causeAt (s : State) (off : BitVec 36) : Option Nat :=
  match s.windowAt off with
  | .inl c => some c
  | .inr _ => none

/-- The HDM range starts at an address that is a multiple of 2^28: its first and last byte, and the one behind it. -/
def hdmS : State := hifS fun h => { h with hdm := some 0x10000000 }

theorem witness_HostMemory :
    (hdmS.hdmOff 0x10000000 = some 0 ∧ hdmS.hdmOff (0x10000000 + 2 ^ 36 - 1) = some (2 ^ 36 - 1) ∧
      hdmS.hdmOff (0x10000000 + 2 ^ 36) = none ∧ hdmS.hdmOff 0xFFFFFFF = none) ∧
    ({ windowS with pwr := { windowS.pwr with state := .halted } } : State).memLive = false ∧
    (windowS.hif.up = true ∧ windowS.memLive = true) ∧ causeAt windowS offPast = some 1 ∧ causeAt base 0 = some 0 ∧
    causeAt windowS offLast = none ∧ causeAt badS offLast = none ∧
    okThen (memReadBody Env.quiet accLast) windowS (fun _ _ => true) = true ∧
    (match memReadBody Env.quiet accLast badS with
     | .error (.halt _) _ => true
     | _ => false) = true ∧
    okThen (writeLine Env.quiet accLast (BitVec.allOnes 64) 5) (windowS.touchWindow offLast (BitVec.allOnes 64)) (fun _ _ => true) = true ∧
    windowS.hif.rejInfo = none ∧ (windowS.memRej true 1 offPast).hif.rejInfo ≠ none := by
  and_intros <;> decide +kernel

/-- A started command of the context's queue. -/
def flying : State := { base with inflight := [flight0 0x81 .coll] }

/-- A host line that the HIF cache does not hold, and one that it holds modified; a fetch of each kind of queue; a command that a host
error ends; a staging slot that is free, whose map passes or fails its checks, and one that is mapped. -/
theorem witness_HostEvents :
    (tget none base.hif.hostCache (0x1000 / 64) = none ∧
      tget none (hifS fun h => { h with hostCache := [(64, some { data := 1, modified := true, used := 0 })] }).hif.hostCache (0x103F / 64) =
        some { data := 1, modified := true, used := 0 }) ∧
    (base.wouldFetch (.ctx 0 0) = true ∧ base.wouldFetch (.mgmt 0) = true) ∧
    (flying.cmdOf src0 = some (flight0 0x81 .coll) ∧ (flight0 0x81 .coll).started = true) ∧
    (base.gate 0 .hif 0 true false = .go ∧ base.lockHolds 0 .hif 0 = false) ∧
    (let s := ((windowS.setReg 0 .hif 0 0x44 0 254).setReg (64 + 254) .hif 0 0x48 0 handle0)
     s.reg 0 .hif 0 0x44 0 % 256 = 254 ∧ s.reg (64 + 254) .hif 0 0x48 0 = handle0 ∧
       s.stgCheck 254 ((2 ^ 31) % 64) handle0 0 = 0 ∧ s.stgCheck 254 ((2 ^ 31) % 64) handle0 1 = 3 ∧
       s.stgCheck 255 ((2 ^ 31) % 64) handle0 0 = 4) ∧
    ((2 ^ 31).testBit 31 = true ∧ (0 : Nat).testBit 31 = false ∧ (windowS.stg 255).mapped = true) := by
  and_intros <;> decide +kernel

/-! ## Witnesses: the fabric -/

/-- The state with a port. -/
def portS (p : Nat) (x : Port) : State := { base with ports := [(p, x)] }

/-- A port of some state. -/
def portIn (st : PortState) : Port := { Port.reset with state := st, reason := 0 }

/-- What a partner's identity record of a magic and a version says. -/
def recOf (magic version : Nat) : BitVec 512 := BitVec.ofNat 512 (magic + version * 2 ^ 32)

/-- Evidence that passes, and evidence of a device of another serial number. -/
def evid (serial : Word64) : PeerEvidence := {
  verifies := true, confidential := true, lifecycle := 3, nonceOk := true, serial := serial, meas := 1, ephemeral := 2 }

theorem witness_FabricPorts :
    (base.gate 0 .ctn 7 true false = .go ∧ base.lockHolds 0 .ctn 7 = false) ∧
    (((portS 7 (portIn .training)).port 7).state = .training ∧ ((portS 7 (portIn .training)).port 7).retrain = false) ∧
    (let s := portS 7 { portIn .training with retrain := true }
     (s.port 7).state = .training ∧ (s.port 7).retrain = true) ∧
    (let s := portS 7 { portUp with txSeq := 0x80000000 }
     (s.port 7).state = .up ∧ (s.port 7).session ≠ none ∧ 2 ^ 31 ≤ (s.port 7).txSeq.toNat) ∧
    (field (recOf 0 4).toNat 0 4 ≠ 0x44394C49 ∧ field (recOf 0 4).toNat 0 4 ≠ 0x53394C49) ∧
    (field (recOf 0x44394C49 4).toNat 0 4 = 0x44394C49 ∧ (field (recOf 0x44394C49 4).toNat 4 1).testBit 2 = true) ∧
    (field (recOf 0x53394C49 2).toNat 0 4 = 0x53394C49 ∧ (field (recOf 0x53394C49 2).toNat 4 1).testBit 2 = false ∧
      (field (recOf 0x53394C49 2).toNat 4 1).testBit 1 = true) ∧
    (field (recOf 0x53394C49 0).toNat 4 1).testBit 2 = false ∧
    ((portS 5 { portIn .attesting with serial := 9 }).port 5).state = .attesting ∧
    ((evid 9).verifies = true ∧ (evid 9).confidential = true ∧ ((evid 9).lifecycle = 2 ∨ (evid 9).lifecycle = 3) ∧ (evid 9).nonceOk = true ∧
      (evid 9).serial = ((portS 5 { portIn .attesting with serial := 9 }).port 5).serial) ∧
    (evid 8).serial ≠ ((portS 5 { portIn .attesting with serial := 9 }).port 5).serial := by
  and_intros <;> decide +kernel

/-- A plan in fixed mode whose entry for port 5 names device 1 at its port 4. -/
def planNbr : List Byte := (List.range 192).map fun i =>
  if i = 64 + 16 * 5 then 9 else if i = 64 + 16 * 5 + 8 then 1 else if i = 64 + 16 * 5 + 10 then 4 else if i = 64 + 16 * 5 + 11 then 1 else 0

theorem witness_PlanCheckFixed :
    let x : Port := { portIn .attesting with serial := 9, peerDev := 1, peerPort := 4, planId := 0, peerRole := 4 }
    let s : State := { portS 5 x with frt := { Frt.reset with plan := some planNbr } }
    (5 : Nat) < 6 ∧ s.planAt 6 1 % 2 = 0 ∧ s.torusCheck 5 = .inr 5 := by
  decide +kernel
/-! ## Witnesses: packets, pair sessions and the plan -/

/-- A fabric with a command on its way. -/
def flyF : State := { fabricOf base with inflight := [flight0 0x81 .coll] }

/-- A packet of that command to a device, in slice 5. -/
def injectTo (dst : BitVec 10) (payload : List Byte) : InjectIn := {
  src := src0, vc := 3, dst := dst, dstEp := 15, srcEp := 0, slice := 5, payload := payload }

/-- A packet of no payload and no slice, as it arrives. -/
def packetIn (hopOk : Bool) (hopSeq : Word32) : PacketIn := {
  port := 5, hopSeq := hopSeq, hopOk := hopOk, header := 2 ^ 38, payload := [], jobOk := true }

/-- What the injection of a packet answers: a code, or none. -/
def injectCode (w : InjectIn) : Option Nat :=
  match flyF.inject w with
  | .inl c => some c
  | .inr _ => none

/-- A link report of a device. -/
def repOf (dev : BitVec 10) : LinkRep := { dev := dev, up := 0xFF, roles := 0, meas := 1 }

/-- A session with the device of the other group. -/
def pairOf (up closing : Bool) (waiting : List InjectIn) : Pair := {
  up := up, keys := 1, waiting := waiting, closing := closing, used := 0, rxSeq := none }

def pairS (x : Pair) : State := { flyF with frt := { flyF.frt with pairs := [(64, x)] } }

theorem witness_FabricPackets :
    (flyF.port 5).state = .up ∧
    (let s := portS 7 { portUp with txq := [{ src := none, data := List.replicate 16 0 }] }
     (takeFirst (fun (k : Pkt) => pktVc k.data == 0) (s.port 7).txq).isSome = true) ∧
    (flyF.cmdOf src0 = some (flight0 0x81 .coll) ∧ (flight0 0x81 .coll).started = true ∧
      (injectTo 1 (List.replicate 64 0)).payload.length ≤ 1024) ∧
    (injectCode (injectTo 1 (List.replicate 64 0)) = none ∧ injectCode (injectTo 2 []) = some 0x2902) ∧
    (let w := packetIn true 0
     let d := leBytes 16 w.header.toNat ++ w.payload
     w.payload.length = pktLen d + (if pktMgmt d = true then 0 else 16) ∧ w.hopSeq = (flyF.port 5).rxSeq) ∧
    ((packetIn false 0).hopOk = false ∧ (packetIn true 1).hopSeq ≠ (flyF.port 5).rxSeq) ∧
    (flyF.sliceOwner 5 = some 0 ∧ flyF.partOf src0 = 0) ∧
    (flyF.frt.plan ≠ none ∧ (repOf 1).dev.toNat ≠ flyF.devNum ∧ flyF.devExists (repOf 1).dev.toNat = true ∧
      flyF.sameGroup flyF.devNum (repOf 1).dev.toNat = true) := by
  and_intros <;> decide +kernel

theorem witness_PairSessions :
    (flyF.pairPeer 64 = true ∧ flyF.pair 64 = none ∧ evidencePasses (evid 0) = true ∧ flyF.frt.pairs.length < 1024) ∧
    (pairS (pairOf false false [])).pair 64 = some (pairOf false false []) ∧
    evidencePasses { evid 0 with nonceOk := false } = false ∧
    ((pairS (pairOf true true [])).pair 64 = some (pairOf true true []) ∧ (pairS (pairOf true true [])).pairBusy 64 = false) ∧
    (pairS (pairOf true false [injectTo 64 []])).pairBusy 64 = true := by
  and_intros <;> decide +kernel

/-- A plan for this device alone, that is for the serial number of any device. -/
def planHead : List Byte :=
  leBytes 4 0x49394C49 ++ leBytes 2 1 ++ [0, 0] ++ leBytes 8 1 ++ [1, 1, 1, 1, 1, 1] ++ leBytes 2 0

def planOwn : List Byte := planHead ++ leBytes 8 Config.serial.toNat ++ List.replicate 160 0

theorem planOwn_serial : leAt planOwn 24 8 = Config.serial.toNat := by
  have h : slice planOwn 24 8 = leBytes 8 Config.serial.toNat := rfl
  rw [leAt, h, ofLe_leBytes]
  exact Nat.mod_eq_of_lt Config.serial.isLt

theorem witness_FabricPlan :
    base.gate 0 .frt 0 true false = .go ∧ base.partLive = true ∧ base.planCheck [] = 2 ∧ base.planCheck planOwn = 0 ∧
    base.lockHolds 0 .frt 0 = false ∧ (∀ e ∈ base.parts, e.2.slice = none) ∧ (flyF.part 0).slice ≠ none := by
  refine ⟨by decide +kernel, by decide +kernel, by decide +kernel, ?_, by decide +kernel, by decide +kernel, by decide +kernel⟩
  unfold State.planCheck
  simp only [planOwn_serial, ne_eq, not_true_eq_false, if_false]
  rw [if_neg (by decide +kernel), if_neg (by decide +kernel), if_neg (by decide +kernel), if_neg (by decide +kernel)]
/-! ## Witnesses: security -/

/-- Host memory that holds bytes at an offset of object 5, before other bytes. -/
def hostBytes (off : Nat) (l : List Byte) (e : Env) : Env := { e with
  host := ((List.range l.length).map fun i => (8 * 2 ^ 64 + (0x100000 + off + i), l.getD i 0)) ++ e.host }

theorem hostByte_hostBytes (off : Nat) (l : List Byte) (e : Env) (i : Nat) (h : i < l.length) (hl : off + l.length ≤ 0x10000) :
    hostByte (hostBytes off l e) 8 (0x100000 + off + i) = l.getD i 0 := by
  have hi : (0x100000 + off + i) % 2 ^ 64 = 0x100000 + off + i := Nat.mod_eq_of_lt (by omega)
  have : (hostBytes off l e).host.find? (fun x => x.1 == 8 * 2 ^ 64 + (0x100000 + off + i)) =
      some (8 * 2 ^ 64 + (0x100000 + off + i), l.getD i 0) := by
    rw [hostBytes, List.find?_append, List.find?_map, List.find?_range_eq_some.mpr]
    · rfl
    · refine ⟨by simp only [Function.comp, beq_self_eq_true], by simpa using h, fun j hj => ?_⟩
      simp only [Function.comp, Bool.not_eq_true', beq_eq_false_iff_ne]
      omega
  rw [hostByte, hi, this]; rfl

/-- What a state must hold for context 0 to read object 5 through its range. -/
def readsHost (t : State) (va len : Nat) : Bool :=
  ((pieces va len).all fun p => decide ((t.ctx 0).rangeAt p.1 = some range0)) && decide (t.obj 5 = some hostObj)
    && decide ((t.ctx 0).pasid = 7) && decide (t.partOf src0 = 0) && decide (t.tdi 0 = .run) && t.hostReady 0

theorem vread_bytes (a : Agent) (off : Nat) (l : List Byte) (e : Env) (t : State) (he : e.hostFail = none) (hl : off + l.length ≤ 0x10000)
    (h : readsHost t (0x1000 + off) l.length = true) :
    vread { src := src0, env := hostBytes off l e } a 0x1901 (0x1000 + off) l.length t = .ok l t := by
  simp only [readsHost, Bool.and_eq_true, decide_eq_true_eq, List.all_eq_true] at h
  obtain ⟨⟨⟨⟨⟨h1, h3⟩, h4⟩, h5⟩, h6⟩, h7⟩ := h
  have ha : hostAccess { src := src0, env := hostBytes off l e } t = .ok () t := by simp [hostAccess, h5, h6, h7]
  have hr := vread_host (v := { src := src0, env := hostBytes off l e }) (a := a) (miss := 0x1901) (va := 0x1000 + off) (len := l.length)
    (t := t) (r := range0) (o := hostObj) h1 rfl (by simp [range0]) h3 rfl ha he
  rw [hr]
  congr 1
  have e0 : ctxOf src0 = 0 := rfl
  refine List.ext_getElem (by simp) fun i h1 h2 => ?_
  have hb := hostByte_hostBytes off l e i h2 hl
  simp only [List.getElem_map, List.getElem_range, e0, h4]
  rw [show hostObj.base + range0.off + (0x1000 + off - range0.va) + i = 0x100000 + off + i by simp [hostObj, range0]]
  refine hb.trans ?_
  rw [List.getD_eq_getElem?_getD, List.getElem?_eq_getElem h2]; rfl

/-- The security controller with values in place of what the device draws. -/
def sec0 : Sec := { Sec.reset with dus := some 1, nonce := 2, bootVal := 3, seed := 4, m4 := 5 }

/-- The first 24 bytes of a blob of partition 0: its type, its boot, its KeyID and its mask. -/
def blobHead (type boot kid mask : Nat) : List Byte :=
  leBytes 4 0x4B394C49 ++ leBytes 2 1 ++ [BitVec.ofNat 8 type, 0] ++ leBytes 8 boot ++ [0, 0] ++ leBytes 2 kid ++ leBytes 4 mask

/-- A blob with an IV and a ciphertext of zeros, and the tag that K_WRAP gives it. -/
def sealed0 (s : State) (a iv c ct : List Byte) : List Byte :=
  a ++ (iv ++ c) ++ (ct ++ (leBytes 16 (gcmTag s.kWrap iv (a ++ (iv ++ c)) ct).toNat ++ List.replicate 16 0))

def blobOf (s : State) (type boot kid mask : Nat) : List Byte :=
  sealed0 s (blobHead type boot kid mask) (List.replicate 12 0) (List.replicate 28 0) (List.replicate 32 0)

theorem sealed_unwraps (s : State) (a iv c ct : List Byte) (ha : a.length = 24) (hi : iv.length = 12) (hc : c.length = 28)
    (ht : ct.length = 32) : (s.unwrap (sealed0 s a iv c ct)).isSome = true := by
  have h1 : slice (sealed0 s a iv c ct) 24 12 = iv := by
    rw [sealed0, List.append_assoc, List.append_assoc]; exact slice_mid a iv _ 24 12 ha hi
  have h2 : slice (sealed0 s a iv c ct) 0 64 = a ++ (iv ++ c) :=
    slice_mid [] (a ++ (iv ++ c)) _ 0 64 rfl (by simp [ha, hi, hc])
  have h3 : slice (sealed0 s a iv c ct) 64 32 = ct := slice_mid (a ++ (iv ++ c)) ct _ 64 32 (by simp [ha, hi, hc]) ht
  have h4 : slice (sealed0 s a iv c ct) 96 16 = leBytes 16 (gcmTag s.kWrap iv (a ++ (iv ++ c)) ct).toNat := by
    have := slice_mid (a ++ (iv ++ c) ++ ct) (leBytes 16 (gcmTag s.kWrap iv (a ++ (iv ++ c)) ct).toNat) (List.replicate 16 0) 96 16
      (by simp [ha, hi, hc, ht]) (by simp)
    rwa [List.append_assoc] at this
  simp only [State.unwrap, h1, h2, h3, h4, if_true, Option.isSome_some]

theorem blob_unwraps (s : State) (type boot kid mask : Nat) : (s.unwrap (blobOf s type boot kid mask)).isSome = true :=
  sealed_unwraps s _ _ _ _ (by simp [blobHead]) rfl rfl rfl

theorem boot_at (s : State) (type kid mask : Nat) : leAt (blobOf s type s.bootId kid mask) 8 8 = s.bootId := by
  have h : slice (blobOf s type s.bootId kid mask) 8 8 = leBytes 8 s.bootId := by
    have := slice_mid (leBytes 4 0x4B394C49 ++ leBytes 2 1 ++ [BitVec.ofNat 8 type, 0]) (leBytes 8 s.bootId)
      ([0, 0] ++ leBytes 2 kid ++ leBytes 4 mask ++ (List.replicate 12 0 ++ List.replicate 28 0) ++ (List.replicate 32 0 ++
        (leBytes 16 (gcmTag s.kWrap (List.replicate 12 0) (blobHead type s.bootId kid mask ++ (List.replicate 12 0 ++
          List.replicate 28 0)) (List.replicate 32 0)).toNat ++ List.replicate 16 0))) 8 8 (by simp) (by simp)
    rw [← this]
    simp [blobOf, sealed0, blobHead]
  rw [leAt, h, ofLe_leBytes]
  refine Nat.mod_eq_of_lt (Nat.lt_of_lt_of_eq (ofLe_lt _) ?_)
  simp [shakeBytes]

theorem kWrap_of (s t : State) (h : s.sec = t.sec) : s.kWrap = t.kWrap := by
  simp only [State.kWrap, State.dusBytes, State.lifecycle, h]; rfl

theorem bootId_of (s t : State) (h : s.sec = t.sec) : s.bootId = t.bootId := by
  simp only [State.bootId, h]

/-- A job record for code of the measurement 5, without a slice. -/
def jobRec0 : List Byte := List.replicate 16 0 ++ [64] ++ List.replicate 47 0 ++ leBytes 64 5

/-- The partition's KeyID 9 is BOUND, with or without a job record that partition 0 may install. -/
def boundS : State := { mapped base with kids := [(9, { kid0 with state := .bound })], sec := { sec0 with jobRecs := [(0, jobRec0)] } }

/-- KEY_LOAD of a blob. -/
def keyLoadOf (type kid mask boot : Nat) (s : State) : CmdIn := {
  src := src0, d := desc [(8, kid), (16, 0x1000), (24, 128)], env := hostBytes 0 (blobOf s type boot kid mask) Env.quiet }

theorem blob_length (s : State) (type boot kid mask : Nat) : (blobOf s type boot kid mask).length = 128 := by
  simp [blobOf, sealed0, blobHead]

/-- The state in which the blob is read. -/
def keyReady (t : State) : Bool :=
  decide (t.sec = boundS.sec) && decide (t.kids = boundS.kids) && decide (t.parts = boundS.parts) &&
    readsHost t 0x1000 128

theorem unwrap_of (s t : State) (b : List Byte) (h : s.sec = t.sec) : s.unwrap b = t.unwrap b := by
  rw [State.unwrap, State.unwrap, kWrap_of s t h]

theorem keyReady_read (type kid mask boot : Nat) (t : State) (h : keyReady t = true) :
    vread { src := src0, env := (keyLoadOf type kid mask boot boundS).env } .copy 0x1901 0x1000 128 t =
      .ok (blobOf boundS type boot kid mask) t := by
  rw [keyReady, Bool.and_eq_true] at h
  have hl := blob_length boundS type boot kid mask
  have := vread_bytes .copy 0 (blobOf boundS type boot kid mask) Env.quiet t rfl (by omega) (by rw [hl]; exact h.2)
  rwa [hl] at this

theorem keyReady_same (t : State) (h : keyReady t = true) : t.sec = boundS.sec ∧ t.kids = boundS.kids ∧ t.parts = boundS.parts := by
  rw [keyReady, Bool.and_eq_true, Bool.and_eq_true, Bool.and_eq_true, decide_eq_true_iff, decide_eq_true_iff, decide_eq_true_iff] at h
  exact ⟨h.1.1.1, h.1.1.2, h.1.2⟩

/-- What every KEY_LOAD of the tests reaches. -/
theorem keyLoad_read (type kid mask boot : Nat)
    (h : ∃ t, boundS.admits 0x71 fromC (fun d => bodyOnly d [(8, 2), (16, 12)]) (keyLoadOf type kid mask boot boundS) t ∧ keyReady t = true) :
    ∃ t, boundS.admits 0x71 fromC (fun d => bodyOnly d [(8, 2), (16, 12)]) (keyLoadOf type kid mask boot boundS) t ∧
      vread { src := src0, env := (keyLoadOf type kid mask boot boundS).env } .copy 0x1901 0x1000 128 t = .ok (blobOf boundS type boot kid mask) t ∧
      t.bootId = boundS.bootId ∧ (t.unwrap (blobOf boundS type boot kid mask)).isSome = true ∧ t.kids = boundS.kids ∧ t.parts = boundS.parts ∧
      t.sec = boundS.sec := by
  obtain ⟨t, ht, hf⟩ := h
  obtain ⟨h1, h2, h3⟩ := keyReady_same t hf
  refine ⟨t, ht, keyReady_read _ _ _ _ t hf, bootId_of _ _ h1, ?_, h2, h3, h1⟩
  rw [unwrap_of t boundS _ h1]
  exact blob_unwraps _ _ _ _ _

/-- KEY_LOAD of a memory blob of this boot and of a job blob of this boot, within every check; of a blob for another KeyID and of one
whose mask does not admit the life cycle; of a blob of another boot. -/
theorem witness_KeyLoad :
    (∃ t, boundS.admits 0x71 fromC (fun d => bodyOnly d [(8, 2), (16, 12)]) (keyLoadOf 1 9 0x020000FF boundS.bootId boundS) t ∧
      ∃ b, vread { src := src0, env := (keyLoadOf 1 9 0x020000FF boundS.bootId boundS).env } .copy 0x1901 0x1000 128 t = .ok b t ∧
        blobForm b = true ∧ leAt b 8 8 = t.bootId ∧ (t.unwrap b).isSome = true ∧ leAt b 6 1 = 1 ∧ leAt b 16 1 = 0 ∧ leAt b 18 2 = 9 ∧
        leAt b 18 2 ≠ 8 ∧ (t.kid 9).state = .bound ∧ (t.kid 9).owner.toNat = 0 ∧ 1 ≤ t.lifecycle ∧ t.lifecycle ≤ 4 ∧
        (leAt b 20 4).testBit (23 + t.lifecycle) = true ∧ (leAt b 20 4).testBit (23 + 4) = false) ∧
    (∃ t, boundS.admits 0x71 fromC (fun d => bodyOnly d [(8, 2), (16, 12)]) (keyLoadOf 2 0 0 boundS.bootId boundS) t ∧
      ∃ b, vread { src := src0, env := (keyLoadOf 2 0 0 boundS.bootId boundS).env } .copy 0x1901 0x1000 128 t = .ok b t ∧
        blobForm b = true ∧ leAt b 8 8 = t.bootId ∧ (t.unwrap b).isSome = true ∧ leAt b 6 1 = 2 ∧ leAt b 16 1 = 0 ∧
        (t.part 0).job = none ∧ (t.sec.jobRecs.find? fun r => (r.1.setWidth 224).toNat == leAt b 36 28) = some (0, jobRec0) ∧
        jobMeas jobRec0 = t.sec.m4 ∧ jobSlice jobRec0 = none) ∧
    (∃ boot t, boundS.admits 0x71 fromC (fun d => bodyOnly d [(8, 2), (16, 12)]) (keyLoadOf 1 9 0x020000FF boot boundS) t ∧
      ∃ b, vread { src := src0, env := (keyLoadOf 1 9 0x020000FF boot boundS).env } .copy 0x1901 0x1000 128 t = .ok b t ∧
        blobForm b = true ∧ leAt b 8 8 ≠ t.bootId) := by
  refine ⟨?_, ?_, ?_⟩
  · obtain ⟨t, ht, hr, hb, hu, hk, hp, hs⟩ := keyLoad_read 1 9 0x020000FF boundS.bootId (admits_with _ _ _ _ _ _ (by decide +kernel))
    have hl : t.lifecycle = 2 := by rw [State.lifecycle, hs]; decide +kernel
    have hk9 : t.kid 9 = boundS.kid 9 := by rw [State.kid, hk]; rfl
    refine ⟨t, ht, _, hr, by decide +kernel, ?_, hu, by decide +kernel, by decide +kernel, by decide +kernel, by decide +kernel, ?_, ?_,
      ?_, ?_, ?_, by decide +kernel⟩
    · rw [boot_at, hb]
    · rw [hk9]; decide +kernel
    · rw [hk9]; decide +kernel
    · rw [hl]; decide
    · rw [hl]; decide
    · rw [hl]; decide +kernel
  · obtain ⟨t, ht, hr, hb, hu, hk, hp, hs⟩ := keyLoad_read 2 0 0 boundS.bootId (admits_with _ _ _ _ _ _ (by decide +kernel))
    refine ⟨t, ht, _, hr, by decide +kernel, ?_, hu, by decide +kernel, by decide +kernel, ?_, ?_, ?_, by decide +kernel⟩
    · rw [boot_at, hb]
    · rw [State.part, hp]; decide +kernel
    · rw [hs]; decide +kernel
    · rw [hs]; decide +kernel
  · by_cases h0 : boundS.bootId = 0
    · obtain ⟨t, ht, hr, hb, -⟩ := keyLoad_read 1 9 0x020000FF 1 (admits_with _ _ _ _ _ _ (by decide +kernel))
      refine ⟨1, t, ht, _, hr, by decide +kernel, ?_⟩
      rw [hb, h0]; decide +kernel
    · obtain ⟨t, ht, hr, hb, -⟩ := keyLoad_read 1 9 0x020000FF 0 (admits_with _ _ _ _ _ _ (by decide +kernel))
      refine ⟨0, t, ht, _, hr, by decide +kernel, ?_⟩
      rw [hb]
      have : leAt (blobOf boundS 1 0 9 0x020000FF) 8 8 = 0 := by decide +kernel
      rw [this]; exact fun h => h0 h.symm

/-! ## Witnesses: a checkpoint that loads -/

/-- The record of a shard of 32 elements of 64. -/
def record3 : Nat := record1 + 32 * 2 ^ 352

/-- The header and the entry of a file of 464 bytes whose one record is the shard after that of the table. -/
def loadHead : List Byte :=
  fileHeader 0 1 1 0 0 5 464 ++ manifestEntry { TRec.of record3 with first := 32 } 192 272

/-- The key of the file under the job of the tests. -/
def loadKey : BitVec 256 := ckptKey { digest := 1, key := 2, record := [] } (leAt loadHead 24 8) (leAt loadHead 8 4)

/-- The file with the manifest tag of its head. -/
def loadFile : List Byte := loadHead ++ (manifestTag loadKey loadHead ++ List.replicate 320 0)

/-- CKPT_LOAD of it. -/
def loadCmd : CmdIn := {
  src := src0, d := desc [(8, 0x1800), (16, 1), (20, 1), (24, 0x4000), (32, 464)]
  env := hostBytes 0x3000 loadFile (hostAt [(0x100800, 64, record3)]) }

/-- Everything up to the file and after its tag. -/
def loads (t : State) : Bool :=
  let v : Via := { src := src0, env := loadCmd.env }
  decide (tget none t.sec.jobs 0 = some { digest := 1, key := 2, record := [] }) &&
  okThen (readTable v 0x1800 1 fun _ r => r.planes.all (t.ctx 0).maps) t fun rs u =>
    readsHost u 0x4000 464 && headerForm loadFile 464 && entryOk (slice loadFile 64 64) 464 && leAt loadFile 12 4 == 1 &&
    okThen (rs.mapM fun r => loadRecord loadKey loadFile [slice loadFile 64 64] r) u fun out y =>
      okThen (out.flatten.forM fun e => vwrite v .ckpt 0x1901 e.1 e.2 : M Unit) y fun _ _ => true

theorem slice_left (a b : List Byte) (off len : Nat) (h : off + len ≤ a.length) : slice (a ++ b) off len = slice a off len := by
  simp only [slice, List.drop_append, List.take_append, List.length_append, List.length_take, List.length_drop]
  have : len - (a.length - off) = 0 := by omega
  simp [this]

theorem loadHead_length : loadHead.length = 128 := by simp [loadHead, fileHeader, manifestEntry]

theorem loadFile_length : loadFile.length = 464 := by
  rw [loadFile, List.length_append, List.length_append, loadHead_length, manifestTag, leBytes_length, List.length_replicate]

theorem loadFile_tag : manifestTag loadKey (slice loadFile 0 128) = slice loadFile 128 16 := by
  have h1 : slice loadFile 0 128 = loadHead := slice_mid [] loadHead _ 0 128 rfl loadHead_length
  have h2 : slice loadFile 128 16 = manifestTag loadKey loadHead := slice_mid loadHead _ _ 128 16 loadHead_length (by simp [manifestTag])
  rw [h1, h2]

theorem loadFile_key : ckptKey { digest := 1, key := 2, record := [] } (leAt loadFile 24 8) (leAt loadFile 8 4) = loadKey := by
  have h1 : leAt loadFile 24 8 = leAt loadHead 24 8 := by rw [leAt, loadFile, slice_left _ _ _ _ (by rw [loadHead_length]; decide)]; rfl
  have h2 : leAt loadFile 8 4 = leAt loadHead 8 4 := by rw [leAt, loadFile, slice_left _ _ _ _ (by rw [loadHead_length]; decide)]; rfl
  rw [h1, h2, loadKey]

/-- CKPT_LOAD with PROVISIONAL_OK of a file whose tag verifies: every check passes and every write succeeds. -/
theorem witness_CkptLoaded :
    let v : Via := { src := src0, env := loadCmd.env }
    ∃ t rs u out y z, (jobbed (mapped base)).admits 0xA2 fromC ckptForm loadCmd t ∧
      tget none t.sec.jobs 0 = some { digest := 1, key := 2, record := [] } ∧
      readTable v 0x1800 1 (fun _ r => r.planes.all (t.ctx 0).maps) t = .ok rs u ∧
      vread v .ckpt 0x1901 0x4000 464 u = .ok loadFile u ∧ headerForm loadFile 464 = true ∧
      (∀ e ∈ (List.range (leAt loadFile 12 4)).map fun i => slice loadFile (64 + 64 * i) 64, entryOk e 464 = true) ∧
      manifestTag loadKey (slice loadFile 0 128) = slice loadFile 128 16 ∧
      (rs.mapM fun r => loadRecord loadKey loadFile [slice loadFile 64 64] r) u = .ok out y ∧
      (out.flatten.forM fun e => vwrite v .ckpt 0x1901 e.1 e.2 : M Unit) y = .ok () z := by
  obtain ⟨t, h, hf⟩ := admits_with (jobbed (mapped base)) 0xA2 fromC ckptForm loadCmd loads (by decide +kernel)
  rw [loads, Bool.and_eq_true, decide_eq_true_iff, okThen_iff] at hf
  obtain ⟨hj, rs, u, hr, hf⟩ := hf
  simp only [Bool.and_eq_true, okThen_iff, beq_iff_eq] at hf
  obtain ⟨⟨⟨⟨h1, h2⟩, h3⟩, h4⟩, out, y, ho, _, z, hz, -⟩ := hf
  have hl : loadFile.length = 464 := loadFile_length
  have hv := vread_bytes .ckpt 0x3000 loadFile (hostAt [(0x100800, 64, record3)]) u rfl (by omega) (by rw [hl]; exact h1)
  rw [hl] at hv
  refine ⟨t, rs, u, out, y, z, h, hj, hr, hv, h2, ?_, loadFile_tag, ho, hz⟩
  rw [h4]
  intro e he
  have : e = slice loadFile 64 64 := by simpa [List.range_one] using he
  rw [this]; exact h3

/-! ## Witness: a key-cache fill -/

/-- KeyID 9 is KEYED with a blob of this boot and is not cached. -/
def uncachedS : State := { boundS with
  kids := [(9, { kid0 with cached := false, blob := BitVec.ofNat 1024 (ofLe (blobOf boundS 1 0 9 0x020000FF)) })] }

theorem uncached_unwraps : (uncachedS.unwrap (blobBytes (uncachedS.kid 9).blob)).isSome = true := by
  have h : blobBytes (uncachedS.kid 9).blob = blobOf boundS 1 0 9 0x020000FF := by
    have hb : (uncachedS.kid 9).blob = BitVec.ofNat 1024 (ofLe (blobOf boundS 1 0 9 0x020000FF)) := rfl
    have hl := blob_length boundS 1 0 9 0x020000FF
    have hlt := ofLe_lt (blobOf boundS 1 0 9 0x020000FF)
    rw [hl] at hlt
    rw [hb, blobBytes, BitVec.toNat_ofNat, Nat.mod_eq_of_lt hlt, ← hl]
    exact leBytes_ofLe _
  rw [h, unwrap_of uncachedS boundS _ rfl]
  exact blob_unwraps _ _ _ _ _

theorem witness_KeyCacheFill :
    (uncachedS.kid (9 : BitVec 16).toNat).state = .keyed ∧ (uncachedS.kid (9 : BitVec 16).toNat).cached = false ∧
    ∃ t, fillKey (9 : BitVec 16).toNat uncachedS = .ok () t := by
  refine ⟨by decide +kernel, by decide +kernel, ?_⟩
  obtain ⟨x, hx⟩ := Option.isSome_iff_exists.mp uncached_unwraps
  have h9 : (9 : BitVec 16).toNat = 9 := rfl
  have h1 : (uncachedS.kcQuota (uncachedS.kid 9).owner.toNat != 0) = true := by decide +kernel
  have h2 : ¬ uncachedS.kcQuota (uncachedS.kid 9).owner.toNat ≤ (uncachedS.kcUsed (uncachedS.kid 9).owner.toNat).length := by decide +kernel
  rw [h9]
  simp only [fillKey, run_bind, run_look, run_need, h1, if_true]
  rw [hx]
  simp only [run_bind, run_look, run_upd, run_ite]
  exact ⟨_, rfl⟩

/-- A mailbox that is idle, and one with an operation in progress; requests that fail, that are refused and that are answered. -/
theorem witness_Mailbox :
    base.mbLive = true ∧ base.sec.busy = false ∧ ({ base with sec := { base.sec with busy := true } } : State).sec.busy = true ∧
    (Instr.secMbReservedOpcode 0xFF { req := none }).wellFormed = true ∧
    (match keyGenOp (base.setReg 0 .sec 0 0x40 0 2) [] with
     | .refuse 1 => true
     | _ => false) = true ∧
    (let v := (boundS.setReg 0 .sec 0 0x40 0 2).setReg 0 .sec 0 0x50 0 128
     (match keyGenOp v [0, 0, 9, 0, 0xFF, 0, 0, 0x0F] with
      | .done n _ _ => n == 0
      | .refuse _ => false) = true ∧ v.mbBuf = 128) ∧
    (boundS.setReg 0 .sec 0 0x40 0 2).mbBuf < 128 := by
  and_intros <;> decide +kernel

theorem witness_LifeCycleWord :
    (let m : BitVec 16 := 0x000F
     ∀ i, i < 16 → (m.getLsbD i = true ↔ 2 ≤ (([0x000F, 0x800F, 0x000F] : List (BitVec 16)).filter fun w => w.getLsbD i).length)) ∧
    (base.sec.lc[2]? = some 0x00FF ∧ (0x00FF : BitVec 16).getLsbD 7 = true) := by
  decide +kernel

theorem witness_LifeCycle :
    base.lifeMove 1 = none ∧ base.lifeMove 5 = some (true, true) ∧ (open' base).lifeMove 2 = some (true, true) ∧
    ((open' base).lifecycle = 1 ∧ base.lifecycle ≠ 1 ∧ base.lifecycle < 5) ∧
    (let s : State := { base with sec := { base.sec with lc := List.replicate 3 0xFFFF#16 } }
     s.lifecycle = 5) := by
  and_intros <;> decide +kernel

/-! ## Witnesses: power, clocks and resets -/

/-- The state with its power changed. -/
def pwrS (f : Pwr → Pwr) : State := { base with pwr := f base.pwr }

/-- A device in BOOT. -/
def bootS (m : Mgt) : State := { base with pwr := { base.pwr with state := .boot }, mgt := m }

theorem witness_PowerEvents :
    ((pwrS fun p => { p with pwrOk := false }).pwr.pwrOk = false ∧ base.pwr.refAon = true) ∧ base.pwr.pwrOk = true ∧
    ((bootS Mgt.reset).booting = true ∧ (bootS Mgt.reset).slotOk Mgt.reset.running = true ∧ Mgt.reset.tryUsed = false) ∧
    ((bootS { Mgt.reset with tryB := some true, tryUsed := true }).booting = true ∧
      (bootS { Mgt.reset with tryB := some true, tryUsed := true }).mgt.tryUsed = true) ∧
    (uvWarnMv (4 : Rail).toNat = some 740 ∧ (739 : BitVec 16).toNat < 740 ∧ 740 ≤ (740 : BitVec 16).toNat ∧
      (754 : BitVec 16).toNat < 740 + 15 ∧ 740 + 15 ≤ (755 : BitVec 16).toNat) ∧
    ((pwrS fun p => { p with state := .braced }).pwr.state = .braced ∧ (pwrS fun p => { p with state := .braced }).pwr.offHold = false) ∧
    (uvWarnMv (5 : Rail).toNat = none ∧ base.pwr.rails[(5 : Rail).toNat]? = some (0, 0xFFFF, false)) ∧
    base.gate 0 .pwr 0 true false = .go ∧
    ((pwrS fun p => { p with refAon := false }).pwr.refAon = false ∧ base.pwr.refFab = true) := by
  and_intros <;> decide +kernel

theorem witness_GovernorsAndSlumber :
    (∃ k, k < 32 ∧ (base.read [(31, 96)]).throt < (base.read [(31, 96)]).temp k) ∧
    (∀ k, k < 32 → (base.read [(31, 91)]).temp k + 3 < (base.read [(31, 91)]).throt) ∧
    ((¬ ∃ k, k < 32 ∧ (base.read [(31, 95)]).throt < (base.read [(31, 95)]).temp k) ∧
      ¬ ∀ k, k < 32 → (base.read [(31, 92)]).temp k + 3 < (base.read [(31, 92)]).throt) ∧
    (let s := base.setReg 0 .pwr 0 0x60 0 600
     s.capWatts ≠ 0 ∧ s.capWatts < (601 : BitVec 11).toNat ∧ (559 : BitVec 11).toNat + 40 < s.capWatts ∧
       s.capWatts ≤ (560 : BitVec 11).toNat + 40 ∧ (600 : BitVec 11).toNat ≤ s.capWatts) ∧
    (base.pwr.state ≠ .halted ∧ 110 ≤ (110 : BitVec 8).toNat ∧ 105 ≤ (105 : BitVec 8).toNat ∧ ¬ (63 : BitVec 6).toNat < 32) ∧
    (base.gate 0 .pwr 0 true false = .go ∧ base.lockHolds 0 .pwr 0 = false ∧ base.pwr.slumWait = false) ∧
    ((pwrS fun p => { p with state := .braced }).pwr.state ≠ .service ∧ base.pwr.state = .service ∧
      (∃ e ∈ bindingS.parts, e.2.state = .binding ∨ e.2.state = .draining ∨ e.2.state = .resetting) ∧
      ¬ ∃ e ∈ base.parts, e.2.state = .binding ∨ e.2.state = .draining ∨ e.2.state = .resetting) ∧
    (let s := pwrS fun p => { p with slumWait := true }
     s.pwr.slumWait = true ∧ s.pwr.state = .service ∧ s.pwr.offHold = false ∧ (∀ c ∈ s.inflight, c.started = false) ∧ s.egress = [] ∧
       okThen flushAll s (fun _ _ => true) = true) := by
  and_intros <;> decide +kernel

/-! ## Witnesses: management -/

/-- A journal record of a SEQ. -/
def recAt (seq : Word64) : Rec := { type := .hours, key := 0, seq := seq, hours := 1, payload := [1], ok := true }

/-- The store with sectors. -/
def mgtS (l : Tab Sector) (q : List Rec) : State := { base with mgt := { Mgt.reset with sectors := l, queue := q, nextSeq := 8 } }

/-- A sector of one record. -/
def sectorOf (st : SecState) (r : Rec) : Sector := { Sector.reset with state := st, recs := [r], first := r.seq, used := r.size }

theorem witness_SidebandCommands :
    base.sideband = true ∧ (base.confidential = true ∧ (open' base).confidential = false) ∧ (open' base).sideband = true ∧
    (63 < (64 : BitVec 8).toNat ∧ (63 : BitVec 8).toNat ≤ 63) ∧
    (let s := mgtS [(0, sectorOf .openS (recAt 7))] []
     s.mgt.store ≠ 2 ∧ (∀ r ∈ s.mgt.good, r.seq.toNat < (8 : Word64).toNat) ∧ recAt 7 ∈ s.mgt.good ∧ (7 : Word64).toNat ≤ (recAt 7).seq.toNat ∧
       ∀ x ∈ s.mgt.good, (7 : Word64).toNat ≤ x.seq.toNat → x = recAt 7 ∨ (recAt 7).seq.toNat < x.seq.toNat) ∧
    base.sbLife 0 = none ∧ base.pwr.offHold = false := by
  and_intros <;> decide +kernel

/-- A record that fits the OPEN sector; the oldest sealed sector of a store with no ERASED one. -/
theorem witness_Journal :
    (let s := mgtS [(0, sectorOf .openS (recAt 7))] [recAt 0]
     s.pwr.refAon = true ∧ s.mgt.store = 0 ∧ s.nextRecord = some (recAt 0) ∧ (s.mgt.room (recAt 0).size).isSome = true) ∧
    (let m : Mgt := { Mgt.reset with rotation := [0, 447], sectors := [(0, sectorOf .sealedS (recAt 1)), (447, sectorOf .openS (recAt 2))] }
     let s : State := { base with mgt := m }
     s.mgt.store = 0 ∧ s.mgt.erased.length < 8 ∧ s.mgt.oldest = some 0 ∧
       (s.mgt.rewrite (((s.mgt.sector 0).recs.filter (·.ok)).filter fun r => decide (r.type = .spare) || (r.type.isState && s.mgt.current r))).isSome
         = true ∧ (s.mgt.sector 0).erases + 1 < 90000) ∧
    (({ base with clusters := [(127, { Cluster.reset with hours := 0xFFFE })] } : State).cluster 127).hours ≠ 0xFFFF := by
  and_intros <;> decide +kernel

/-- A bundle of an SVN. -/
def bundle (svn : BitVec 16) (valid : Bool) : BundleIn := { hostOk := true, valid := valid, svn := svn, meas := 1 }

theorem witness_Firmware :
    (base.gate 0 .mgt 0 true false = .go ∧ base.mgt.fwBusy = false ∧ base.mgt.stagedB = none) ∧
    (let s : State := { base with mgt := { Mgt.reset with stagedB := some true } }
     s.mgt.stagedB = some true ∧ s.mgt.store = 0 ∧ s.pwr.offHold = false) ∧
    base.pwr.state = .service ∧
    (base.bootsImages = true ∧ base.mgt.store = 0 ∧ (base.setReg 0 .mgt 0 0x5C 0 63).reg 0 .mgt 0 0x5C 0 < 64 ∧
      16777216 < (base.setReg 0 .mgt 0 0x5C 0 16777217).reg 0 .mgt 0 0x5C 0 ∧ 64 ≤ (base.setReg 0 .mgt 0 0x5C 0 64).reg 0 .mgt 0 0x5C 0) ∧
    (let s : State := { base with mgt := { Mgt.reset with fwBusy := true }, sec := { base.sec with floor := 3 } }
     s.mgt.fwBusy = true ∧ s.pwr.refAon = true ∧ s.sec.floor.toNat ≤ (bundle 3 true).svn.toNat ∧ (bundle 0 false).valid = false) := by
  and_intros <;> decide +kernel

/-! ## Witnesses: registers, the queue and tile words -/

theorem witness_RegisterReads :
    (accessOk 4 8 = false ∧ accessOk 4 4 = true ∧ accessOk 8 8 = true) ∧
    (pageAt 0x68 = some (.dev, 0, 0x68) ∧ 0x68 % 4 = 0) ∧
    (base.regGate 0 .dev 0 0x68 false = .go ∧ base.regGate 63 .dev 0 0x68 false = .bad ∧ base.regGate 63 .dev 0 0x20 false = .zero ∧
      base.regGate 1 .pwr 0 0x44 false = .bad) ∧
    (base.gate 0 .dev 0 true false = .go ∧ base.gate 0 .hif 0 true false = .go) := by
  and_intros <;> decide +kernel

theorem witness_RegisterWrites :
    (let s := base.setReg 0 .cmdp 0 0x30 0 3
     s.regGate 0 .cmdp 0 0x40 true = .go ∧ 0x40 ≤ 0x40 ∧ lockable .cmdp 0x40 = true ∧ s.lockHolds 0 .cmdp 0 = true ∧
       s.regGate 0 .cmdp 0 0x30 true = .go ∧ (s.reg 0 .cmdp 0 0x30 0).testBit 1 = true) ∧
    (base.regGate 0 .dev 0 0x2C true = .go ∧ base.confidential = true ∧ (open' base).regGate 0 .dev 0 0x2C true = .go ∧
      (open' base).confidential = false ∧ (open' { base with pwr := { base.pwr with state := .halted } }).regGate 0 .cmdp 0 0x2C true = .zero ∧
      (open' { base with pwr := { base.pwr with state := .halted } }).confidential = false ∧
      pageAt (Blk.base .cmdp + 0x2C) = some (.cmdp, 0, 0x2C) ∧ (open' base).regGate 63 .dev 0 0x2C true = .bad) ∧
    (base.regGate 63 .pwr 0 0x44 true = .bad ∧ base.fnLive 63 = false ∧ base.fnOpen 1 = true ∧ base.fnOpen 63 = false) ∧
    (tget false base.msixPend 1023 = false ∧ tget false ({ base with msixPend := [(1023, true)] } : State).msixPend 1023 = true) ∧
    (base.fnLive 1 = true ∧ (base.coloOf 1).busy = false ∧
      (base.setColo 1 { base.coloOf 1 with busy := true }).fnLive 1 = true ∧
      ((base.setColo 1 { base.coloOf 1 with busy := true }).coloOf 1).busy = true) := by
  and_intros <;> decide +kernel

theorem witness_HiddenAccesses :
    (base.reg 0 .dev 0 0x68 0 < 2 ^ 32 ∧ base.badacc.valid = false ∧ (base.badAccess 0 true false 4 0).badacc.valid = true) ∧
    (base.tdi (63 - 1) ≠ .run ∧ accessOk 8 8 = true) ∧
    (let s := pwrS fun p => { p with state := .halted }
     s.pwr.state = .halted ∧ pageAt (Blk.base .cmdp) = some (.cmdp, 0, 0) ∧ Blk.cmdp ∉ [Blk.dev, .pwr, .seal, .mgt, .sec]) := by
  and_intros <;> decide +kernel

theorem witness_RegisterCells : (127 : Nat) < 128 ∧ 4092 < 4096 ∧ 4092 % 4 = 0 ∧ 2 ^ 32 - 1 < 2 ^ 32 ∧
    ((63, Blk.frt, 127, 4092) : Nat × Blk × Nat × Nat) ≠ (0, .frt, 127, 4092) := by
  decide

theorem witness_StepRunsTheCommand :
    ({ State.reset with pending := [.linkDown, .pf0Flr] } : State).pending = [Instr.linkDown, .pf0Flr] ∧ State.reset.pending = [] := by
  decide +kernel

theorem witness_LinesCanonical : Tab.wf Line.empty State.reset.lines = true ∧
    Tab.wf Line.empty (State.reset.setLine 5 (Line.make 1 0 0 0)).lines = true := by
  decide +kernel

theorem witness_TileWordsRoundTrip :
    tileParts (.endProg (op 0 0 0 0 0)) = some (0, 63, op 0 0 0 0 0) ∧ (Instr.endProg (op 0 0 0 0 0)).wellFormed = true := by
  decide +kernel

/-! ## The spec's worked examples -/

/-- Channel 301 (chapter 0): stack 18 in quadrant 2; its controller and Seal pages. -/
theorem test_channel_301 :
    301 / 16 = 18 ∧ 301 / 128 = 2 ∧ regOff .mc 18 0 = 0x02120000 ∧ regOff .seal 18 0 = 0x02920000 ∧
    pageAt 0x02920010 = some (.seal, 18, 0x10) := by decide +kernel

/-- The byte at PMA 0x80_0123_4567 of a partition whose extent 1 is all channels of stacks 16, 17 and 18 (chapter 10). -/
theorem test_locate_example :
    ({ Partition.reset with extents := [(1, (List.range 48).map fun s => (16 + s % 3) * 16 + s / 3)] } : Partition).locate 0x8001234567 =
      some (273, 6229, 39) := by decide +kernel

/-- The tree path of line 6,229 of channel 273 (chapter 11), and B_2 of its counter 329. -/
theorem test_tree_path :
    lidOf 273 6229 = 0x111001855 ∧ ctrLine 1 (6229 / 64) = 12386401 ∧ 6229 % 64 = 21 ∧ ctrLine 2 (97 / 64) = 12579841 ∧
    ctrLine 3 (1 / 64) = 12582864 ∧
    (let b : CtrBlk := { CtrBlk.zero with major := 5 }
     (b.setMin 21 9).count 21 = 329 ∧ ((b.setMin 21 9).setMin 21 10).count 21 = 330 ∧
     ({ b with major := 6 }.setMin 21 1).count 21 = 385) ∧
    leBytes 16 (ctrBlockB 329 0x111001855 0 2).toNat = beBytes 8 329 ++ [0x01, 0x11, 0x00, 0x18, 0x55, 0x00, 0x00, 0x02] := by decide +kernel

/-- The MXFP8 block whose largest element is 500.0 and that holds 0.3 (R107): 0.3 as the nearest FP32 value. -/
theorem test_mx_block :
    (let r := mxBlock 2 .E4M3 [f32 0x43FA0000, f32 0x3E99999A]
     (r.1, r.2.map (·.bits), r.2.map (·.sat)) = (0x7F, [0x7E, 0x2A], [false, false])) := by decide +kernel

/-- Contributions at B = −20 (R122, R124): the second adds −0, the sum −2,621,440 reads as −2.5. -/
theorem test_window :
    ([0x3F800001, 0xB3000000, 0xC0600000] : List Word32).map (fun w => ((windowOf (-20) (f32 w)).q, (windowOf (-20) (f32 w)).shed)) =
      [(1048576, true), (0, true), (-3670016, false)] ∧
    (xwConvert .FP32 (-20) (BitVec.ofInt 128 (-2621440))).bits = 0xC0200000 := by decide +kernel

/-- Contributions at B = −8 (chapter 7). -/
theorem test_arrival_order :
    ([0x4B800000, 0x3F802000, 0xCB800000] : List Word32).map (fun w => ((windowOf (-8) (f32 w)).q, (windowOf (-8) (f32 w)).shed)) =
      [(4294967296, false), (256, true), (-4294967296, false)] ∧
    (xwConvert .FP32 (-8) 256).bits = 0x3F800000 := by decide +kernel

/-- The split master of chapter 8: 63 and 64 steps of 2^−13 from 1.0. -/
theorem test_split_master :
    let step := fun (w : Word32) => fadd w 0x39000000
    step 0x3F800000 = 0x3F800400 ∧ step 0x3F80FC00 = 0x3F810000 := by decide +kernel

/-- GHASH of the second test case of the GCM specification: the block and its length under the hash subkey of a zero key. -/
theorem test_ghash :
    ghash 0x66e94bd4ef8a2c3b884cfa59ca342b2e (beBytes 16 0x0388dace60b6a392f328c2b971b2fe78 ++ beBytes 8 0 ++ beBytes 8 128) =
      0xf38cbb1ad69223dcc3457ae5b6b0f885 := by decide +kernel

/-! ## Single steps -/

/-- The next state of a command. -/
def after (i : Instr) (s : State) : State :=
  match exec i s with
  | .next t => t
  | _ => s

/-- A register of the slot. -/
def sAfter (i : Instr) (r : BitVec 5) : Option Word64 := (((after i tile0).cluster 0).slot 0).map (·.sreg r)

/-- DIVU and REMU by s0, which reads as zero (R83). -/
theorem test_divu_by_zero : sAfter (.divu (op 5 3 0 0 0)) 5 = some 0xFFFFFFFFFFFFFFFF ∧ sAfter (.remu (op 5 3 0 0 0)) 5 = some 7 := by
  decide +kernel

/-- SUB wraps at 64 bits, and s0 discards what is written (R83). -/
theorem test_sub_wraps : sAfter (.sub (op 5 3 1 0 0)) 5 = some 0xFFFFFFFFFFFFFFC7 ∧ sAfter (.sub (op 0 3 1 0 0)) 0 = some 0 := by
  decide +kernel

/-- SHRI by 64 shifts by 0: the amount's bits 5:0 (R83). -/
theorem test_shift_amount : sAfter (.shri (op 5 3 0 0 64)) 5 = some 7 ∧ sAfter (.shri (op 5 3 0 0 1)) 5 = some 3 := by
  decide +kernel

/-- A rail one millivolt below UV_WARN takes the device into BRACED (R460); one at it does not. -/
theorem test_uv_warn : (after (.uvWarn 4 739) base).pwr.state = .braced ∧ (after (.uvWarn 4 740) base).pwr.state = .service := by
  decide +kernel

/-- A misaligned register read answers zero and is recorded (R39, R43). -/
theorem test_misaligned_read :
    (after (.registerRead { fn := 0, bar2 := false, off := 0x6A, size := 4 }) base).badacc.valid = true := by
  decide +kernel

/-- The next command of the queue runs, and the rest stays. -/
theorem test_step : (match step { base with pending := [.uvWarn 4 739, .linkDown] } with
    | .next t => t.pwr.state == .braced && t.pending == [.linkDown]
    | _ => false) = true := by
  decide +kernel

end Sys2Proof.Tests
end

section
/-!
PROOF. The scalar instructions of tile code (R72, R83 to R85, R94, R95): what the model's word operations compute, the spec lemma of
each shape of instruction, and the statement on them.
-/

namespace Sys2Proof.Machine

/-! ## Word operations (R83) -/

theorem minuW_eq_ite_le (b c : Word64) : minuW b c = if b.toNat ≤ c.toNat then b else c := by
  simp only [minuW, ← Nat.not_lt, ite_not]

theorem maxuW_eq_ite_le (b c : Word64) : maxuW b c = if c.toNat ≤ b.toNat then b else c := by
  simp only [maxuW, ← Nat.not_lt, ite_not]

theorem divuW_eq_ofNat_div (b c : Word64) :
    divuW b c = if c = 0 then BitVec.allOnes 64 else BitVec.ofNat 64 (b.toNat / c.toNat) := by
  rw [divuW, BitVec.udiv_def]

theorem remuW_eq_ofNat_mod (b c : Word64) : remuW b c = if c = 0 then b else BitVec.ofNat 64 (b.toNat % c.toNat) := by
  rw [remuW, BitVec.umod_def]

/-- A word from its upper and its lower half. -/
theorem append_setWidth_eq_ofNat (hi : Word32) (v : Word64) :
    hi ++ v.setWidth 32 = BitVec.ofNat 64 (hi.toNat * 2 ^ 32 + v.toNat % 2 ^ 32) := by
  have hlow : v.toNat % 2 ^ 32 < 2 ^ 32 := Nat.mod_lt _ (by decide)
  have hword : hi.toNat * 2 ^ 32 + v.toNat % 2 ^ 32 < 2 ^ 64 := by omega
  apply BitVec.eq_of_toNat_eq
  rw [BitVec.toNat_append, BitVec.toNat_setWidth, BitVec.toNat_ofNat, ← Nat.shiftLeft_add_eq_or_of_lt hlow,
    Nat.shiftLeft_eq, Nat.mod_eq_of_lt hword]

/-! ## One spec lemma per shape of instruction -/

@[simp] theorem Cluster.arrayDone_go (k : Cluster) (n : Nat) (x : Slot) : k.arrayDone n x.go = k.arrayDone n x := rfl

section Shapes

variable {s : State} {t : TileOp} {a : TileAt} {x : Slot} {p : Prog}

/-- An instruction of two registers leaves its operation's value in sA. -/
theorem aluOp_result {f : Word64 → Word64 → Word64} {v : Word64} (hi : Issuing s t a x p)
    (hf : fits t true true true 0 0 = true) (hv : f (x.sreg t.b) (x.sreg t.c) = v) :
    aluOp t f s = .next (s.putSlot a (x.result t.a v)) := by
  subst hv
  exact tileOp_runs hi hf (by simp [Slot.result])

/-- An instruction of a register and IMM leaves its operation's value in sA. -/
theorem aluImm_result {f : Word64 → Word64 → Word64} {v : Word64} (hi : Issuing s t a x p)
    (hf : fits t true true false 0 immAll = true) (hv : f (x.sreg t.b) (simm t) = v) :
    aluImm t f s = .next (s.putSlot a (x.result t.a v)) := by
  subst hv
  exact tileOp_runs hi hf (by simp [Slot.result])

theorem execLi_result (hi : Issuing s t a x p) (hf : fits t true false false 0 immAll = true) :
    execLi t s = .next (s.putSlot a (x.result t.a (simm t))) :=
  tileOp_runs hi hf rfl

theorem execLui_result (hi : Issuing s t a x p) (hf : fits t true false false 0 immAll = true) :
    execLui t s = .next (s.putSlot a (x.result t.a
      (BitVec.ofNat 64 (t.imm.toNat * 2 ^ 32 + (x.sreg t.a).toNat % 2 ^ 32)))) :=
  tileOp_runs hi hf (by simp only [append_setWidth_eq_ofNat, Slot.go_sreg, Slot.result, run_pure])

theorem execMovg_result (hi : Issuing s t a x p) (hf : fits t true true false 0 0 = true) (ha : t.a.toNat < 8) :
    execMovg t s = .next (s.putSlot a (x.go.setG t.a.toNat ((x.sreg t.b).setWidth 12)).step) :=
  tileOp_runs hi (by simp [hf, ha]) (by simp)

theorem execRdg_result (hi : Issuing s t a x p) (hf : fits t true true false 0 0 = true) (hb : t.b.toNat < 8) :
    execRdg t s = .next (s.putSlot a (x.result t.a ((x.greg t.b.toNat).setWidth 64))) :=
  tileOp_runs hi (by simp [hf, hb]) (by simp [Slot.result])

/-- LDS sees the state in which the upset of its Forme word, if any, is reported (R51). -/
theorem execLds_result (hi : Issuing s t a x p) (hf : fits t true true false 0 immAll = true) (hu : t.up ≠ .formeUE)
    (hal : (x.sreg t.b + simm t).toNat % 8 = 0) (hsh : (x.sreg t.b + simm t).toNat + 8 ≤ x.formeSize) :
    execLds t s = .next ((s.upsetSeen a t.up).putSlot a (x.result t.a (BitVec.ofNat 64
      (ofLe (((s.upsetSeen a t.up).cluster a.cl).formeRead (x.formeBase + (x.sreg t.b + simm t).toNat) 8))))) := by
  have hread := readForme_ok (a := a) (s := s) (x := x.go) hu hal hsh
  exact tileOp_runs hi hf (by simp only [run_bind, run_pure, Slot.go_sreg, Slot.go_formeBase, hread, Slot.result])

theorem execSts_result (hi : Issuing s t a x p) (hf : fits t false true true 0 immAll = true)
    (hal : (x.sreg t.b + simm t).toNat % 8 = 0) (hsh : (x.sreg t.b + simm t).toNat + 8 ≤ x.formeSize) :
    execSts t s = .next ((s.setCluster a.cl ((s.cluster a.cl).formeWrite (x.formeBase + (x.sreg t.b + simm t).toNat)
      (leBytes 8 (x.sreg t.c).toNat))).putSlot a x.go.step) := by
  have hwrite := writeForme_ok (a := a) (s := s) (x := x.go) (d := leBytes 8 (x.sreg t.c).toNat) hal (by simpa using hsh)
  exact tileOp_runs hi hf (by simp only [run_bind, run_pure, Slot.go_sreg, Slot.go_formeBase, hwrite])

theorem execRdsize_result (hi : Issuing s t a x p) (hf : fits t true false false 0 immAll = true) (hn : t.imm.toNat ≤ 4) :
    execRdsize t s = .next (s.putSlot a (x.result t.a (BitVec.ofNat 64 (s.ctxSizes a.ctx t.imm.toNat)))) :=
  tileOp_runs hi hf (by simp [hn, Slot.result])

theorem execRdid_result (hi : Issuing s t a x p) (hf : fits t true false false 0 immAll = true) (hn : t.imm.toNat ≤ 2) :
    execRdid t s = .next (s.putSlot a (x.result t.a (BitVec.ofNat 64
      (if t.imm = 0 then s.clusterIndex a.ctx a.cl else if t.imm = 1 then a.cl else a.ctx)))) :=
  tileOp_runs hi hf (by simp [hn, Slot.result])

theorem execChkeq_passes (hi : Issuing s t a x p) (hf : fits t false true true 0 0 = true) (he : x.sreg t.b = x.sreg t.c) :
    execChkeq t s = .next (s.putSlot a x.go.step) :=
  tileOp_runs hi hf (by simp [he])

theorem execPtile_sets (hi : Issuing s t a x p) (hf : fits t false true false 0 0 = true) :
    execPtile t s = .next (s.putSlot a { x.go.step with ptid := x.sreg t.b }) :=
  tileOp_runs hi hf (by simp [Slot.step])

/-- WAIT retires where none of the agents that it names has work left (R95). -/
theorem execWait_retires (hi : Issuing s t a x p) (hf : fits t false false false 15 0 = true) (hx : t.x ≠ 0)
    (harr : t.x.getLsbD 0 = true → (s.cluster a.cl).arrayDone a.n x = true)
    (hdr : t.x.getLsbD 1 = true ∨ t.x.getLsbD 3 = true → (s.cluster a.cl).drainsDone a.n = true)
    (hst : t.x.getLsbD 3 = true → s.stored a.ctx = true) :
    execWait t s = .next (s.putSlot a x.go.step) := by
  have hdone : (t.x.getLsbD 0 && !(s.cluster a.cl).arrayDone a.n x.go
      || (t.x.getLsbD 1 || t.x.getLsbD 3) && !(s.cluster a.cl).drainsDone a.n
      || t.x.getLsbD 3 && !s.stored a.ctx) = false := by
    simp only [Bool.or_eq_false_iff, Bool.and_eq_false_imp, Bool.or_eq_true, Bool.not_eq_false',
      Cluster.arrayDone_go]
    exact ⟨⟨harr, hdr⟩, hst⟩
  have hnamed : (t.x != 0) = true := bne_iff_ne.mpr hx
  exact tileOp_runs hi hf (by
    simp only [onCluster, run_bind, run_look, run_ite, run_pure, need_ok hnamed, id, hdone,
      Bool.false_eq_true, if_false])

end Shapes

/-! ## The statement -/

/-- Settles O2: each instruction retires by the spec lemma of its shape; MINU, MAXU, DIVU, REMU and their IMM forms also take what
the operation computes. -/
theorem scalarInstructions : Obligations.ScalarInstructions := by
  unfold Obligations.ScalarInstructions
  refine ⟨?registers, ?immediate, ?moves⟩
  case registers =>
    intro s t a x p hi hf
    exact ⟨aluOp_result hi hf rfl, aluOp_result hi hf rfl, aluOp_result hi hf rfl, aluOp_result hi hf rfl,
      aluOp_result hi hf rfl, aluOp_result (f := shlW) hi hf rfl, aluOp_result (f := shrW) hi hf rfl,
      aluOp_result (f := sraW) hi hf rfl, aluOp_result hi hf (minuW_eq_ite_le _ _),
      aluOp_result hi hf (maxuW_eq_ite_le _ _), aluOp_result hi hf rfl, aluOp_result hi hf (divuW_eq_ofNat_div _ _),
      aluOp_result hi hf (remuW_eq_ofNat_mod _ _)⟩
  case immediate =>
    intro s t a x p hi
    refine ⟨fun hf => ?_, fun hf => ⟨execLi_result hi hf, execLui_result hi hf⟩⟩
    exact ⟨aluImm_result hi hf rfl, aluImm_result hi hf rfl, aluImm_result hi hf rfl, aluImm_result hi hf rfl,
      aluImm_result hi hf rfl, aluImm_result (f := shlW) hi hf rfl, aluImm_result (f := shrW) hi hf rfl,
      aluImm_result (f := sraW) hi hf rfl, aluImm_result hi hf (minuW_eq_ite_le _ _),
      aluImm_result hi hf (maxuW_eq_ite_le _ _), aluImm_result hi hf rfl, aluImm_result hi hf (divuW_eq_ofNat_div _ _),
      aluImm_result hi hf (remuW_eq_ofNat_mod _ _)⟩
  case moves =>
    intro s t a x p hi
    exact ⟨execMovg_result hi, execRdg_result hi, execLds_result hi, execSts_result hi, execRdsize_result hi,
      execRdid_result hi, execChkeq_passes hi, execPtile_sets hi, execWait_retires hi⟩

end Sys2Proof.Machine
end

section
/-!
PROOF. The egress gate (R258, R260, R261, R266, R469): what the watermark bounds, when an entry passes, which entry of a buffer
leaves next and where it goes, and the statement on them.
-/

namespace Sys2Proof.Machine

/-! ## The watermark (R258) -/

theorem le_foldl_min_iff {α : Type} (f : α → Int) (x : Int) (l : List α) (m : Int) :
    x ≤ l.foldl (fun m r => min m (f r)) m ↔ x ≤ m ∧ ∀ r ∈ l, x ≤ f r := by
  induction l generalizing m with
  | nil => simp
  | cons r l ih => simp only [List.foldl_cons, ih, le_min_iff, List.forall_mem_cons, and_assoc]

/-- The watermark is the largest number below the quadrant's epoch and below every stamp that pends in the quadrant. -/
theorem State.le_wmark_iff (s : State) (q : Nat) (x : Int) :
    x ≤ s.wmark q ↔ x < (s.epoch q).toNat ∧ ∀ r ∈ s.reads, r.q.toNat = q → x < r.stamp.toNat := by
  simp only [State.wmark, le_foldl_min_iff, Int.le_sub_one_iff, List.mem_filter, beq_iff_eq, and_imp]

/-! ## What passes (R260, R261, R266, R469) -/

theorem State.passes_iff (s : State) (e : Egress) :
    s.passes e = true ↔ e.free = true ∨ ∃ st, e.stamp = some st ∧ s.pwr.state ≠ .braced ∧ s.pwr.state ≠ .halted ∧
      s.pwr.offHold = false ∧ ∀ q, q < 4 → ((st.getD q 0).toNat : Int) ≤ s.wmark q := by
  unfold State.passes
  cases e.stamp with
  | none => simp
  | some st =>
    simp only [Bool.or_eq_true, Bool.and_eq_true, decide_eq_true_eq, Bool.not_eq_true', List.all_eq_true, List.mem_range,
      and_assoc, Option.some.injEq, exists_eq_left']

/-! ## The buffers (R259 to R261) -/

@[simp] theorem State.emit_buffer (s : State) (k : Nat) (free : Bool) (src : Option QSrc) (ev : OutEv) :
    tget [] (s.emit k free src ev).egress k =
      tget [] s.egress k ++ [{ stamp := none, free := free, src := src, seq := (src.bind s.cmdOf).map (·.seq), ev := ev }] :=
  tget_tput_same _ _ _ _

theorem State.nextOut_of_passes {s : State} {e : Egress} (l : List Egress) (h : s.passes e = true) :
    s.nextOut (e :: l) = some (e, l) := by
  simp only [State.nextOut, h, if_true]

/-- Behind an oldest entry that may not pass, only an unstamped record of the buffer leaves. -/
theorem State.nextOut_free {s : State} {e x : Egress} {l rest : List Egress} (h : s.passes e = false)
    (hout : s.nextOut (e :: l) = some (x, rest)) : x.free = true ∧ x ∈ e :: l := by
  simp only [State.nextOut, h, Bool.false_eq_true, if_false] at hout
  cases hfind : (e :: l).find? (·.free) with
  | none => simp [hfind] at hout
  | some y =>
    obtain ⟨rfl, -⟩ : y = x ∧ _ := by simpa [hfind] using hout
    exact ⟨List.find?_some hfind, List.mem_of_find?_eq_some hfind⟩

/-! ## A release (R260) -/

theorem exec_egressRelease (p : Path) (s : State) : exec (.egressRelease p) s = execEgressRelease p s := rfl

theorem execEgressRelease_none {p : Path} {s : State} (h : s.nextOut (tget [] s.egress (pathNum p)) = none) :
    execEgressRelease p s = .next s := by
  simp only [execEgressRelease, h]

theorem execEgressRelease_some {p : Path} {s : State} {x : Egress} {rest : List Egress}
    (h : s.nextOut (tget [] s.egress (pathNum p)) = some (x, rest)) (hopen : s.pathOpen p = true) :
    let t := { s with egress := tput [] s.egress (pathNum p) rest }
    execEgressRelease p s = .next (if p ∈ [Path.cxl, .cache, .staging] then t.toHost x else t.deliver x).settle := by
  simp only [execEgressRelease, h, hopen]
  cases p <;> simp

/-! ## The statement -/

/-- Settles O36: a stamp at or below the watermark lies below every stamp that pends in its quadrant. -/
theorem nothingUnverifiedLeaves : Obligations.NothingUnverifiedLeaves := by
  unfold Obligations.NothingUnverifiedLeaves
  intro s
  refine ⟨?gate, s.emit_buffer, fun p => ⟨?order, ?stays, ?leaves⟩⟩
  case gate =>
    intro e hpass hfree
    obtain hf | ⟨st, hst, hbraced, hhalted, hoff, hmark⟩ := (s.passes_iff e).mp hpass
    · simp [hfree] at hf
    · refine ⟨st, hst, hbraced, hhalted, hoff, hmark, fun r hr => ?_⟩
      obtain ⟨-, hbelow⟩ := (s.le_wmark_iff _ _).mp (hmark r.q.toNat r.q.isLt)
      exact Int.ofNat_lt.mp (hbelow r hr rfl)
  case order =>
    intro e x rest hout hhead
    obtain ⟨l, hl⟩ := List.head?_eq_some_iff.mp hhead
    rw [hl] at hout ⊢
    refine ⟨fun hpass => ?_, fun hpass => State.nextOut_free hpass hout⟩
    simpa [State.nextOut_of_passes l hpass, eq_comm] using hout
  case stays =>
    intro hnone
    rw [exec_egressRelease, execEgressRelease_none hnone]
  case leaves =>
    intro x rest hout hopen
    rw [exec_egressRelease, execEgressRelease_some hout hopen]
    exact ⟨fun hp => by rw [if_pos hp], fun hp => by rw [if_neg hp]⟩

end Sys2Proof.Machine
end

section
/-!
PROOF. The life-cycle word (R426): the majority of the three copies, the code that it decodes to, what burning does to both, and the
statement on them.
-/

namespace Sys2Proof.Machine

/-! ## The majority of three copies -/

/-- The word that holds each bit by majority of three words, as `Sec.lcWord` takes it. -/
def majority (a b c : BitVec 16) : BitVec 16 := a &&& b ||| a &&& c ||| b &&& c

theorem Sec.lcWord_of_copies {x : Sec} {a b c : BitVec 16} (h : x.lc = [a, b, c]) : x.lcWord = (majority a b c).toNat := by
  simp only [Sec.lcWord, h, majority]

@[simp] theorem majority_self (m : BitVec 16) : majority m m m = m := by
  simp only [majority, BitVec.and_self, BitVec.or_self]

theorem majority_or (a b c w : BitVec 16) : majority (a ||| w) (b ||| w) (c ||| w) = majority a b c ||| w := by
  ext i
  simp only [majority, BitVec.getElem_or, BitVec.getElem_and]
  cases w[i] <;> simp

theorem getLsbD_majority_iff (a b c : BitVec 16) (i : Nat) :
    (majority a b c).getLsbD i = true ↔ 2 ≤ ([a, b, c].filter fun w => w.getLsbD i).length := by
  simp only [majority, BitVec.getLsbD_or, BitVec.getLsbD_and, List.filter_cons, List.filter_nil]
  cases a.getLsbD i <;> cases b.getLsbD i <;> cases c.getLsbD i <;> simp

theorem eq_majority_of_getLsbD_iff {a b c m : BitVec 16}
    (h : ∀ i, i < 16 → (m.getLsbD i = true ↔ 2 ≤ ([a, b, c].filter fun w => w.getLsbD i).length)) : m = majority a b c :=
  BitVec.eq_of_getLsbD_eq fun i hi => Bool.eq_iff_iff.mpr ((h i hi).trans (getLsbD_majority_iff a b c i).symm)

/-! ## The code of a word -/

/-- The life-cycle code that a word decodes to, SCRAP's where the word is not in the table of R426. -/
def lifeCode (m : BitVec 16) : Nat :=
  if m = 0x0000 then 0 else if m = 0x000F then 1 else if m = 0x00FF then 2 else if m = 0x0FFF then 3
    else if m = 0x3FFF then 4 else 5

theorem State.lifecycle_of_copies {s : State} {a b c : BitVec 16} (h : s.sec.lc = [a, b, c]) :
    s.lifecycle = lifeCode (majority a b c) := by
  simp only [State.lifecycle, Sec.lcWord_of_copies h, lifeCode, BitVec.toNat_eq]
  split <;> simp_all

/-- A store that does not hold three copies reads as SCRAP. -/
theorem State.lifecycle_of_no_copies {s : State} (h : ∀ a b c, s.sec.lc ≠ [a, b, c]) : s.lifecycle = 5 := by
  have hw : s.sec.lcWord = 0xFFFF := by
    unfold Sec.lcWord
    split
    next a b c hlc => exact absurd hlc (h a b c)
    next => rfl
  simp only [State.lifecycle, hw]

theorem lifeCode_lifeWord {k : Nat} (h : k ≤ 5) : lifeCode (lifeWord k) = k := by
  interval_cases k <;> rfl

/-- Every word but those of SCRAP is the word of its code. -/
theorem lifeWord_lifeCode {m : BitVec 16} (h : lifeCode m ≠ 5) : lifeWord (lifeCode m) = m := by
  unfold lifeCode at h ⊢
  split_ifs at h ⊢ <;> simp_all [lifeWord]

theorem lifeCode_le (m : BitVec 16) : lifeCode m ≤ 5 := by
  unfold lifeCode
  split_ifs <;> decide

/-! ## Burning -/

theorem lifeWord_and_of_le {a b : Nat} (hab : a ≤ b) (hb : b ≤ 5) : lifeWord a &&& lifeWord b = lifeWord a := by
  interval_cases b <;> interval_cases a <;> rfl

theorem or_eq_right_of_and_eq {x y : BitVec 16} (h : x &&& y = x) : x ||| y = y := by
  rw [← h]
  ext i
  simp

/-- Each word includes the bits of those before it, so two words burned together are the later one. -/
theorem lifeWord_or {a b : Nat} (ha : a ≤ 5) (hb : b ≤ 5) : lifeWord a ||| lifeWord b = lifeWord (max a b) := by
  obtain h | h := le_total a b
  · rw [max_eq_right h, or_eq_right_of_and_eq (lifeWord_and_of_le h hb)]
  · rw [max_eq_left h, BitVec.or_comm, or_eq_right_of_and_eq (lifeWord_and_of_le h ha)]

theorem lifeCode_le_or {m : BitVec 16} {code : Nat} (hm : lifeCode m ≠ 5) (hc : code ≤ 5) :
    lifeCode m ≤ lifeCode (m ||| lifeWord code) := by
  have hmax : m ||| lifeWord code = lifeWord (max (lifeCode m) code) := by
    rw [← lifeWord_or (lifeCode_le m) hc, lifeWord_lifeCode hm]
  rw [hmax, lifeCode_lifeWord (max_le (lifeCode_le m) hc)]
  exact le_max_left _ _

theorem State.burnLife_lc (s : State) (code : Nat) : (s.burnLife code).sec.lc = s.sec.lc.map (· ||| lifeWord code) := rfl

theorem State.burnLife_keeps_bit {s : State} {k i : Nat} {a : BitVec 16} (code : Nat) (hk : s.sec.lc[k]? = some a)
    (hi : a.getLsbD i = true) : ∃ b : BitVec 16, (s.burnLife code).sec.lc[k]? = some b ∧ b.getLsbD i = true :=
  ⟨a ||| lifeWord code, by rw [s.burnLife_lc, List.getElem?_map, hk, Option.map_some], by rw [BitVec.getLsbD_or, hi, Bool.true_or]⟩

theorem State.lifecycle_burnLife_of_copies {s : State} {a b c : BitVec 16} (code : Nat) (h : s.sec.lc = [a, b, c]) :
    (s.burnLife code).lifecycle = lifeCode (majority a b c ||| lifeWord code) := by
  rw [← majority_or, State.lifecycle_of_copies (by rw [s.burnLife_lc, h]; rfl)]

theorem State.lifecycle_le_burnLife (s : State) {code : Nat} (hc : code ≤ 5) :
    s.lifecycle ≤ (s.burnLife code).lifecycle ∨ s.lifecycle = 5 := by
  by_cases hcopies : ∃ a b c, s.sec.lc = [a, b, c]
  · obtain ⟨a, b, c, h⟩ := hcopies
    rw [State.lifecycle_burnLife_of_copies code h, State.lifecycle_of_copies h]
    exact or_iff_not_imp_right.mpr fun hm => lifeCode_le_or hm hc
  · exact .inr (State.lifecycle_of_no_copies fun a b c h => hcopies ⟨a, b, c, h⟩)

/-! ## The statement -/

/-- Settles O48: three copies read as the code of their majority word, and each word of the table includes those before it, so a
burned word is that of the later of two codes. -/
theorem lifeCycleWord : Obligations.LifeCycleWord := by
  unfold Obligations.LifeCycleWord
  refine ⟨?majority, ?table, ?burns, ?includes, ?forward⟩
  case majority =>
    intro s t a b c m hs ht hbits
    rw [State.lifecycle_of_copies hs, State.lifecycle_of_copies ht, majority_self, eq_majority_of_getLsbD_iff hbits]
  case table =>
    intro s m hs
    rw [State.lifecycle_of_copies hs, majority_self, lifeCode]
  case burns => exact fun s code k i a hk hi => State.burnLife_keeps_bit code hk hi
  case includes => exact fun a b hab hb => lifeWord_and_of_le hab hb
  case forward => exact fun s code hc => s.lifecycle_le_burnLife hc

end Sys2Proof.Machine
end

section
/-!
PROOF. The words of tile code (R74, R75): the fields of a word and the word of its fields, the table of CLASS and OP against
the pairs that the spec lists, and the round trip.
-/

namespace Sys2Proof.Machine

/-! ## Fields of a word (R74) -/

section Fields

variable (cls : BitVec 4) (op : BitVec 6) (t : TileOp)

/-- Which part of a word's concatenation a field lies in, for the widths of its parts. -/
theorem wordClass_tileWordOf : wordClass (tileWordOf cls op t) = cls := by
  simp [wordClass, tileWordOf, BitVec.extractLsb'_append_eq_ite (w := 32), BitVec.extractLsb'_append_eq_ite (w := 7),
    BitVec.extractLsb'_append_eq_ite (w := 5), BitVec.extractLsb'_append_eq_ite (w := 6)]

theorem wordOp_tileWordOf : wordOp (tileWordOf cls op t) = op := by
  simp [wordOp, tileWordOf, BitVec.extractLsb'_append_eq_ite (w := 32), BitVec.extractLsb'_append_eq_ite (w := 7),
    BitVec.extractLsb'_append_eq_ite (w := 5), BitVec.extractLsb'_append_eq_ite (w := 6)]

theorem wordFields_tileWordOf : wordFields t.cl t.up (tileWordOf cls op t) = t := by
  simp [wordFields, tileWordOf, BitVec.extractLsb'_append_eq_ite (w := 32), BitVec.extractLsb'_append_eq_ite (w := 7),
    BitVec.extractLsb'_append_eq_ite (w := 5)]

end Fields

/-- A word is its CLASS, its OP and its fields: adjacent parts of a word join, from the top down. -/
theorem tileWordOf_wordFields (cl : BitVec 7) (up : Upset) (w : Word64) :
    tileWordOf (wordClass w) (wordOp w) (wordFields cl up w) = w := by
  simp only [wordClass, wordOp, wordFields, tileWordOf]
  rw [BitVec.extractLsb'_append_extractLsb'_eq_extractLsb' (start₁ := 54) (len₁ := 6) rfl,
    BitVec.extractLsb'_append_extractLsb'_eq_extractLsb' (start₁ := 49) (len₁ := 5) rfl,
    BitVec.extractLsb'_append_extractLsb'_eq_extractLsb' (start₁ := 44) (len₁ := 5) rfl,
    BitVec.extractLsb'_append_extractLsb'_eq_extractLsb' (start₁ := 39) (len₁ := 5) rfl,
    BitVec.extractLsb'_append_extractLsb'_eq_extractLsb' (start₁ := 32) (len₁ := 7) rfl,
    BitVec.extractLsb'_append_extractLsb'_eq_extractLsb' (start₁ := 0) (len₁ := 32) rfl]
  exact BitVec.extractLsb'_eq_self

/-! ## The table of CLASS and OP (R75) -/

/-- A pair that the table of instructions passes over is one that no class lists. -/
theorem opListed_of_tileRow_eq_none {cls : BitVec 4} {op : BitVec 6} {t : TileOp} (h : tileRow cls op t = none) :
    opListed cls op = false := by
  revert h
  unfold tileRow opListed
  generalize cls.toNat = c
  generalize op.toNat = o
  split
  case h_81 =>
    split <;> simp at * <;> omega
  all_goals simp

/-- A row of the table is a well-formed instruction with the row's CLASS and OP. -/
theorem tileParts_of_tileRow {cls : BitVec 4} {op : BitVec 6} {t : TileOp} {i : Instr} (h : tileRow cls op t = some i) :
    tileParts i = some (cls, op, t) ∧ i.wellFormed = true ∧ opListed cls op = true := by
  unfold tileRow at h
  split at h
  case h_81 => cases h
  all_goals
    rename_i hc ho
    obtain ⟨-, rfl⟩ := BitVec.toNat_eq_nat.mp hc
    obtain ⟨-, rfl⟩ := BitVec.toNat_eq_nat.mp ho
    cases h
    exact ⟨rfl, rfl, rfl⟩

theorem tileRow_eq_none {cls : BitVec 4} {op : BitVec 6} (t : TileOp) (h : opListed cls op = false) : tileRow cls op t = none := by
  match hr : tileRow cls op t with
  | none => rfl
  | some i => simp [(tileParts_of_tileRow hr).2.2] at h

/-- The instruction of CLASS, OP and fields, with RESERVED_INSTRUCTION for a reserved pair. -/
theorem tileRow_getD_of_tileParts {i : Instr} {cls : BitVec 4} {op : BitVec 6} {t : TileOp} (h : tileParts i = some (cls, op, t))
    (hw : i.wellFormed = true) : (tileRow cls op t).getD (.reservedInstruction cls op t) = i := by
  cases i
  case reservedInstruction cls' op' t' =>
    obtain ⟨rfl, rfl, rfl⟩ : cls' = cls ∧ op' = op ∧ t' = t := by simpa [tileParts] using h
    rw [tileRow_eq_none _ (by simpa [Instr.wellFormed] using hw), Option.getD_none]
  all_goals
    simp only [tileParts, Option.some.injEq, Prod.mk.injEq, reduceCtorEq] at h
  all_goals
    obtain ⟨rfl, rfl, rfl⟩ := h
    rfl

/-! ## The statement -/

/-- Settles O60: a word holds its CLASS, OP and fields and nothing else, and the table of instructions is inverse to `tileParts`. -/
theorem tileWordsRoundTrip : Obligations.TileWordsRoundTrip := by
  unfold Obligations.TileWordsRoundTrip
  refine ⟨?instruction, ?word⟩
  case instruction =>
    intro i cls op t hparts hwf
    rw [tileDecode, wordClass_tileWordOf, wordOp_tileWordOf, wordFields_tileWordOf]
    exact tileRow_getD_of_tileParts hparts hwf
  case word =>
    intro cl up w
    obtain ⟨hwf, hparts⟩ : (tileDecode cl up w).wellFormed = true ∧
        tileParts (tileDecode cl up w) = some (wordClass w, wordOp w, wordFields cl up w) := by
      unfold tileDecode
      match hr : tileRow (wordClass w) (wordOp w) (wordFields cl up w) with
      | none => exact ⟨by simpa [Instr.wellFormed] using opListed_of_tileRow_eq_none hr, rfl⟩
      | some i => exact ⟨(tileParts_of_tileRow hr).2.1, (tileParts_of_tileRow hr).1⟩
    refine ⟨hwf, ?_⟩
    rw [tileEncode, hparts, Option.map_some, tileWordOf_wordFields]

end Sys2Proof.Machine
end

section
/-!
PROOF. Tile code that only moves the program counter or one register: the frame that every tile instruction shares (R82), control
and reserved instructions, TBND and END, and what the scalar instructions leave alone.
-/

namespace Sys2Proof.Machine

/-! ## The frame of every tile instruction -/

/-- Every tile instruction issues through the one frame, which checks the program counter before the instruction's own body. -/
theorem exec_pc_range {s : State} {i : Instr} {cls : BitVec 4} {op : BitVec 6} {t : TileOp} {a : TileAt} {x : Slot} {p : Prog}
    (h : tileParts i = some (cls, op, t)) (hw : i.wellFormed = true) (hissues : s.issues t.cl.toNat = some (a, x, p))
    (hpc : p.words ≤ x.pc) : exec i s = .next (s.tileFault a.cl a.ctx a.src 0x1025 0 0).settle := by
  cases i
  case reservedInstruction cls' op' t' =>
    obtain ⟨rfl, rfl, rfl⟩ : cls' = cls ∧ op' = op ∧ t' = t := by simpa [tileParts] using h
    exact (if_pos hw).trans (tileThen_pc hissues hpc)
  all_goals simp only [tileParts, Option.some.injEq, Prod.mk.injEq, reduceCtorEq] at h
  all_goals
    obtain ⟨-, -, rfl⟩ := h
    unfold exec
    simp only [execNop, execJmp, execBeq, execBne, execBltu, execLoop, execEndProg, execAdd, execSub, execAnd, execOr,
      execXor, execShl, execShr, execSra, execMinu, execMaxu, execMul, execDivu, execRemu, execAddi, execSubi, execAndi,
      execOri, execXori, execShli, execShri, execSrai, execMinui, execMaxui, execMuli, execDivui, execRemui, execLi,
      execLui, execLds, execSts, execRdsize, execRdid, execMovg, execRdg, execDset, execDseti, execDld, execDst, execAttach,
      execDetach, execWaitr, execConsume, execRingptr, execDmov, execPassAcc, execPassOw, execDrain, execVld, execVst,
      execVadd, execVsub, execVmul, execVfma, execVmax, execVmin, execVcmplt, execVsel, execVbcast, execVexp2, execVlog2,
      execVrcp, execVrsq, execVsum, execVamax, execVtopkclr, execVtopk, execVtopkrd, execScget, execScamax, execChkeq,
      execPtile, execWait, execTbnd, aluOp, aluImm, branchIf, issuePass, vecOp, vecOp1, vecOp3, vecReduce, tileOp, tileThen_pc hissues hpc]

/-- Settles O3: the frame faults a program counter outside the code before the instruction's own body runs. -/
theorem programCounterRange : Obligations.ProgramCounterRange := by
  unfold Obligations.ProgramCounterRange
  exact fun s i cls op t a x p hparts hwf hissues hpc => exec_pc_range hparts hwf hissues hpc

/-! ## Control instructions (R75, R82) -/

section Control

variable {s : State} {t : TileOp} {a : TileAt} {x : Slot} {p : Prog}

theorem progWords_eq_of_prog {y : Slot} (h : y.prog = some p) : progWords y = p.words := by
  simp [progWords, h]

theorem Issuing.prog_eq (hi : Issuing s t a x p) : x.prog = some p := by
  obtain ⟨-, -, hprog, -⟩ := issues_spec hi.slot
  exact hprog

@[simp] theorem Slot.setS_pc (y : Slot) (r : BitVec 5) (v : Word64) : (y.setS r v).pc = y.pc := by
  unfold Slot.setS; split <;> rfl

@[simp] theorem Slot.setS_prog (y : Slot) (r : BitVec 5) (v : Word64) : (y.setS r v).prog = y.prog := by
  unfold Slot.setS; split <;> rfl

@[simp] theorem Slot.go_prog (y : Slot) : y.go.prog = y.prog := rfl

/-- A jump of an issuing slot, or of one that has its program and program counter, to a place in the code. -/
theorem jumpTo_branchTo {y : Slot} {u : State} (hi : Issuing s t a x p) (hprog : y.prog = x.prog) (hpc : y.pc = x.pc)
    (h : 0 ≤ branchTo t x ∧ branchTo t x < p.words) :
    jumpTo y (simm t) u = .ok { y with pc := (branchTo t x).toNat } u := by
  have hwords : progWords y = p.words := progWords_eq_of_prog (hprog.trans hi.prog_eq)
  rw [branchTo, ← hpc] at h ⊢
  exact jumpTo_ok h.1 (by rw [hwords]; exact h.2)

theorem execNop_steps (hi : Issuing s t a x p) (hf : fits t false false false 0 0 = true) :
    execNop t s = .next (s.putSlot a { x.go with pc := x.pc + 1 }) :=
  tileOp_runs hi hf rfl

theorem execJmp_jumps (hi : Issuing s t a x p) (hf : fits t false false false 0 immAll = true)
    (h : 0 ≤ branchTo t x ∧ branchTo t x < p.words) :
    execJmp t s = .next (s.putSlot a { x.go with pc := (branchTo t x).toNat }) :=
  tileOp_runs hi hf (jumpTo_branchTo hi rfl rfl h)

/-- A conditional branch whose condition on the two registers is `P`. -/
theorem branchIf_goes {c : Word64 → Word64 → Bool} {P : Prop} [Decidable P] (hi : Issuing s t a x p)
    (hf : fits t true true false 0 immAll = true) (hc : c (x.sreg t.a) (x.sreg t.b) = decide P)
    (h : P → 0 ≤ branchTo t x ∧ branchTo t x < p.words) :
    branchIf t c s = .next (s.putSlot a { x.go with pc := if P then (branchTo t x).toNat else x.pc + 1 }) := by
  refine tileOp_runs hi hf ?_
  by_cases hP : P
  · simp only [Slot.go_sreg, hc, hP, decide_true, if_true, jumpTo_branchTo hi (y := x.go) rfl rfl (h hP)]
  · simp only [Slot.go_sreg, hc, hP, decide_false, if_false, Bool.false_eq_true, run_pure, Slot.step, Slot.go_pc]

/-- LOOP, where `dec` is the slot with the register counted down. -/
theorem execLoop_goes {dec : Slot} (hdec : dec = x.go.setS t.a (x.sreg t.a - 1)) (hi : Issuing s t a x p)
    (hf : fits t true false false 0 immAll = true)
    (h : dec.sreg t.a ≠ 0 → 0 ≤ branchTo t x ∧ branchTo t x < p.words) :
    execLoop t s = .next (s.putSlot a { dec with pc := if dec.sreg t.a ≠ 0 then (branchTo t x).toNat else x.pc + 1 }) := by
  have hprog : dec.prog = x.prog := by rw [hdec, Slot.setS_prog, Slot.go_prog]
  have hpc : dec.pc = x.pc := by rw [hdec, Slot.setS_pc, Slot.go_pc]
  refine tileOp_runs hi hf ?_
  simp only [Slot.go_sreg, ← hdec]
  by_cases hne : dec.sreg t.a ≠ 0
  · simp only [if_pos hne, jumpTo_branchTo hi hprog hpc (h hne)]
  · simp only [if_neg hne, run_pure, Slot.step, hpc]

theorem execReservedInstruction_faults {cls : BitVec 4} {op : BitVec 6}
    (hw : (Instr.reservedInstruction cls op t).wellFormed = true) (hi : Issuing s t a x p) :
    execReservedInstruction cls op t s = .next (s.tileFault a.cl a.ctx a.src 0x1023 0 0).settle := by
  rw [execReservedInstruction, if_pos hw, tileOp,
    tileThen_exit hi rfl (u := s) (e := .fault 0x1023 0 0) (run_flt ..), State.tileExit]

/-! ## Tile boundaries (R96) -/

/-- The conditions of a boundary hold of the slot as it issues. -/
theorem atTileBoundary_ok {y : Slot} (harr : (s.cluster a.cl).arrayDone a.n y = true)
    (hdr : (s.cluster a.cl).drainsDone a.n = true) (hst : ∀ e ∈ y.streams, ∀ m, e.2 = some m → m.flight = []) :
    atTileBoundary a y s = .ok () s := by
  have hflight : (y.streams.any fun e => (e.2.map fun m => !m.flight.isEmpty).getD false) = false := by
    rw [List.any_eq_false]
    intro e he
    match hm : e.2 with
    | none => simp
    | some m => simp [hst e he m hm]
  simp only [atTileBoundary, onCluster, run_bind, run_look, id, harr, hdr, hflight, Bool.not_true, Bool.or_self,
    Bool.false_eq_true, if_false, run_pure]

theorem execTbnd_retires (hi : Issuing s t a x p) (hf : fits t false false false 0 0 = true)
    (hb : atTileBoundary a x.go s = .ok () s) :
    execTbnd t s = .next ((s.putSlot a { x.go.step with boundary := true }).boundaryReached a).settle :=
  tileThen_runs hi hf (by simp only [run_bind, hb, run_pure])

theorem execEndProg_retires (hi : Issuing s t a x p) (hf : fits t false false false 0 0 = true)
    (hb : atTileBoundary a x.go s = .ok () s) :
    execEndProg t s = .next (((s.putSlot a { x.go with ended := true, streams := [], boundary := true }).programEnd
      a).boundaryReached a).settle :=
  tileThen_runs hi hf (by simp only [run_bind, hb, run_pure])

end Control

/-- Settles O1: each control instruction retires by the spec lemma of its kind, and a reserved one faults. -/
theorem controlInstructions : Obligations.ControlInstructions := by
  unfold Obligations.ControlInstructions
  refine ⟨?control, ?reserved⟩
  case control =>
    intro s t a x p hi
    exact ⟨execNop_steps hi, execJmp_jumps hi, fun hf => branchIf_goes hi hf (beq_eq_decide ..),
      fun hf => branchIf_goes hi hf (by simp only [bne, beq_eq_decide, decide_not]),
      fun hf => branchIf_goes (c := fun u v => decide (u.toNat < v.toNat)) hi hf rfl, execLoop_goes rfl hi⟩
  case reserved => exact fun s cls op t a x p hw hi => execReservedInstruction_faults hw hi

/-- Settles O5: where the conditions of a boundary hold, TBND and END retire, each with what follows it. -/
theorem tileBoundary : Obligations.TileBoundary := by
  unfold Obligations.TileBoundary
  intro s t a x p hi hf harr hdr hst
  have hb : atTileBoundary a x.go s = .ok () s := atTileBoundary_ok harr hdr hst
  exact ⟨execTbnd_retires hi hf hb, execEndProg_retires hi hf hb⟩

/-! ## What a scalar result leaves alone (R72, R83) -/

theorem Slot.setS_sreg_ne (x : Slot) {r q : BitVec 5} (v : Word64) (h : q ≠ r) : (x.setS r v).sreg q = x.sreg q := by
  by_cases hr : r = 0
  · rw [Slot.setS, if_pos hr]
  · rw [Slot.setS, if_neg hr, Slot.sreg, Slot.sreg, tget_tput_ne _ _ fun e => h (BitVec.eq_of_toNat_eq e)]

@[simp] theorem Slot.sreg_zero (x : Slot) : x.sreg 0 = 0 := rfl

theorem Slot.result_eq (x : Slot) (r : BitVec 5) (v : Word64) :
    x.result r v = { x with s := (x.result r v).s, pc := x.pc + 1, boundary := false } := by
  unfold Slot.result Slot.setS
  split <;> rfl

theorem Slot.result_sreg_ne (x : Slot) {r q : BitVec 5} (v : Word64) (h : q ≠ r) : (x.result r v).sreg q = x.sreg q :=
  x.go.setS_sreg_ne v h

theorem Cluster.slot_setSlot_same (k : Cluster) (n : Nat) (x : Option Slot) : (k.setSlot n x).slot n = x := tget_tput_same ..

theorem Cluster.slot_setSlot_ne (k : Cluster) {n m : Nat} (x : Option Slot) (h : m ≠ n) : (k.setSlot n x).slot m = k.slot m :=
  tget_tput_ne _ _ h _

/-- A retirement changes one slot of one cluster. -/
theorem State.putSlot_frame (s : State) (a : TileAt) (y : Slot) :
    s.putSlot a y = { s with clusters := (s.putSlot a y).clusters } ∧
      (∀ c, c ≠ a.cl → (s.putSlot a y).cluster c = s.cluster c) ∧
      (s.putSlot a y).cluster a.cl = (s.cluster a.cl).setSlot a.n (some y) :=
  ⟨rfl, fun _ h => s.setCluster_ne _ _ h, s.setCluster_same ..⟩

/-- A scalar instruction leaves some value in sA; the others of its list are those of R83. -/
theorem exec_scalar_result {s : State} {t : TileOp} {a : TileAt} {x : Slot} {p : Prog} {i : Instr} (hi : Issuing s t a x p)
    (h : (i ∈ [Instr.add t, .sub t, .and t, .or t, .xor t, .shl t, .shr t, .sra t, .minu t, .maxu t, .mul t, .divu t, .remu t] ∧
        fits t true true true 0 0 = true) ∨
      (i ∈ [Instr.addi t, .subi t, .andi t, .ori t, .xori t, .shli t, .shri t, .srai t, .minui t, .maxui t, .muli t, .divui t,
          .remui t] ∧ fits t true true false 0 immAll = true)) :
    ∃ v, exec i s = .next (s.putSlot a (x.result t.a v)) := by
  obtain ⟨hm, hf⟩ | ⟨hm, hf⟩ := h
  · simp only [List.mem_cons, List.not_mem_nil, or_false] at hm
    obtain rfl | rfl | rfl | rfl | rfl | rfl | rfl | rfl | rfl | rfl | rfl | rfl | rfl := hm <;>
      exact ⟨_, aluOp_result hi hf rfl⟩
  · simp only [List.mem_cons, List.not_mem_nil, or_false] at hm
    obtain rfl | rfl | rfl | rfl | rfl | rfl | rfl | rfl | rfl | rfl | rfl | rfl | rfl := hm <;>
      exact ⟨_, aluImm_result hi hf rfl⟩

/-- Settles O7: a scalar instruction stores one slot with a result in sA, and a store of a slot has a frame. -/
theorem scalarFrame : Obligations.ScalarFrame := by
  unfold Obligations.ScalarFrame
  intro s t a x p i hi h
  obtain ⟨v, hexec⟩ := exec_scalar_result hi h
  obtain ⟨hstate, hclusters, hcluster⟩ := s.putSlot_frame a (x.result t.a v)
  refine ⟨_, x.result t.a v, hexec, hstate, hclusters, ?_, ?_, ?_, x.result_eq t.a v, fun r hr => x.result_sreg_ne v hr,
    Slot.sreg_zero _⟩
  · rw [hcluster]; rfl
  · intro n hn
    rw [hcluster, Cluster.slot_setSlot_ne _ _ hn]
  · rw [hcluster, Cluster.slot_setSlot_same]

end Sys2Proof.Machine
end

section
/-!
PROOF. Stream setup, PASS and DRAIN (R46, R55, R84, R86 to R90, R94, R95, R97, R522): the spec lemma of each instruction, where its
checks pass.
-/

namespace Sys2Proof.Machine

variable {s : State} {t : TileOp} {a : TileAt} {x : Slot} {p : Prog}

/-! ## Descriptors (R84, R97) -/

theorem dsetTo_ok {y : Slot} {v off len : Nat} {u : State} (hd : descField t.x.toNat = some (off, len)) :
    dsetTo t y v u = .ok (y.setD t.a.toNat (setField (y.dreg t.a.toNat) off len v)).step u := by
  simp only [dsetTo, hd, run_pure]

theorem execDset_sets {off len : Nat} (hi : Issuing s t a x p) (hf : fits t true true false 127 0 = true) (ha : t.a.toNat < 16)
    (hd : descField t.x.toNat = some (off, len)) :
    execDset t s = .next (s.putSlot a
      (x.go.setD t.a.toNat (setField (x.dreg t.a.toNat) off len (x.sreg t.b).toNat)).step) :=
  tileOp_runs hi (by simp [hf, ha]) (by simp only [dsetTo_ok hd, Slot.go_dreg, Slot.go_sreg])

theorem execDseti_sets {off len : Nat} (hi : Issuing s t a x p) (hf : fits t true false false 127 immAll = true)
    (ha : t.a.toNat < 16) (hd : descField t.x.toNat = some (off, len)) :
    execDseti t s = .next (s.putSlot a
      (x.go.setD t.a.toNat (setField (x.dreg t.a.toNat) off len t.imm.toNat)).step) :=
  tileOp_runs hi (by simp [hf, ha]) (by simp only [dsetTo_ok hd, Slot.go_dreg])

theorem execDld_loads (hi : Issuing s t a x p) (hf : fits t true true false 0 immAll = true) (ha : t.a.toNat < 16)
    (hu : t.up ≠ .formeUE) (hal : (x.sreg t.b + simm t).toNat % 64 = 0)
    (hsh : (x.sreg t.b + simm t).toNat + 64 ≤ x.formeSize) :
    execDld t s = .next ((s.upsetSeen a t.up).putSlot a (x.go.setD t.a.toNat (BitVec.ofNat 512
      (ofLe (((s.upsetSeen a t.up).cluster a.cl).formeRead (x.formeBase + (x.sreg t.b + simm t).toNat) 64)))).step) := by
  have hread := readForme_ok (a := a) (s := s) (x := x.go) hu hal hsh
  exact tileOp_runs hi (by simp [hf, ha]) (by simp only [run_bind, run_pure, Slot.go_sreg, Slot.go_formeBase, hread])

theorem execDst_stores (hi : Issuing s t a x p) (hf : fits t true true false 0 immAll = true) (ha : t.a.toNat < 16)
    (hal : (x.sreg t.b + simm t).toNat % 64 = 0) (hsh : (x.sreg t.b + simm t).toNat + 64 ≤ x.formeSize) :
    execDst t s = .next ((s.setCluster a.cl ((s.cluster a.cl).formeWrite (x.formeBase + (x.sreg t.b + simm t).toNat)
      (leBytes 64 (x.dreg t.a.toNat).toNat))).putSlot a x.go.step) := by
  have hwrite := writeForme_ok (a := a) (s := s) (x := x.go) (d := leBytes 64 (x.dreg t.a.toNat).toNat) hal
    (by simpa using hsh)
  exact tileOp_runs hi (by simp [hf, ha])
    (by simp only [run_bind, run_pure, Slot.go_sreg, Slot.go_dreg, Slot.go_formeBase, hwrite])

theorem execDmov_copies (hi : Issuing s t a x p) (hf : fits t true true false 0 0 = true) (ha : t.a.toNat < 16)
    (hb : t.b.toNat < 16) :
    execDmov t s = .next (s.putSlot a (x.go.setD t.a.toNat (x.dreg t.b.toNat)).step) :=
  tileOp_runs hi (by simp [hf, ha, hb]) (by simp)

/-! ## Streams (R86, R87, R522) -/

/-- The checks of R522 on a descriptor and its ring, in the form that ATTACH makes them. -/
theorem execAttach_attaches (hi : Issuing s t a x p) (hf : fits t true true false 3 immAll = true) (ha : t.a.toNat < 16)
    (hfree : x.stream t.x.toNat = none) (hok : descOk (x.dreg t.a.toNat) = true)
    (hmx : ¬ (dTranspose (x.dreg t.a.toNat) = true ∧ isMx (dFmt (x.dreg t.a.toNat)) = true))
    (htr : dTranspose (x.dreg t.a.toNat) = true →
      dRows (x.dreg t.a.toNat) % dGroup (x.dreg t.a.toNat) = 0 ∧ dGroup (x.dreg t.a.toNat) ≤ t.imm.toNat)
    (hext : dExtent (x.dreg t.a.toNat) ≠ 0) (hmin : 16 ≤ t.imm.toNat) (hmax : t.imm.toNat ≤ 131072)
    (hring : (x.sreg t.b).toNat % 64 = 0) (hsh : (x.sreg t.b).toNat + 64 * t.imm.toNat ≤ x.formeSize) :
    execAttach t s = .next (s.putSlot a (x.go.setStream t.x.toNat (some {
      desc := x.dreg t.a.toNat, ring := (x.sreg t.b).toNat, size := t.imm.toNat, fetched := 0, arrived := 0, consumed := 0,
      flight := [], group := [], stopped := false })).step) := by
  have hnone : (x.stream t.x.toNat).isNone = true := by simp [hfree]
  have hmx' : (!(dTranspose (x.dreg t.a.toNat) && isMx (dFmt (x.dreg t.a.toNat)))) = true := by
    rw [Bool.not_eq_true', ← Bool.not_eq_true, Bool.and_eq_true]
    exact hmx
  have hgroup : (!dTranspose (x.dreg t.a.toNat) || dRows (x.dreg t.a.toNat) % dGroup (x.dreg t.a.toNat) == 0) = true := by
    by_cases h : dTranspose (x.dreg t.a.toNat) = true
    · simp [(htr h).1]
    · simp [h]
  have hfits : (countOk t.imm.toNat 131072 && decide (16 ≤ t.imm.toNat) && (x.sreg t.b).toNat % 64 == 0
      && decide ((x.sreg t.b).toNat + 64 * t.imm.toNat ≤ x.formeSize)
      && (!dTranspose (x.dreg t.a.toNat) || decide (dGroup (x.dreg t.a.toNat) ≤ t.imm.toNat))) = true := by
    have hcount : countOk t.imm.toNat 131072 = true := by simp only [countOk, Bool.and_eq_true, decide_eq_true_eq]; omega
    by_cases h : dTranspose (x.dreg t.a.toNat) = true
    · simp [hcount, hmin, hring, hsh, (htr h).2]
    · simp [hcount, hmin, hring, hsh, h]
  have hext' : (dExtent (x.dreg t.a.toNat) != 0) = true := bne_iff_ne.mpr hext
  exact tileOp_runs hi (by simp [hf, ha])
    (by simp only [run_bind, run_pure, Slot.go_stream, Slot.go_dreg, Slot.go_sreg, Slot.go_formeSize, need_ok hnone,
      need_ok hok, need_ok hmx', need_ok hgroup, need_ok hext', need_ok hfits])

theorem execDetach_detaches (hi : Issuing s t a x p) (hf : fits t false false false 3 0 = true)
    (hdry : ∀ m, x.stream t.x.toNat = some m → m.flight = []) :
    execDetach t s = .next (s.putSlot a
      (if (x.stream t.x.toNat).isSome then (x.go.setStream t.x.toNat none).step else x.go.step)) := by
  refine tileOp_runs hi hf ?_
  match hm : x.stream t.x.toNat with
  | none => simp
  | some m => simp [hdry m hm]

section Attached

variable {m : Stream} (hm : x.stream t.x.toNat = some m)

include hm

theorem attached_ok {y : Slot} {u : State} (hy : y.stream t.x.toNat = x.stream t.x.toNat) :
    attached y t.x.toNat u = .ok m u := by
  simp only [attached, hy, hm, run_pure]

theorem execWaitr_retires (hi : Issuing s t a x p) (hf : fits t false false false 3 immAll = true) (hmin : 1 ≤ t.imm.toNat)
    (hmax : t.imm.toNat ≤ s.lookahead a.cl m) (harr : m.consumed + t.imm.toNat ≤ m.arrived) :
    execWaitr t s = .next (s.putSlot a x.go.step) := by
  have hcount : countOk t.imm.toNat (s.lookahead a.cl m) = true := by simp [countOk, hmin, hmax]
  exact tileOp_runs hi hf (by
    simp only [run_bind, run_pure, run_look, attached_ok hm (x.go_stream _), need_ok hcount,
      if_neg (Nat.not_lt.mpr harr)])

theorem execConsume_releases (hi : Issuing s t a x p) (hf : fits t false false false 3 immAll = true)
    (harr : m.consumed + t.imm.toNat ≤ m.arrived) :
    execConsume t s = .next (s.putSlot a
      (x.go.setStream t.x.toNat (some { m with consumed := m.consumed + t.imm.toNat })).step) :=
  tileOp_runs hi hf (by
    simp only [run_bind, run_pure, attached_ok hm (x.go_stream _), need_ok (decide_eq_true harr)])

theorem execRingptr_answers (hi : Issuing s t a x p) (hf : fits t true false false 3 0 = true) :
    execRingptr t s = .next (s.putSlot a (x.result t.a (BitVec.ofNat 64 (m.ring + 64 * (m.consumed % m.size))))) :=
  tileOp_runs hi hf (by
    simp only [run_bind, run_pure, attached_ok hm (x.go_stream _), ringAddr, Slot.result])

end Attached

/-! ## PASS and DRAIN (R55, R88 to R90, R94) -/

@[simp] theorem Slot.go_sourceOk (y : Slot) (src code : Nat) : y.go.sourceOk src code = y.sourceOk src code := rfl

/-- The pass that PASS leaves waiting: its operands and rows by the fields of IMM (R88), and the slot's Proof tile identifier. -/
def passOf (s : State) (t : TileOp) (a : TileAt) (x : Slot) (ow : Bool) : Pass :=
  let i := t.imm.toNat
  { slot := a.n, ow := ow, fa := BitVec.ofNat 4 (bits i 31 28), fb := BitVec.ofNat 4 (bits i 27 24)
    srcA := BitVec.ofNat 3 (bits i 23 21), srcB := BitVec.ofNat 3 (bits i 20 18), addrA := x.sreg t.a, addrB := x.sreg t.b
    kch := bits i 17 13, row := x.galBase + ((x.greg (t.x.toNat / 16)).toNat + bits i 11 0), ptid := x.ptid, done := 0
    behind := (s.cluster a.cl).drains.length, sampled := s.samples a.cl a.ctx x.ptid, got := [], crcs := [] }

/-- A pass whose form, sources, addresses and rows pass their checks waits for the array. -/
theorem issuePass_waits {chunk top : Nat} (ow : Bool) (hi : Issuing s t a x p)
    (hf : fits t true true false 0x70 0xFFFFEFFF = true)
    (hform : passForm (bits t.imm.toNat 31 28) (bits t.imm.toNat 27 24) = some (chunk, top))
    (hmin : 1 ≤ bits t.imm.toNat 17 13) (hmax : bits t.imm.toNat 17 13 ≤ top)
    (hsa : x.sourceOk (bits t.imm.toNat 23 21) (bits t.imm.toNat 31 28) = true)
    (hsb : x.sourceOk (bits t.imm.toNat 20 18) (bits t.imm.toNat 27 24) = true)
    (haa : bits t.imm.toNat 23 21 = 4 → (x.sreg t.a).toNat % 64 = 0)
    (hab : bits t.imm.toNat 20 18 = 4 → (x.sreg t.b).toNat % 64 = 0)
    (hrows : (x.greg (t.x.toNat / 16)).toNat + bits t.imm.toNat 11 0 + 128 ≤ x.galRows)
    (hidle : (s.cluster a.cl).passWait = none)
    (hroom : s.samples a.cl a.ctx x.ptid = true → s.captureFull a.cl
      (passBytes (bits t.imm.toNat 31 28) (bits t.imm.toNat 27 24) (bits t.imm.toNat 17 13)) = false) :
    issuePass ow t s = .next ((s.setCluster a.cl { s.cluster a.cl with
      worked := true, passWait := some (passOf s t a x ow) }).putSlot a { x.go with ptid := x.ptid + 1 }.step) := by
  have hop : (countOk (bits t.imm.toNat 17 13) top && x.sourceOk (bits t.imm.toNat 23 21) (bits t.imm.toNat 31 28)
      && x.sourceOk (bits t.imm.toNat 20 18) (bits t.imm.toNat 27 24)) = true := by
    simp [countOk, hmin, hmax, hsa, hsb]
  have hal : ((bits t.imm.toNat 23 21 != 4 || (x.sreg t.a).toNat % 64 == 0)
      && (bits t.imm.toNat 20 18 != 4 || (x.sreg t.b).toNat % 64 == 0)) = true := by
    simpa [← imp_iff_not_or] using ⟨haa, hab⟩
  refine tileOp_runs hi hf ?_
  by_cases hs : s.samples a.cl a.ctx x.ptid = true
  · simp only [run_bind, run_pure, run_look, run_upd, run_ite, onCluster, updCluster, id, Slot.go_sreg, Slot.go_greg, Slot.go_ptid,
      Slot.go_galRows, Slot.go_galBase, Slot.go_sourceOk, hform, need_ok hop, need_ok hal, need_ok (decide_eq_true hrows), hidle,
      Option.isSome_none, Bool.false_eq_true, if_false, hs, if_true, hroom hs, passOf]
  · simp only [run_bind, run_pure, run_look, run_upd, run_ite, onCluster, updCluster, id, Slot.go_sreg, Slot.go_greg, Slot.go_ptid,
      Slot.go_galRows, Slot.go_galBase, Slot.go_sourceOk, hform, need_ok hop, need_ok hal, need_ok (decide_eq_true hrows), hidle,
      Option.isSome_none, Bool.false_eq_true, if_false, hs, passOf]

theorem execDrain_joins (hi : Issuing s t a x p) (hf : fits t true true false 0x70 0x01FFFFFF = true)
    (hmin : 1 ≤ bits t.imm.toNat 24 12) (hmax : bits t.imm.toNat 24 12 ≤ 4096) (hal : (x.sreg t.b).toNat % 64 = 0)
    (hsh : (x.sreg t.b).toNat + 64 ≤ x.formeSize)
    (hrows : (x.greg (t.x.toNat / 16)).toNat + bits t.imm.toNat 11 0 + bits t.imm.toNat 24 12 ≤ x.galRows)
    (hroom : (s.cluster a.cl).drains.length ≤ 2) :
    execDrain t s = .next ((s.setCluster a.cl { s.cluster a.cl with worked := true, drains := (s.cluster a.cl).drains ++ [
      { slot := a.n, row := x.galBase + ((x.greg (t.x.toNat / 16)).toNat + bits t.imm.toNat 11 0)
        rows := bits t.imm.toNat 24 12, dest := x.sreg t.a, recAt := x.sreg t.b }] }).putSlot a x.go.step) := by
  have hcount : countOk (bits t.imm.toNat 24 12) 4096 = true := by simp [countOk, hmin, hmax]
  have hrec := formeAligned_ok (x := x.go) (s := s) hal hsh
  refine tileOp_runs hi hf ?_
  simp only [run_bind, run_pure, run_look, run_upd, run_ite, onCluster, updCluster, id, Slot.go_sreg, Slot.go_greg,
    Slot.go_galRows, Slot.go_galBase, need_ok hcount, hrec, need_ok (decide_eq_true hrows),
    if_neg (show ¬ 3 ≤ (s.cluster a.cl).drains.length by omega)]

end Sys2Proof.Machine

namespace Sys2Proof.Machine

/-! ## The statement -/

/-- Settles O4: each instruction of stream setup retires by its spec lemma; a pass and a drain join what waits. -/
theorem streamAndPassInstructions : Obligations.StreamAndPassInstructions := by
  unfold Obligations.StreamAndPassInstructions
  refine ⟨?streams, ?passes⟩
  case streams =>
    intro s t a x p hi
    refine ⟨fun _ _ => execDset_sets hi, fun _ _ => execDseti_sets hi, execDld_loads hi, execDst_stores hi, execDmov_copies hi,
      execAttach_attaches hi, execDetach_detaches hi, fun m hm => ?_⟩
    exact ⟨execWaitr_retires hm hi, execConsume_releases hm hi, execRingptr_answers hm hi⟩
  case passes =>
    intro s t a x p hi
    refine ⟨fun chunk top hf hform hmin hmax hsa hsb haa hab hrows hidle hroom => ?_, execDrain_joins hi⟩
    exact ⟨issuePass_waits false hi hf hform hmin hmax hsa hsb haa hab hrows hidle hroom,
      issuePass_waits true hi hf hform hmin hmax hsa hsb haa hab hrows hidle hroom⟩

end Sys2Proof.Machine
end

section
/-!
PROOF. Vector and scale instructions (R62, R63, R92, R93, R119, R120, R127, R128): the spec lemma of each shape of lane operation, of
the loads and stores, of the top-k list and of the scales.
-/

namespace Sys2Proof.Machine

variable {s : State} {t : TileOp} {a : TileAt} {x : Slot} {p : Prog}

/-! ## Lane operations (R119, R120, R276) -/

theorem vecResidue_ok {u : State} (h : t.up ≠ .residue) : vecResidue t u = .ok () u := need_ok (decide_eq_true h)

/-- The residue check before the body of an operation, which only a checked one makes. -/
theorem run_residueCheck {checked : Bool} {m : M Slot} {u : State} (h : checked = true → t.up ≠ .residue) :
    (if checked = true then (do vecResidue t; m) else m) u = m u := by
  cases checked
  · rfl
  · simp only [if_true, run_bind, vecResidue_ok (h rfl)]

/-- An operation on the lanes of two registers; one that is not checked needs nothing of the residue. -/
theorem vecOp_writes {checked : Bool} {f : Word32 → Word32 → Word32} (hi : Issuing s t a x p)
    (hf : fits t true true true 0 0 = true) (hr : checked = true → t.up ≠ .residue) :
    vecOp t checked f s = .next ((s.setCluster a.cl ((s.cluster a.cl).setV t.a.toNat (ofLanes fun i =>
      f (lane ((s.cluster a.cl).vreg t.b.toNat) i) (lane ((s.cluster a.cl).vreg t.c.toNat) i)))).putSlot a x.go.step) :=
  tileOp_runs hi hf (by simp only [run_residueCheck hr, run_bind, updCluster, run_upd, run_pure])

/-- An operation on the lanes of three registers. -/
theorem vecOp3_writes {checked : Bool} {f : Word32 → Word32 → Word32 → Word32} (hi : Issuing s t a x p)
    (hf : fits t true true true 0x7C 0 = true) (hr : checked = true → t.up ≠ .residue) :
    vecOp3 t checked f s = .next ((s.setCluster a.cl ((s.cluster a.cl).setV t.a.toNat (ofLanes fun i =>
      f (lane ((s.cluster a.cl).vreg t.b.toNat) i) (lane ((s.cluster a.cl).vreg t.c.toNat) i)
        (lane ((s.cluster a.cl).vreg (t.x.toNat / 4)) i)))).putSlot a x.go.step) :=
  tileOp_runs hi hf (by simp only [run_residueCheck hr, run_bind, updCluster, run_upd, run_pure])

/-- A function of the lanes of one register. -/
theorem vecOp1_writes {f : Num → Num} (hi : Issuing s t a x p) (hf : fits t true true false 0 0 = true) (hr : t.up ≠ .residue) :
    vecOp1 t f s = .next ((s.setCluster a.cl ((s.cluster a.cl).setV t.a.toNat (ofLanes fun i =>
      toF32 (f (f32 (lane ((s.cluster a.cl).vreg t.b.toNat) i)))))).putSlot a x.go.step) :=
  tileOp_runs hi hf (by simp only [run_bind, vecResidue_ok hr, updCluster, run_upd, run_pure])

theorem execVbcast_writes (hi : Issuing s t a x p) (hf : fits t true true false 0 0 = true) :
    execVbcast t s = .next ((s.setCluster a.cl ((s.cluster a.cl).setV t.a.toNat (ofLanes fun _ =>
      (x.sreg t.b).setWidth 32))).putSlot a x.go.step) :=
  tileOp_runs hi hf (by simp only [run_bind, updCluster, run_upd, run_pure, Slot.go_sreg])

/-- A reduction of a register's lanes to a scalar. -/
theorem vecReduce_result {checked : Bool} {f : List Word32 → Word32} (hi : Issuing s t a x p)
    (hf : fits t true true false 0 0 = true) (hr : checked = true → t.up ≠ .residue) :
    vecReduce t checked f s = .next (s.putSlot a (x.result t.a
      ((f ((List.range 256).map (lane ((s.cluster a.cl).vreg t.b.toNat)))).setWidth 64))) :=
  tileOp_runs hi hf (by simp only [run_residueCheck hr, run_bind, onCluster, run_look, run_pure, Slot.result])

/-! ## Loads and stores (R93) -/

theorem vecFmt_ok {c : Nat} {f : Fmt} {u : State} (h : vectorFormat c = some f) : vecFmt c u = .ok f u := by
  have hlisted : c = 0 ∨ c = 1 ∨ c = 7 ∨ c = 8 ∨ c = 9 := by
    by_contra hc
    simp [vectorFormat, hc] at h
  rw [vectorFormat, if_pos hlisted] at h
  have haccepted : c = 0 ∨ c = 1 ∨ 7 ≤ c := by omega
  rw [vecFmt, if_pos haccepted, h]
  rfl

theorem packBits_length (w : Nat) (l : List Rounded) : (packBits w l).length = (l.length * w + 7) / 8 := leBytes_length _ _

/-- The bytes of a packed vector. -/
theorem packBits_vector_length (f : Fmt) (g : Nat → Rounded) :
    (packBits f.width ((List.range 256).map g)).length = 32 * f.width := by
  rw [packBits_length, List.length_map, List.length_range]
  omega

theorem execVld_loads {f : Fmt} (hi : Issuing s t a x p) (hf : fits t true true false 15 immAll = true)
    (hv : vectorFormat t.x.toNat = some f) (hal : (x.sreg t.b + simm t).toNat % 64 = 0)
    (hsh : (x.sreg t.b + simm t).toNat + 32 * f.width ≤ x.formeSize) (hu : t.up ≠ .formeUE) :
    execVld t s = .next (((s.upsetSeen a t.up).setCluster a.cl (((s.upsetSeen a t.up).cluster a.cl).setV t.a.toNat
      (ofLanes fun i => toF32 (f.decode ((ofLe (((s.upsetSeen a t.up).cluster a.cl).formeRead
        (x.formeBase + (x.sreg t.b + simm t).toNat) (32 * f.width)) >>> (f.width * i)) % 2 ^ f.width))))).putSlot a
          x.go.step) := by
  have hread := readForme_ok (a := a) (s := s) (x := x.go) hu hal hsh
  exact tileOp_runs hi hf (by
    simp only [run_bind, vecFmt_ok hv, Slot.go_sreg, Slot.go_formeBase, hread, updCluster, run_upd, run_pure])

/-- VST's store. What it counts is left to `State.fromData`, unless the run is quiet. -/
theorem execVst_stores {f : Fmt} {l : List Rounded} (hi : Issuing s t a x p) (hf : fits t true true false 15 immAll = true)
    (hv : vectorFormat t.x.toNat = some f)
    (hl : l = (List.range 256).map fun i => f.convert (f32 (lane ((s.cluster a.cl).vreg t.a.toNat) i)))
    (hal : (x.sreg t.b + simm t).toNat % 64 = 0) (hsh : (x.sreg t.b + simm t).toNat + 32 * f.width ≤ x.formeSize) {w : State}
    (hw : w = s.setCluster a.cl ((s.cluster a.cl).formeWrite (x.formeBase + (x.sreg t.b + simm t).toNat)
      (packBits f.width l))) :
    execVst t s = .next ((if w.quiet a then w else
      w.fromData (count2 (w.ctx a.ctx).part.toNat .scl (a.cl / 32) 0x60 (l.filter (·.sat)).length ++
        count2 (w.ctx a.ctx).part.toNat .scl (a.cl / 32) 0x64 (l.filter (·.under)).length)).putSlot a x.go.step) := by
  subst hl hw
  have hwrite := writeForme_ok (a := a) (s := s) (x := x.go)
    (d := packBits f.width ((List.range 256).map fun i => f.convert (f32 (lane ((s.cluster a.cl).vreg t.a.toNat) i)))) hal
    (by rw [packBits_vector_length]; exact hsh)
  exact tileOp_runs hi hf (by
    simp only [run_bind, vecFmt_ok hv, onCluster, run_look, Slot.go_sreg, Slot.go_formeBase, hwrite, run_upd, run_pure])

/-! ## Top-k (R63, R93) -/

theorem execVtopkclr_clears (hi : Issuing s t a x p) (hf : fits t false false false 0 immAll = true) (hmin : 1 ≤ t.imm.toNat)
    (hmax : t.imm.toNat ≤ 1024) :
    execVtopkclr t s = .next ((s.setCluster a.cl { s.cluster a.cl with topk := [], k := t.imm.toNat }).putSlot a
      x.go.step) := by
  have hcount : countOk t.imm.toNat 1024 = true := by simp [countOk, hmin, hmax]
  exact tileOp_runs hi hf (by simp only [run_bind, need_ok hcount, updCluster, run_upd, run_pure])

/-- The lanes of vB as candidates, lane n with index sC + n, without the NaN ones. -/
def topkGood (s : State) (t : TileOp) (a : TileAt) (x : Slot) : List (Word32 × Word32) :=
  ((List.range 256).map fun n => (lane ((s.cluster a.cl).vreg t.b.toNat) n, (x.sreg t.c + BitVec.ofNat 64 n).setWidth 32)).filter
    fun e => !(f32 e.1).isNan

theorem execVtopk_offers (hi : Issuing s t a x p) (hf : fits t false true true 0 0 = true) (hk : (s.cluster a.cl).k ≠ 0)
    {w : State} (hw : w = s.setCluster a.cl { s.cluster a.cl with
      topk := ((topkGood s t a x).foldl (fun l e => topkInsert e l) (s.cluster a.cl).topk).take (s.cluster a.cl).k }) :
    execVtopk t s = .next ((if (topkGood s t a x).length < 256 then
      w.fromData [.count 0 .vec a.cl 0x40 (256 - (topkGood s t a x).length), .cond .vec a.cl 1 63]
      else w).putSlot a x.go.step) := by
  subst hw
  have hk' : ((s.cluster a.cl).k != 0) = true := bne_iff_ne.mpr hk
  refine tileOp_runs hi hf ?_
  by_cases h : (topkGood s t a x).length < 256
  · rw [topkGood] at h
    simp only [run_bind, onCluster, run_look, id, need_ok hk', updCluster, run_upd, run_pure, Slot.go_sreg, topkGood,
      h, if_true]
  · rw [topkGood] at h
    simp only [run_bind, onCluster, run_look, id, need_ok hk', updCluster, run_upd, run_pure, Slot.go_sreg, topkGood,
      h, if_false]

theorem topkBytes_length (l : List (Word32 × Word32)) :
    (l.flatMap fun e => leBytes 4 e.1.toNat ++ leBytes 4 e.2.toNat).length = 8 * l.length := by
  induction l with
  | nil => rfl
  | cons e l ih => simp only [List.flatMap_cons, List.length_append, leBytes_length, ih, List.length_cons]; omega

theorem execVtopkrd_writes (hi : Issuing s t a x p) (hf : fits t false true false 0 0 = true) (hk : (s.cluster a.cl).k ≠ 0)
    (hal : (x.sreg t.b).toNat % 64 = 0) (hsh : (x.sreg t.b).toNat + 8 * (s.cluster a.cl).k ≤ x.formeSize) :
    execVtopkrd t s = .next ((s.setCluster a.cl ((s.cluster a.cl).formeWrite (x.formeBase + (x.sreg t.b).toNat)
      ((((s.cluster a.cl).topk ++ List.replicate ((s.cluster a.cl).k - (s.cluster a.cl).topk.length)
        (0x7FC00000, 0xFFFFFFFF)).take (s.cluster a.cl).k).flatMap fun (e : Word32 × Word32) =>
          leBytes 4 e.1.toNat ++ leBytes 4 e.2.toNat))).putSlot a x.go.step) := by
  have hk' : ((s.cluster a.cl).k != 0) = true := bne_iff_ne.mpr hk
  have hwrite := writeForme_ok (a := a) (s := s) (x := x.go) (d := (((s.cluster a.cl).topk ++
      List.replicate ((s.cluster a.cl).k - (s.cluster a.cl).topk.length) (0x7FC00000, 0xFFFFFFFF)).take
        (s.cluster a.cl).k).flatMap fun (e : Word32 × Word32) => leBytes 4 e.1.toNat ++ leBytes 4 e.2.toNat) hal
    (by
      rw [topkBytes_length, List.length_take, Slot.go_formeSize]
      omega)
  exact tileOp_runs hi hf (by
    simp only [run_bind, onCluster, run_look, id, need_ok hk', Slot.go_sreg, Slot.go_formeBase, hwrite, run_pure])

/-! ## Scales (R92, R127, R128) -/

section Tensor

variable {z : Tensor} (hz : s.tensor a.ctx t.imm.toNat = some z)

include hz

theorem useTensor_ok : useTensor a.ctx t.imm.toNat s = .ok z s := by
  simp only [useTensor, run_bind, run_look, hz, run_pure]

theorem execScget_result (hi : Issuing s t a x p) (hf : fits t true false false 0 0xFFFF = true) :
    execScget t s = .next (s.putSlot a (x.result t.a ((scale2 (s.scaleFor a t.imm.toNat z)).setWidth 64))) :=
  tileOp_runs hi hf (by simp only [run_bind, useTensor_ok hz, run_look, run_pure, Slot.result])

theorem execScamax_reports (hi : Issuing s t a x p) (hf : fits t false true false 0 0xFFFF = true) :
    execScamax t s = .next ((if s.quiet a then s
      else s.reportMax a.ctx t.imm.toNat (a.cl / 32) ((x.sreg t.b).setWidth 32)).putSlot a x.go.step) :=
  tileOp_runs hi hf (by simp only [run_bind, useTensor_ok hz, run_upd, run_pure, Slot.go_sreg])

end Tensor

end Sys2Proof.Machine

namespace Sys2Proof.Machine

/-! ## The statement -/

/-- Settles O6: each vector and scale instruction retires by the spec lemma of its shape. -/
theorem vectorInstructions : Obligations.VectorInstructions := by
  unfold Obligations.VectorInstructions
  refine ⟨?lanes, ?others⟩
  case lanes =>
    intro s t a x p hi
    refine ⟨fun hf => ?two, fun hf => ?three, fun hf => ?one⟩
    case two =>
      exact ⟨fun hr => vecOp_writes (checked := true) hi hf fun _ => hr, fun hr => vecOp_writes (checked := true) hi hf fun _ => hr,
        fun hr => vecOp_writes (checked := true) hi hf fun _ => hr, vecOp_writes (checked := false) hi hf nofun,
        vecOp_writes (checked := false) hi hf nofun, vecOp_writes (checked := false) (f := vcmplt) hi hf nofun⟩
    case three =>
      exact ⟨fun hr => vecOp3_writes (checked := true) hi hf fun _ => hr,
        vecOp3_writes (checked := false) (f := vselect) hi hf nofun⟩
    case one =>
      exact ⟨execVbcast_writes hi hf, vecOp1_writes hi hf, vecOp1_writes hi hf, vecOp1_writes hi hf, vecOp1_writes hi hf⟩
  case others =>
    intro s t a x p hi
    refine ⟨fun f hf hv hal hsh => ⟨execVld_loads hi hf hv hal hsh, execVst_stores hi hf hv rfl hal hsh rfl⟩, fun hf => ?_,
      execVtopkclr_clears hi, fun hf hk => execVtopk_offers hi hf hk rfl, execVtopkrd_writes hi,
      fun z hz => ⟨execScget_result hz hi, execScamax_reports hz hi⟩⟩
    exact ⟨fun hr => vecReduce_result (checked := true) hi hf fun _ => hr,
      vecReduce_result (checked := false) (f := vamaxOf) hi hf nofun⟩

end Sys2Proof.Machine
end

section
/-!
PROOF. The run of a pass (R46, R55, R56, R66, R104, R115): numbers packed in fixed widths, the words of a Galley row, what one chunk
does to each word, and the rows PASS_START and ROW_SETTLE.
-/

namespace Sys2Proof.Machine

/-! ## Numbers packed in fixed widths, the first one lowest -/

/-- Numbers packed at `w` bits each. -/
def packed (w : Nat) (l : List Nat) : Nat := l.foldr (fun d acc => acc * 2 ^ w + d % 2 ^ w) 0

theorem packed_cons_shiftRight (w d : Nat) (l : List Nat) : packed w (d :: l) >>> w = packed w l := by
  have hlow : d % 2 ^ w < 2 ^ w := Nat.mod_lt _ (Nat.two_pow_pos w)
  rw [Nat.shiftRight_eq_div_pow, packed, List.foldr_cons, ← packed, Nat.add_comm, Nat.add_mul_div_right _ _ (Nat.two_pow_pos w),
    Nat.div_eq_of_lt hlow, Nat.zero_add]

theorem packed_cons_mod (w d : Nat) (l : List Nat) : packed w (d :: l) % 2 ^ w = d % 2 ^ w := by
  rw [packed, List.foldr_cons, Nat.add_comm, Nat.add_mul_mod_self_right, Nat.mod_mod]

theorem packed_lt (w : Nat) (l : List Nat) : packed w l < 2 ^ (w * l.length) := by
  induction l with
  | nil => exact Nat.two_pow_pos _
  | cons d l ih =>
    have hlow : d % 2 ^ w < 2 ^ w := Nat.mod_lt _ (Nat.two_pow_pos w)
    calc packed w (d :: l) < packed w l * 2 ^ w + 2 ^ w := Nat.add_lt_add_left hlow _
      _ = (packed w l + 1) * 2 ^ w := (Nat.succ_mul _ _).symm
      _ ≤ 2 ^ (w * l.length) * 2 ^ w := Nat.mul_le_mul_right _ ih
      _ = 2 ^ (w * (d :: l).length) := by rw [← Nat.pow_add, List.length_cons, Nat.mul_succ]

/-- The number at a place of the packed ones. -/
theorem packed_shiftRight_mod {w j : Nat} {l : List Nat} (h : j < l.length) : packed w l >>> (w * j) % 2 ^ w = l[j] % 2 ^ w := by
  induction l generalizing j with
  | nil => simp at h
  | cons d l ih =>
    match j with
    | 0 => exact packed_cons_mod w d l
    | j + 1 =>
      rw [Nat.mul_succ, Nat.add_comm, Nat.shiftRight_add, packed_cons_shiftRight, ih (Nat.lt_of_succ_lt_succ h)]
      rfl

/-! ## Galley words (R104) -/

theorem Cluster.galWord_setGalRow_same (k : Cluster) (row : Nat) (f : Nat → Nat) {j : Nat} (hj : j < 128) :
    (k.setGalRow row f).galWord row j = f j % 2 ^ 40 := by
  have hpack : (List.range 128).foldr (fun n acc => acc * 2 ^ 40 + f n % 2 ^ 40) 0 = packed 40 ((List.range 128).map f) := by
    rw [packed, List.foldr_map]
  have hbits : 40 * ((List.range 128).map f).length = 5120 := by rw [List.length_map, List.length_range]
  have hfits := packed_lt 40 ((List.range 128).map f)
  rw [hbits] at hfits
  rw [Cluster.galWord, Cluster.setGalRow, tget_tput_same, BitVec.toNat_ofNat, hpack, Nat.mod_eq_of_lt hfits,
    packed_shiftRight_mod (by simpa using hj)]
  simp

theorem Cluster.galWord_setGalRow_ne (k : Cluster) {row r : Nat} (f : Nat → Nat) (j : Nat) (h : r ≠ row) :
    (k.setGalRow row f).galWord r j = k.galWord r j := by
  rw [Cluster.galWord, Cluster.setGalRow, tget_tput_ne _ _ h, ← Cluster.galWord]

/-- Rows rewritten one after the other, each from the words that it holds: the first `n` rows from `row` are rewritten, and every
other keeps its words. -/
theorem Cluster.galWord_rewriteRows (k : Cluster) (row : Nat) (f : Nat → Nat → Nat → Nat) (n r : Nat) {j : Nat} (hj : j < 128) :
    ((List.range n).foldl (fun (k : Cluster) r => k.setGalRow (row + r) fun j => f r j (k.galWord (row + r) j)) k).galWord
      (row + r) j = if r < n then f r j (k.galWord (row + r) j) % 2 ^ 40 else k.galWord (row + r) j := by
  induction n with
  | zero => rfl
  | succ n ih =>
    rw [List.range_succ, List.foldl_append, List.foldl_cons, List.foldl_nil]
    by_cases hr : r = n
    · subst hr
      rw [Cluster.galWord_setGalRow_same _ _ _ hj, ih, if_neg (Nat.lt_irrefl r), if_pos (Nat.lt_succ_self r)]
    · rw [Cluster.galWord_setGalRow_ne _ _ _ (by omega), ih]
      exact if_congr (by omega) rfl rfl

/-- One chunk of a pass (R115). -/
theorem Cluster.runChunk_galWord (k : Cluster) (p : Pass) (ba bb : Nat) {r j : Nat} (hr : r < 128) (hj : j < 128) :
    (k.runChunk p ba bb).galWord (p.row + r) j =
      (if p.ow = true ∧ p.done = 0 then contribution p.fa.toNat p.fb.toNat ba bb r j
        else accumulate (k.galWord (p.row + r) j) (contribution p.fa.toNat p.fb.toNat ba bb r j)) % 2 ^ 40 := by
  have h := k.galWord_rewriteRows p.row (fun r j w =>
    if p.ow && p.done == 0 then contribution p.fa.toNat p.fb.toNat ba bb r j
    else accumulate w (contribution p.fa.toNat p.fb.toNat ba bb r j)) 128 r hj
  rw [if_pos hr] at h
  rw [Cluster.runChunk, h]
  simp only [Bool.and_eq_true, beq_iff_eq]

/-! ## The array's rows -/

section Array

variable {s : State} {cl : BitVec 7}

/-- A waiting pass that may start, undisturbed: its chunks run from the state in which its rows are unsettled, and `w` is what the
end of the pass leaves, if it has come. -/
theorem execPassStart_waiting {k : Cluster} {p q : Pass} {a : TileAt} {x : Slot} {u w : State} (hk : s.cluster cl.toNat = k)
    (hrun : k.passRun = none) (hwait : k.passWait = some p) (hmay : k.mayStart p = true) (hvoid : k.voidSlot p.slot = false)
    (hslot : s.slotAt cl.toNat p.slot = some (a, x))
    (hchunks : passChunks a p.kch (s.setCluster cl.toNat { k with
      passRun := some p, passWait := none,
      unsettled := k.unsettled ++ p.rows.filter fun r => !k.unsettled.contains r }) = .ok () u)
    (hq : (u.cluster a.cl).passRun = some q)
    (hend : (if q.done = q.kch then passEnd a q else pure () : M Unit) u = .ok () w) :
    execPassStart cl .clean s = .next w := by
  have hvoid' : ({ k with
      passRun := some p, passWait := none,
      unsettled := k.unsettled ++ p.rows.filter fun r => !k.unsettled.contains r } : Cluster).voidSlot p.slot = false := hvoid
  simp only [execPassStart, hk, hrun, hwait, hmay, if_true, hvoid', Bool.false_eq_true, if_false, hslot, run_bind, hchunks,
    onCluster, run_look, hq, formeUpset, pure_bind, ite_self, hend]

theorem execPassStart_void {p : Pass} (up : Upset) (hrun : (s.cluster cl.toNat).passRun = some p)
    (hvoid : (s.cluster cl.toNat).voidSlot p.slot = true) :
    execPassStart cl up s = .next ((s.setCluster cl.toNat (s.cluster cl.toNat)).voidPass cl.toNat) := by
  simp only [execPassStart, hrun, hvoid, if_true]

/-- At its last chunk a pass that is not sampled leaves the array and is counted. -/
theorem passEnd_counts {a : TileAt} {q : Pass} {u : State} (hs : q.sampled = false) :
    passEnd a q u = .ok () (u.setCluster a.cl { u.cluster a.cl with
      passRun := none, passes := (u.cluster a.cl).passes + 1 }) := by
  simp only [passEnd, run_bind, updCluster, run_upd, hs, Bool.false_eq_true, if_false, run_pure]

theorem execRowSettle_settles {row : BitVec 12} {up : Upset} (hun : (s.cluster cl.toNat).unsettled.contains row.toNat = true)
    (hup : up ≠ .residue) (htree : (s.cluster cl.toNat).inTree row.toNat = false) :
    execRowSettle cl row up s = .next ((s.setCluster cl.toNat { s.cluster cl.toNat with
      unsettled := (s.cluster cl.toNat).unsettled.filter (· != row.toNat) }).closeStep cl.toNat) := by
  simp only [execRowSettle, hun, htree, Bool.not_true, Bool.or_self, Bool.false_eq_true, if_false]
  split
  · exact absurd rfl hup
  · rfl

end Array

/-! ## The statement -/

/-- Settles O9: PASS_START runs the pass from the state in which its rows are unsettled; the words of a chunk are those of
`runChunk_galWord`. -/
theorem passRuns : Obligations.PassRuns := by
  unfold Obligations.PassRuns
  refine ⟨?rows, ?chunk⟩
  case rows =>
    intro s cl
    refine ⟨?start, fun row up hun hup htree => execRowSettle_settles hun hup htree,
      fun p up hrun hvoid => execPassStart_void up hrun hvoid, rfl⟩
    intro p a x u q hrun hwait hmay hvoid hslot hchunks hq
    have hruns := fun w => execPassStart_waiting (w := w) rfl hrun hwait hmay hvoid hslot hchunks hq
    refine ⟨fun hlt => hruns u ?_, fun hlast hs => hruns _ ?_⟩
    · rw [if_neg hlt.ne, run_pure]
    · rw [if_pos hlast, passEnd_counts hs]
  case chunk => exact fun k p ba bb r j hr hj => k.runChunk_galWord p ba bb hr hj

end Sys2Proof.Machine
end

section
/-!
PROOF. The stream engines and the Gleaner (R52, R53, R56 to R61, R65, R66, R87, R90, R91, R99): the spec lemma of each row.
-/

namespace Sys2Proof.Machine

variable {s : State} {cl : BitVec 7} {a : TileAt} {x : Slot}

/-! ## Stream engines (R52, R53, R65, R87, R99) -/

section Stream

variable {st : BitVec 2} {p : Prog} {m : Stream} (hi : s.issues cl.toNat = some (a, x, p))

include hi

theorem execBoundaryLateExpiry_faults :
    execBoundaryLateExpiry cl s = .next (s.tileFault a.cl a.ctx a.src 0x1003 0 0).settle := by
  simp only [execBoundaryLateExpiry, hi, State.tileExit]

/-- A stream engine's step that succeeds stores the stream in the slot as the step left it. -/
theorem engineStep_stores {n : Nat} {body : TileAt → Slot → Stream → M Stream} {m' : Stream} {u : State} {y : Slot}
    (hm : x.stream n = some m) (hbody : body a x m s = .ok m' u) (hy : (u.cluster a.cl).slot a.n = some y) :
    engineStep cl n body s = .next (u.putSlot a (y.setStream n (some m'))) := by
  simp only [engineStep, hi, hm, hbody, hy]

theorem execSowLineFetch_fetches {env : Env} {b : List Byte} {u : State} {y : Slot} (hm : x.stream st.toNat = some m)
    (hon : m.stopped = false) (hmore : m.fetched < dTotal m.desc) (hlook : m.fetched - m.consumed < s.lookahead a.cl m)
    (hroom : m.flight.length < 256)
    (hread : sowRead a env (sourceLine m.desc m.fetched).1
      (sourceBytes m.desc (sourceLine m.desc m.fetched).1 (sourceLine m.desc m.fetched).2) s = .ok b u)
    (hy : (u.cluster a.cl).slot a.n = some y) :
    execSowLineFetch cl st env s = .next (u.putSlot a (y.setStream st.toNat
      (some { m with fetched := m.fetched + 1, flight := m.flight ++ [lineAt 0 b] }))) := by
  have hgoes : (m.stopped || decide (dTotal m.desc ≤ m.fetched) || decide (s.lookahead a.cl m ≤ m.fetched - m.consumed)
      || decide (256 ≤ m.flight.length)) = false := by
    simp only [hon, Bool.false_or, Bool.or_eq_false_iff, decide_eq_false_iff_not]
    omega
  exact engineStep_stores hi hm
    (by simp only [run_bind, run_look, hgoes, Bool.false_eq_true, if_false, hread, run_pure]) hy

end Stream

/-- The issuing slot is stored in its cluster, also after a change of the Forme store. -/
theorem slot_of_issues {p : Prog} (hi : s.issues cl.toNat = some (a, x, p)) : (s.cluster a.cl).slot a.n = some x := by
  obtain ⟨-, hslot, -, hcl, -⟩ := issues_spec hi
  rw [hcl, hslot]

@[simp] theorem Cluster.setForme_slot (k : Cluster) (l : Nat) (d : LineData) (n : Nat) : (k.setForme l d).slot n = k.slot n := rfl

/-- Lines written one after the other into the ring leave the slots. -/
theorem foldl_setForme_slot (g : Nat × LineData → Nat) (l : List (Nat × LineData)) (k : Cluster) (n : Nat) :
    (l.foldl (fun (k : Cluster) e => k.setForme (g e) e.2) k).slot n = k.slot n := by
  induction l generalizing k with
  | nil => rfl
  | cons e l ih => rw [List.foldl_cons, ih, Cluster.setForme_slot]

section Arrive

variable {st : BitVec 2} {p : Prog} {m : Stream} {d : LineData} {rest : List LineData}
  (hi : s.issues cl.toNat = some (a, x, p)) (hm : x.stream st.toNat = some m) (hflight : m.flight = d :: rest)

include hi hm hflight

/-- The oldest line in flight arrives: `lines` enter the ring, and `group` waits for its last line. -/
theorem execSowLineArrive_enters {lines group : List LineData}
    (hlines : lines = if !dTranspose m.desc then [d]
      else if m.group.length + 1 = dGroup m.desc then transposed (codeWidth (dFmt m.desc)) (m.group ++ [d]) else [])
    (hgroup : group = if dTranspose m.desc && lines.isEmpty then m.group ++ [d] else []) :
    execSowLineArrive cl st s = .next ((s.setCluster a.cl (((List.range lines.length).zip lines).foldl
      (fun (k : Cluster) (e : Nat × LineData) => k.setForme ((x.formeBase + ringAddr m (m.arrived + e.1)) / 64) e.2)
      (s.cluster a.cl))).putSlot a (x.setStream st.toNat
        (some { m with flight := rest, group := group, arrived := m.arrived + lines.length }))) := by
  refine engineStep_stores hi hm (m' := { m with flight := rest, group := group, arrived := m.arrived + lines.length }) ?_ ?_
  · simp only [hflight, run_bind, updCluster, run_upd, run_pure, ← hlines, ← hgroup]
  · rw [State.setCluster_same, foldl_setForme_slot, slot_of_issues hi]

theorem execSowLineArrive_plain (htr : dTranspose m.desc = false) :
    execSowLineArrive cl st s = .next ((s.setCluster a.cl
      ((s.cluster a.cl).setForme ((x.formeBase + ringAddr m m.arrived) / 64) d)).putSlot a (x.setStream st.toNat
        (some { m with flight := rest, group := [], arrived := m.arrived + 1 }))) :=
  execSowLineArrive_enters hi hm hflight (lines := [d]) (group := []) (by simp [htr]) (by simp [htr])

theorem execSowLineArrive_joins (htr : dTranspose m.desc = true) (hmore : m.group.length + 1 ≠ dGroup m.desc) :
    execSowLineArrive cl st s = .next ((s.setCluster a.cl (s.cluster a.cl)).putSlot a (x.setStream st.toNat
      (some { m with flight := rest, group := m.group ++ [d] }))) :=
  execSowLineArrive_enters hi hm hflight (lines := []) (group := m.group ++ [d]) (by simp [htr, hmore]) (by simp [htr])

theorem execSowLineArrive_completes (htr : dTranspose m.desc = true) (hlast : m.group.length + 1 = dGroup m.desc)
    {lines : List LineData} (hlines : lines = transposed (codeWidth (dFmt m.desc)) (m.group ++ [d])) :
    execSowLineArrive cl st s = .next ((s.setCluster a.cl (((List.range lines.length).zip lines).foldl
      (fun (k : Cluster) (e : Nat × LineData) => k.setForme ((x.formeBase + ringAddr m (m.arrived + e.1)) / 64) e.2)
      (s.cluster a.cl))).putSlot a (x.setStream st.toNat
        (some { m with flight := rest, group := [], arrived := m.arrived + lines.length }))) := by
  have hsome : lines.isEmpty = false := by simp [hlines, transposed]
  exact execSowLineArrive_enters hi hm hflight (by simp [htr, hlast, hlines]) (by simp [hsome])

end Arrive

/-! ## Drains (R56 to R61, R66) -/

section Start

variable {up : Upset} {row r : Nat} {env : Env} {d : Drain} {rest : List Drain} {rows : List EpiRow} {v w t : State} {k : Cluster}
  (hk : s.cluster cl.toNat = k) (hd : k.drains = d :: rest) (hready : k.drainReady d = true)
  (ht : t = s.setCluster cl.toNat { k with
    drains := rest, passWait := k.passWait.map fun p => { p with behind := p.behind - 1 } })

include hk hd hready ht

theorem execDrainStart_void (hvoid : k.voidSlot d.slot = true) :
    execDrainStart cl ⟨up, row⟩ env s = .next (t.closeStep cl.toNat) := by
  simp only [execDrainStart, hk, hd, hready, Bool.not_true, Bool.false_eq_true, if_false, hvoid, if_true, ht]

/-- The oldest drain of a slot that runs leaves what its body leaves. -/
theorem execDrainStart_runs (hvoid : k.voidSlot d.slot = false) (hslot : s.slotAt cl.toNat d.slot = some (a, x))
    (hbody : drainBody a x d up row t = .ok () w) : execDrainStart cl ⟨up, row⟩ env s = .next w := by
  subst ht
  simp only [execDrainStart, hk, hd, hready, Bool.not_true, Bool.false_eq_true, if_false, hvoid, hslot, hbody]

end Start

/-- The state after ZERO, where the record asks for it (R47). -/
def State.drainZeroed (s : State) (a : TileAt) (d : Drain) (r : Nat) : State :=
  if epiZero r then s.setCluster a.cl ((s.cluster a.cl).zeroGalley d.row d.rows) else s

section Body

variable {up : Upset} {row r : Nat} {d : Drain} {rows : List EpiRow} {t v w : State}
  (hread : drainRead a x d up t = .ok (r, rows) v)

include hread

theorem drainBody_toMem (hmem : epiMem r = true) :
    drainBody a x d up row t = .ok () ((v.drainZeroed a d r).setCluster a.cl { (v.drainZeroed a d r).cluster a.cl with
      rowsOut := drainRows a.n r d rows (if up = .residue then some row else none) }) := by
  cases hz : epiZero r <;>
    simp only [drainBody, run_bind, hread, hz, hmem, State.drainZeroed, updCluster, run_upd, if_true, if_false,
      Bool.false_eq_true]

theorem drainBody_toForme (hmem : epiMem r = false)
    (hw : drainToForme a x (drainRows a.n r d rows (if up = .residue then some row else none)) (v.drainZeroed a d r) =
      .ok () w) : drainBody a x d up row t = .ok () w := by
  cases hz : epiZero r <;>
    simp only [State.drainZeroed, hz, if_true, if_false, Bool.false_eq_true] at hw <;>
    simp only [drainBody, run_bind, hread, hz, hmem, updCluster, run_upd, if_true, if_false, Bool.false_eq_true, hw]

end Body

/-- The steps of the epilogue (R58, R90). -/
theorem epiElem_steps (r gw : Nat) (dq os bias : Word32) (res : Option Word32) {v1 v2 v3 v4 : Word32}
    (h1 : v1 = fmul (BitVec.ofNat 32 (Fmt.FP32.convert (Fmt.GW40.decode gw)).bits) dq)
    (h2 : v2 = if epiBias r then fadd v1 bias else v1) (h3 : v3 = activate (epiAct r) v2)
    (h4 : v4 = (res.map (fadd v3)).getD v3) :
    (epiElem r gw dq os bias res).out = fmul v4 os ∧ (epiElem r gw dq os bias res).mag = (f32 v4).abs := by
  subst h1 h2 h3 h4
  cases res <;> exact ⟨rfl, rfl⟩

section RowWrite

variable {env : Env} {row : RowOut} {rest : List RowOut} {u t : State} {k : Cluster}
  (hk : s.cluster cl.toNat = k) (hrow : k.rowsOut = row :: rest) (ht : t = s.setCluster cl.toNat { k with rowsOut := rest })

include hk hrow ht

theorem execDrainRowWrite_void (hvoid : k.voidSlot row.slot = true) :
    execDrainRowWrite cl env s = .next (t.closeStep cl.toNat) := by
  simp only [execDrainRowWrite, hk, hrow, hvoid, if_true, ht]

theorem execDrainRowWrite_bad (hvoid : k.voidSlot row.slot = false) (hslot : s.slotAt cl.toNat row.slot = some (a, x))
    (hbad : row.bad = true) :
    execDrainRowWrite cl env s = .next (t.tileFault a.cl a.ctx a.src 0x1002 0 0).settle := by
  subst ht
  have hneed : (!row.bad) ≠ true := by simp [hbad]
  simp only [execDrainRowWrite, hk, hrow, hvoid, Bool.false_eq_true, if_false, hslot, rowWrite, run_bind, run_need, if_neg hneed,
    State.tileExit]

theorem execDrainRowWrite_writes (hvoid : k.voidSlot row.slot = false) (hslot : s.slotAt cl.toNat row.slot = some (a, x))
    (hgood : row.bad = false) (hw : vwriteWhole { src := a.src, env := env } .clWrite 0x1301 row.parts t = .ok () u) :
    execDrainRowWrite cl env s = .next (u.rowReport a row) := by
  subst ht
  have hneed : (!row.bad) = true := by simp [hgood]
  simp only [execDrainRowWrite, hk, hrow, hvoid, Bool.false_eq_true, if_false, hslot, rowWrite, run_bind, need_ok hneed, hw,
    run_upd]

end RowWrite

end Sys2Proof.Machine

namespace Sys2Proof.Machine

/-! ## The statement -/

/-- Settles O8: the rows of the stream engines and of the Gleaner, each by its spec lemma. -/
theorem arrayEngines : Obligations.ArrayEngines := by
  unfold Obligations.ArrayEngines
  refine ⟨?engines, ?start, ?epilogue, ?rows⟩
  case engines =>
    intro s cl a x p hi
    refine ⟨execBoundaryLateExpiry_faults hi, fun st m hm =>
      ⟨fun env b u y => execSowLineFetch_fetches hi hm, fun d rest hflight => ?_⟩⟩
    exact ⟨execSowLineArrive_plain hi hm hflight, execSowLineArrive_joins hi hm hflight,
      fun htr hlast => execSowLineArrive_completes hi hm hflight htr hlast rfl⟩
  case start =>
    intro s cl up row env a x d rest r rows v w k t zeroed out hd hready
    refine ⟨execDrainStart_void (up := up) (row := row) (env := env) rfl hd hready rfl, fun hvoid hslot hread => ?_⟩
    have hruns := fun w => execDrainStart_runs (up := up) (row := row) (env := env) (w := w) rfl hd hready rfl hvoid hslot
    exact ⟨fun hmem => hruns _ (drainBody_toMem hread hmem), fun hmem hw => hruns w (drainBody_toForme hread hmem hw)⟩
  case epilogue =>
    intro r gw dq os bias res
    cases res <;> exact epiElem_steps r gw dq os bias _ rfl rfl rfl rfl
  case rows =>
    intro s cl env a x row rest u k t hrow
    exact ⟨execDrainRowWrite_void rfl hrow rfl, fun hvoid hslot => ⟨execDrainRowWrite_bad rfl hrow rfl hvoid hslot,
      execDrainRowWrite_writes rfl hrow rfl hvoid hslot⟩⟩

end Sys2Proof.Machine
end

section
/-!
PROOF. Exact reduction (R121, R122, R151): what a finite contribution adds in a window, and that the order of the contributions
does not matter.
-/

namespace Sys2Proof.Machine

/-! ## A finite contribution in a window (R122) -/

section Window

variable {b e : Int} (neg : Bool) (m : Nat)

/-- At or above the base the value is exact in units of the base. -/
theorem windowOf_exact (h : b ≤ e) (hsmall : m * 2 ^ (e - b).toNat < 2 ^ 116) :
    windowOf b (.fin neg m e) =
      { q := if neg then -((m * 2 ^ (e - b).toNat : Nat) : Int) else (m * 2 ^ (e - b).toNat : Nat), shed := false,
        nonfin := false, ovf := false, exp := (Num.fin neg m e).ilog2 } := by
  simp only [windowOf, if_pos h, Nat.shiftLeft_eq, Nat.not_le.mpr hsmall, Int.not_lt.mpr h, decide_false, Bool.false_eq_true,
    if_false, Bool.false_and]

/-- Below the base the magnitude is truncated, and a bit that is lost marks it. -/
theorem windowOf_truncated (h : e < b) (hsmall : m / 2 ^ (b - e).toNat < 2 ^ 116) :
    windowOf b (.fin neg m e) =
      { q := if neg then -((m / 2 ^ (b - e).toNat : Nat) : Int) else (m / 2 ^ (b - e).toNat : Nat),
        shed := m / 2 ^ (b - e).toNat * 2 ^ (b - e).toNat != m, nonfin := false, ovf := false,
        exp := (Num.fin neg m e).ilog2 } := by
  simp only [windowOf, if_neg (Int.not_le.mpr h), Nat.shiftRight_eq_div_pow, Nat.shiftLeft_eq, Nat.not_le.mpr hsmall, h,
    decide_false, decide_true, Bool.false_eq_true, if_false, Bool.true_and]

/-- A magnitude that does not fit adds nothing and overflows. -/
theorem windowOf_overflows (h : b ≤ e) (hbig : 2 ^ 116 ≤ m * 2 ^ (e - b).toNat) :
    (windowOf b (.fin neg m e)).q = 0 ∧ (windowOf b (.fin neg m e)).ovf = true := by
  simp only [windowOf, if_pos h, Nat.shiftLeft_eq, hbig, decide_true, if_true, and_self]

end Window

theorem div_mul_ne_iff_mod_ne_zero (m n : Nat) : m / n * n ≠ m ↔ m % n ≠ 0 := by
  have h := Nat.div_add_mod' m n
  omega

/-! ## The order of contributions (R151) -/

/-- The counters of a region do not depend on which of two contributions comes first. -/
theorem Region.count_right_comm (r : Region) (v w : Win) : (r.count v).count w = (r.count w).count v := by
  have hshed : r.shed + b2n v.shed + b2n w.shed = r.shed + b2n w.shed + b2n v.shed := Nat.add_right_comm ..
  have hnonfin : min 0xFFFFFFFF (min 0xFFFFFFFF (r.nonfin + b2n v.nonfin) + b2n w.nonfin) =
      min 0xFFFFFFFF (min 0xFFFFFFFF (r.nonfin + b2n w.nonfin) + b2n v.nonfin) := by omega
  cases hv : v.ovf <;> cases hw : w.ovf <;> cases hr : r.ovf <;>
    simp [Region.count, hshed, hnonfin, hv, hw, hr, max_comm, max_left_comm]

/-- One contribution to an element and to its region's counters. -/
def contribute (a : Region × BitVec 128) (w : Win) : Region × BitVec 128 := (a.1.count w, a.2 + BitVec.ofInt 128 w.q)

theorem contribute_right_comm (a : Region × BitVec 128) (v w : Win) :
    contribute (contribute a v) w = contribute (contribute a w) v := by
  simp only [contribute, Region.count_right_comm a.1 v w, BitVec.add_assoc, BitVec.add_comm (BitVec.ofInt 128 v.q)]

/-! ## The statement -/

/-- Settles O18: the three cases of a finite contribution, and any two contributions may change places. -/
theorem reductionOrder : Obligations.ReductionOrder := by
  unfold Obligations.ReductionOrder
  refine ⟨?window, ?order⟩
  case window =>
    intro b neg m e
    refine ⟨fun h hsmall => ?_, fun h hsmall => ?_, fun h hbig => windowOf_overflows neg m h hbig, rfl⟩
    · rw [windowOf_exact neg m h hsmall]
      exact ⟨rfl, rfl, rfl⟩
    · rw [windowOf_truncated neg m h hsmall]
      exact ⟨rfl, rfl, bne_iff_ne.trans (div_mul_ne_iff_mod_ne_zero ..)⟩
  case order =>
    intro r x l m hperm
    have : RightCommutative contribute := ⟨contribute_right_comm⟩
    exact hperm.foldl_eq (f := contribute) (r, x)

end Sys2Proof.Machine
end

section
/-!
PROOF. Training state: the outcome of the digest comparison (R187) and the exponent of a DELAYED tensor (R133).
-/

namespace Sys2Proof.Machine

/-! ## Digests (R187) -/

section Digest

variable {own : BitVec 256} {others : List (BitVec 256)}

theorem digestOutcome_agrees (h : ∀ x ∈ others, x = own) : digestOutcome own others = 0 := by
  simp only [digestOutcome, List.all_eq_true, beq_iff_eq]
  exact if_pos h

/-- A value that more than half of the ranks hold. -/
def isMajority (own : BitVec 256) (others : List (BitVec 256)) (v : BitVec 256) : Prop :=
  (own :: others).length < 2 * (own :: others).count v

/-- No two values are each held by more than half. -/
theorem isMajority_unique {v w : BitVec 256} (hv : isMajority own others v) (hw : isMajority own others w) : v = w := by
  by_contra hne
  have hsum : ∀ l : List (BitVec 256), l.count v + l.count w ≤ l.length := by
    intro l
    induction l with
    | nil => simp
    | cons x l ih =>
      simp only [List.count_cons, List.length_cons, beq_iff_eq]
      split <;> split <;> simp_all <;> omega
  have h := hsum (own :: others)
  unfold isMajority at hv hw
  omega

theorem isMajority.mem {v : BitVec 256} (hv : isMajority own others v) : v ∈ own :: others := by
  rw [← List.count_pos_iff]
  unfold isMajority at hv
  omega

/-- What the model searches for. -/
theorem majority_decide (v : BitVec 256) :
    decide ((own :: others).length < 2 * ((own :: others).filter (· == v)).length) = true ↔ isMajority own others v := by
  rw [decide_eq_true_eq, isMajority, List.count_eq_length_filter]

section Differ

variable (hdiffer : ¬ ∀ x ∈ others, x = own)

include hdiffer

theorem digestOutcome_of_majority {v : BitVec 256} (hv : isMajority own others v) :
    digestOutcome own others = if v = own then 0x1A42 else 0x1A41 := by
  have hall : ¬ (others.all (· == own)) = true := by simpa [List.all_eq_true] using hdiffer
  simp only [digestOutcome, if_neg hall]
  split
  · next w hw =>
    have hmost := List.find?_some hw
    rw [isMajority_unique hv ((majority_decide w).mp hmost)]
  · next hnone =>
    exact absurd ((majority_decide v).mpr hv) (List.find?_eq_none.mp hnone v hv.mem)

theorem digestOutcome_of_no_majority (h : ∀ v ∈ own :: others, ¬ isMajority own others v) :
    digestOutcome own others = 0x1A43 := by
  have hall : ¬ (others.all (· == own)) = true := by simpa [List.all_eq_true] using hdiffer
  simp only [digestOutcome, if_neg hall]
  split
  · next w hw =>
    have hmost := List.find?_some hw
    exact absurd ((majority_decide w).mp hmost) (h w (List.mem_of_find?_eq_some hw))
  · rfl

end Differ

end Digest

/-- Settles O23: at most one digest is held by more than half of the ranks, and the comparison finds it if there is one. -/
theorem digestOutcome_spec : Obligations.DigestOutcome := by
  unfold Obligations.DigestOutcome
  intro own others
  refine ⟨digestOutcome_agrees, fun hdiffer => ⟨fun hmost => ?_, fun v _ hne hmost => ?_, digestOutcome_of_no_majority hdiffer⟩⟩
  · rw [digestOutcome_of_majority hdiffer hmost, if_pos rfl]
  · rw [digestOutcome_of_majority hdiffer hmost, if_neg hne]

/-! ## Exponents of DELAYED tensors (R133) -/

/-- Where the exponent of a tensor goes after a step whose greatest maximum is `top`, before its limits. -/
def Tensor.target (t : Tensor) (top : Word32) : Int :=
  let goal := (f32 top).ilog2 - fmtTop t.fmt.toNat + 1 + t.margin
  if t.downMax ≠ 0 ∧ goal < t.x then max goal (t.x - t.downMax) else goal

section Stepped

variable {t : Tensor} {a top : Word32} (hdelayed : t.delayed = true) (htop : top = (t.hist.drop 1 ++ [a]).foldl maxF 0)

include hdelayed htop

/-- A step that leaves the exponent. -/
theorem Tensor.stepped_keeps (h : top = 0 ∨ t.fallback = true) :
    t.stepped a = { t with stepMax := 0, nonfin := false, reruns := 0, writer := none, hist := t.hist.drop 1 ++ [a], last := top } := by
  subst htop
  simp only [Tensor.stepped, hdelayed, Bool.not_true, Bool.false_eq_true, if_false, if_pos h]

/-- A step that moves the exponent. -/
theorem Tensor.stepped_moves (h0 : top ≠ 0) (hf : t.fallback = false) :
    t.stepped a = { t with
      stepMax := 0, nonfin := false, reruns := 0, writer := none, hist := t.hist.drop 1 ++ [a], last := top,
      x := min (max (t.target top) t.xMin) t.xMax } := by
  subst htop
  have hmoves : ¬ ((t.hist.drop 1 ++ [a]).foldl maxF 0 = 0 ∨ t.fallback = true) :=
    not_or.mpr ⟨h0, by simp [hf]⟩
  simp only [Tensor.stepped, hdelayed, Bool.not_true, Bool.false_eq_true, if_false, if_neg hmoves, Tensor.target]

end Stepped

/-- DOWN_MAX bounds a fall. -/
theorem Tensor.sub_le_target (t : Tensor) (top : Word32) (hdown : t.downMax ≠ 0) (hnonneg : 0 ≤ t.downMax) :
    t.x - t.downMax ≤ t.target top := by
  unfold Tensor.target
  simp only
  split
  · exact le_max_right _ _
  · omega

/-- Settles O26: either the step keeps the exponent, or it follows the target within the limits. -/
theorem scaleFollows : Obligations.ScaleFollows := by
  unfold Obligations.ScaleFollows
  intro t a hdelayed
  by_cases h : (t.hist.drop 1 ++ [a]).foldl maxF 0 = 0 ∨ t.fallback = true
  · simp only [Tensor.stepped_keeps hdelayed rfl h, true_and]
    refine ⟨fun _ => trivial, fun h0 hf => ?_⟩
    exact absurd h (not_or.mpr ⟨h0, by simp [hf]⟩)
  · obtain ⟨h0, hf⟩ := not_or.mp h
    rw [Bool.not_eq_true] at hf
    simp only [Tensor.stepped_moves hdelayed rfl h0 hf, true_and]
    refine ⟨fun hkeep => absurd hkeep h, fun _ _ => ⟨fun hlim => ?_, min_le_right _ _, fun hdown hx hnonneg => ?_, fun hdown => ?_⟩⟩
    · exact le_min (le_max_right _ _) hlim
    · have htarget := t.sub_le_target ((t.hist.drop 1 ++ [a]).foldl maxF 0) hdown hnonneg
      exact le_min (htarget.trans (le_max_left _ _)) (by omega)
    · simp [Tensor.target, hdown]

end Sys2Proof.Machine
end

section
/-!
PROOF. Wire form (R164): the width of a group is the least that holds its elements, and reading a group, and then a list of groups,
gives the elements back with the zero elements that fill the last group.
-/

namespace Sys2Proof.Machine

/-! ## The width of a group -/

/-- An element is the sign extension of its low `w` bytes. -/
def fitsBytes (w : Nat) (x : BitVec 128) : Bool := (x.setWidth (8 * w)).signExtend 128 == x

theorem fitsBytes_sixteen (x : BitVec 128) : fitsBytes 16 x = true := by
  simp [fitsBytes]

theorem wireWidth_eq_find (l : List (BitVec 128)) :
    wireWidth l = (((List.range 16).find? fun i => l.all (fitsBytes (i + 1))).map (· + 1)).getD 16 := by
  simp only [wireWidth, List.find?_map]
  rfl

/-- The width is found: some width up to 16 holds every element, and none below the one found does. -/
theorem exists_wireWidth_eq (l : List (BitVec 128)) :
    ∃ i < 16, wireWidth l = i + 1 ∧ l.all (fitsBytes (i + 1)) = true ∧ ∀ j < i, l.all (fitsBytes (j + 1)) = false := by
  rw [wireWidth_eq_find]
  match h : (List.range 16).find? fun i => l.all (fitsBytes (i + 1)) with
  | some i =>
    obtain ⟨hfits, hmem, hleast⟩ := List.find?_range_eq_some.mp h
    exact ⟨i, List.mem_range.mp hmem, rfl, hfits, fun j hj => by simpa using hleast j hj⟩
  | none =>
    have hall : l.all (fitsBytes (15 + 1)) = true := List.all_eq_true.mpr fun x _ => fitsBytes_sixteen x
    exact absurd hall (List.find?_eq_none.mp h 15 (List.mem_range.mpr (by omega)))

theorem wireWidth_fits (l : List (BitVec 128)) : ∀ x ∈ l, fitsBytes (wireWidth l) x = true := by
  obtain ⟨i, -, hw, hfits, -⟩ := exists_wireWidth_eq l
  rw [hw]
  exact List.all_eq_true.mp hfits

theorem wireWidth_le {l : List (BitVec 128)} {w : Nat} (hw : 1 ≤ w) (h : ∀ x ∈ l, fitsBytes w x = true) : wireWidth l ≤ w := by
  obtain ⟨i, -, hi, -, hleast⟩ := exists_wireWidth_eq l
  by_contra hlt
  have hnot := hleast (w - 1) (by omega)
  rw [Nat.sub_add_cancel hw, List.all_eq_true.mpr h] at hnot
  cases hnot

theorem wireWidth_pos (l : List (BitVec 128)) : 1 ≤ wireWidth l := by
  obtain ⟨i, -, hi, -⟩ := exists_wireWidth_eq l
  omega

theorem wireWidth_le_sixteen (l : List (BitVec 128)) : wireWidth l ≤ 16 :=
  wireWidth_le (by omega) fun x _ => fitsBytes_sixteen x

/-! ## One group -/

/-- The bytes of elements at `w` bytes each. -/
def elemBytes (w : Nat) (g : List (BitVec 128)) : List Byte := g.flatMap fun x => leBytes w x.toNat

theorem elemBytes_length (w : Nat) (g : List (BitVec 128)) : (elemBytes w g).length = w * g.length := by
  induction g with
  | nil => rfl
  | cons x g ih =>
    rw [elemBytes, List.flatMap_cons, List.length_append, leBytes_length, ← elemBytes, ih, List.length_cons, Nat.mul_succ,
      Nat.add_comm]

/-- The bytes of the element at a place. -/
theorem slice_elemBytes (w : Nat) (g : List (BitVec 128)) (rest : List Byte) {i : Nat} (hi : i < g.length) :
    slice (elemBytes w g ++ rest) (w * i) w = leBytes w g[i].toNat := by
  have hsplit : g = g.take i ++ (g[i] :: g.drop (i + 1)) := by rw [List.getElem_cons_drop, List.take_append_drop]
  have hbytes : elemBytes w g ++ rest =
      elemBytes w (g.take i) ++ (leBytes w g[i].toNat ++ (elemBytes w (g.drop (i + 1)) ++ rest)) := by
    conv_lhs => rw [hsplit]
    simp only [elemBytes, List.flatMap_append, List.flatMap_cons, List.append_assoc]
  rw [hbytes]
  refine slice_mid _ _ _ _ _ ?_ (leBytes_length ..)
  rw [elemBytes_length, List.length_take, Nat.min_eq_left hi.le]

/-- Reading the elements of a group that fits its width gives them back. -/
theorem readGroup_elemBytes {w : Nat} {g : List (BitVec 128)} (hlen : g.length = 16) (hfits : ∀ x ∈ g, fitsBytes w x = true)
    (rest : List Byte) :
    ((List.range 16).map fun i => (BitVec.ofNat (8 * w) (leAt (elemBytes w g ++ rest) (w * i) w)).signExtend 128) = g := by
  apply List.ext_getElem (by simp [hlen])
  intro i h1 h2
  have hmod : BitVec.ofNat (8 * w) (g[i].toNat % 2 ^ (8 * w)) = g[i].setWidth (8 * w) := by
    apply BitVec.eq_of_toNat_eq
    rw [BitVec.toNat_ofNat, BitVec.toNat_setWidth, Nat.mod_mod]
  rw [List.getElem_map, List.getElem_range, leAt, slice_elemBytes w g rest h2, ofLe_leBytes, hmod]
  exact eq_of_beq (hfits g[i] (List.getElem_mem h2))

/-- A group of 16 elements that fit its width, with what follows it, is read as its elements and what follows. -/
theorem wireRead_group {w n : Nat} {g : List (BitVec 128)} (hlen : g.length = 16) (hmin : 1 ≤ w) (hmax : w ≤ 16)
    (hfits : ∀ x ∈ g, fitsBytes w x = true) (rest : List Byte) :
    wireRead (n + 1) (BitVec.ofNat 8 w :: (elemBytes w g ++ rest)) = (wireRead n rest).map (g ++ ·) := by
  have hw : (BitVec.ofNat 8 w).toNat = w := by rw [BitVec.toNat_ofNat]; omega
  have hbytes : (elemBytes w g).length = 16 * w := by rw [elemBytes_length, hlen, Nat.mul_comm]
  have hok : ¬ (w < 1 ∨ 16 < w ∨ (elemBytes w g ++ rest).length < 16 * w) := by
    rw [List.length_append, hbytes]
    omega
  rw [wireRead]
  dsimp only
  rw [hw, if_neg hok, readGroup_elemBytes hlen hfits, List.drop_left' hbytes]

/-! ## A list of groups -/

/-- The first group of a list, filled with zero elements. -/
def firstGroup (l : List (BitVec 128)) : List (BitVec 128) := l.take 16 ++ List.replicate (16 - l.length) 0

theorem firstGroup_length (l : List (BitVec 128)) : (firstGroup l).length = 16 := by
  rw [firstGroup, List.length_append, List.length_take, List.length_replicate]
  omega

theorem wireOf_succ (k : Nat) {l : List (BitVec 128)} (h : l ≠ []) :
    wireOf (k + 1) l = BitVec.ofNat 8 (wireWidth (firstGroup l)) ::
      (elemBytes (wireWidth (firstGroup l)) (firstGroup l) ++ wireOf k (l.drop 16)) := by
  simp only [wireOf, List.isEmpty_iff, if_neg h, List.cons_append, List.nil_append, firstGroup, elemBytes]

/-- The elements with the zero elements that fill the last group. -/
def filled (l : List (BitVec 128)) : List (BitVec 128) := l ++ List.replicate ((16 - l.length % 16) % 16) 0

theorem firstGroup_append_filled {l : List (BitVec 128)} (h : l ≠ []) : firstGroup l ++ filled (l.drop 16) = filled l := by
  have hpos := List.length_pos_iff.mpr h
  unfold firstGroup filled
  by_cases hlong : 16 ≤ l.length
  · have hmod : (l.length - 16) % 16 = l.length % 16 := (Nat.mod_eq_sub_mod hlong).symm
    rw [Nat.sub_eq_zero_of_le hlong, List.replicate_zero, List.append_nil, ← List.append_assoc, List.take_append_drop,
      List.length_drop, hmod]
  · have hfill : (16 - l.length % 16) % 16 = 16 - l.length := by omega
    rw [List.drop_eq_nil_of_le (by omega), List.take_of_length_le (by omega), hfill]
    simp

theorem wireRead_nil (n : Nat) : wireRead n [] = some [] := by cases n <;> rfl

/-- Wire form of enough groups reads back, with as many steps as it has bytes. -/
theorem wireRead_wireOf (k : Nat) {l : List (BitVec 128)} (hk : l.length ≤ 16 * k) {n : Nat} (hn : (wireOf k l).length ≤ n) :
    wireRead n (wireOf k l) = some (filled l) := by
  induction k generalizing l n with
  | zero =>
    obtain rfl : l = [] := List.length_eq_zero_iff.mp (by omega)
    exact wireRead_nil n
  | succ k ih =>
    by_cases hl : l = []
    · subst hl
      exact wireRead_nil n
    · rw [wireOf_succ k hl] at hn ⊢
      rw [List.length_cons, List.length_append] at hn
      obtain ⟨m, rfl⟩ : ∃ m, n = m + 1 := ⟨n - 1, by omega⟩
      rw [wireRead_group (firstGroup_length l) (wireWidth_pos _) (wireWidth_le_sixteen _) (wireWidth_fits _),
        ih (by rw [List.length_drop]; omega) (by omega), Option.map_some, firstGroup_append_filled hl]

/-! ## The statement -/

/-- Settles O20: the width of a group by its search, and the round trip by induction on the groups. -/
theorem wireForm : Obligations.WireForm := by
  unfold Obligations.WireForm
  intro l
  have hfits : ∀ w, (∀ x ∈ l, (x.setWidth (8 * w)).signExtend 128 = x) ↔ ∀ x ∈ l, fitsBytes w x = true := by
    simp only [fitsBytes, beq_iff_eq, implies_true]
  refine ⟨⟨wireWidth_pos l, wireWidth_le_sixteen l, (hfits _).mpr (wireWidth_fits l), fun w hw h => wireWidth_le hw ((hfits w).mp h)⟩,
    wireRead_wireOf _ (by omega) le_rfl⟩

end Sys2Proof.Machine
end

section
/-!
PROOF. The update of an element of a QUANTISED record (R181): the second moment, the first moment and the master of one element.
-/

namespace Sys2Proof.Machine

theorem getElem?_zip_some {α β : Type} {l : List α} {l' : List β} {i : Nat} {a : α} {b : β} (ha : l[i]? = some a)
    (hb : l'[i]? = some b) : (l.zip l')[i]? = some (a, b) := List.getElem?_zip_eq_some.mpr ⟨ha, hb⟩

/-- The second moment of an element comes from its code, its block's maximum and its squared gradient. -/
theorem quantised_getElem? {r : TRec} {beta2 omb2 : Word32} {sq : List Word32} {x : OptState} {i code : Nat} {y : Word32}
    (hi : i < r.count) (hcode : x.v1[i]? = some code) (hsq : sq[i]? = some y) :
    (quantised r beta2 omb2 sq x).1[i]? = some (ffma beta2
      (fmul (at32 x.v2.toArray (i / 32)) (fmul (fdiv (fnat code) (fnat 255)) (fdiv (fnat code) (fnat 255)))) (fmul omb2 y)) := by
  have hzip : ((List.range r.count).zip (x.v1.zip sq))[i]? = some (i, code, y) :=
    getElem?_zip_some (List.getElem?_range hi) (getElem?_zip_some hcode hsq)
  simp only [quantised, List.getElem?_map, hzip, Option.map_some]

/-- The first moments of a record after its update, before they are rounded. -/
def TRec.moments (r : TRec) (h : List Byte) (g : List Word32) (x : OptState) : List Word32 :=
  if r.mEn then (g.zip x.m).map fun e =>
    ffma (hyperAt h r.hyper 1) (widenBf e.2) (fmul (hyperAt h r.hyper 2) e.1) else []

/-- What divides by the root of the second moment: the corrected first moment, or the gradient. -/
def TRec.numerators (r : TRec) (h : List Byte) (g : List Word32) (x : OptState) : List Word32 :=
  if r.mEn then (r.moments h g x).map fun e => fmul e (hyperAt h r.hyper 9) else g

/-- The new master of an element from its old one, its numerator and its second moment. -/
def TRec.master (r : TRec) (h : List Byte) (k : Nat) (p n v : Word32) : Word32 :=
  ffma (fmul (hyperAt h r.hyper 0) (scale2 k) ^^^ 0x80000000)
    (ffma (hyperAt h r.hyper 7) p
      (fdiv n (fadd (fsqrt (fmul v (hyperAt h r.hyper 10))) (hyperAt h r.hyper 5)))) p

/-- The update of a QUANTISED record, by its parts. -/
theorem optUpdate_quantised {r : TRec} {h : List Byte} {k : Nat} {g : List Word32} {x : OptState} (hq : r.quant = true) :
    optUpdate r h k g x =
      { (quantised r (hyperAt h r.hyper 3) (hyperAt h r.hyper 4) (g.map fun y => ffma y y (hyperAt h r.hyper 6)) x).2 with
        p := (x.p.zip ((r.numerators h g x).zip (quantised r (hyperAt h r.hyper 3) (hyperAt h r.hyper 4)
          (g.map fun y => ffma y y (hyperAt h r.hyper 6)) x).1)).map fun e => r.master h k e.1 e.2.1 e.2.2
        m := (r.moments h g x).map toBf } := by
  simp only [optUpdate, hq, if_true, TRec.numerators, TRec.moments, TRec.master]

section Element

variable {r : TRec} {h : List Byte} {g : List Word32} {x : OptState} {i : Nat} {gi : Word32} (hg : g[i]? = some gi)

include hg

theorem TRec.moments_getElem? (hen : r.mEn = true) (hm : i < x.m.length) :
    (r.moments h g x)[i]? =
      some (ffma (hyperAt h r.hyper 1) (widenBf (x.m.getD i 0)) (fmul (hyperAt h r.hyper 2) gi)) := by
  have hzip : (g.zip x.m)[i]? = some (gi, x.m.getD i 0) :=
    getElem?_zip_some hg (by rw [List.getElem?_eq_getElem hm, List.getD_eq_getElem _ _ hm])
  rw [TRec.moments, if_pos hen, List.getElem?_map, hzip, Option.map_some]

theorem TRec.numerators_getElem? (hm : r.mEn = true → i < x.m.length) :
    (r.numerators h g x)[i]? = some (if r.mEn then
      fmul (ffma (hyperAt h r.hyper 1) (widenBf (x.m.getD i 0)) (fmul (hyperAt h r.hyper 2) gi)) (hyperAt h r.hyper 9)
      else gi) := by
  unfold TRec.numerators
  split
  · next hen => rw [List.getElem?_map, TRec.moments_getElem? hg hen (hm hen), Option.map_some]
  · exact hg

end Element

theorem quantised_v1_length (r : TRec) (beta2 omb2 : Word32) (sq : List Word32) (x : OptState) :
    (quantised r beta2 omb2 sq x).2.v1.length = r.count := by
  simp only [quantised, List.length_map, List.length_range]

/-- Settles O22: each plane of the updated record at the element is its own part's entry there. -/
theorem optimiserUpdate : Obligations.OptimiserUpdate := by
  unfold Obligations.OptimiserUpdate
  intro r h k g x i p gi code hq hgl hpl hvl hml hi hp hg hcode
  have hm : r.mEn = true → i < x.m.length := fun hen => by rw [hml hen]; exact hi
  have hsq : (g.map fun y => ffma y y (hyperAt h r.hyper 6))[i]? = some (ffma gi gi (hyperAt h r.hyper 6)) := by
    rw [List.getElem?_map, hg, Option.map_some]
  rw [optUpdate_quantised hq]
  refine ⟨?master, fun hen => ?moment, quantised_v1_length ..⟩
  case master =>
    have hzip := getElem?_zip_some hp (getElem?_zip_some (TRec.numerators_getElem? (h := h) hg hm)
      (quantised_getElem? (beta2 := hyperAt h r.hyper 3) (omb2 := hyperAt h r.hyper 4) hi hcode hsq))
    rw [List.getElem?_map, hzip, Option.map_some]
    rfl
  case moment => rw [List.getElem?_map, TRec.moments_getElem? hg hen (hm hen), Option.map_some]

end Sys2Proof.Machine
end

section
/-!
PROOF. What the shared operations leave alone: reporting (raising a condition, marking an error, counting, journaling) touches
registers, interrupt messages and the journal's queue; the replacement flag the health epoch and the state of the device beside them;
the ports' way DOWN the ports beside them.
-/

namespace Sys2Proof.Machine

/-- What every step of a fold keeps, the fold keeps. -/
theorem foldl_keeps {α β σ : Type} (g : σ → β) {f : σ → α → σ} (hf : ∀ s x, g (f s x) = g s) (l : List α) (s : σ) :
    g (l.foldl f s) = g s := by
  induction l generalizing s with
  | nil => rfl
  | cons x l ih => rw [List.foldl_cons, ih, hf]

/-- A relation that each step of a fold stands in holds between its ends. -/
theorem foldl_related {α σ : Type} {R : σ → σ → Prop} (hrefl : ∀ s, R s s) (htrans : ∀ {s t u}, R s t → R t u → R s u)
    {f : σ → α → σ} (hf : ∀ s x, R s (f s x)) (l : List α) (s : σ) : R s (l.foldl f s) := by
  induction l generalizing s with
  | nil => exact hrefl s
  | cons x l ih => exact htrans (hf s x) (ih _)

/-! ## Reporting -/

/-- Between the two states something has been reported, and nothing else has happened. -/
def Reports (s t : State) : Prop := ∃ r e m g, t = { s with regs := r, egress := e, msixPend := m, mgt := g }

namespace Reports

theorem refl (s : State) : Reports s s := ⟨_, _, _, _, rfl⟩

theorem trans {s t u : State} (h : Reports s t) (k : Reports t u) : Reports s u := by
  obtain ⟨r, e, m, g, rfl⟩ := h
  obtain ⟨r', e', m', g', rfl⟩ := k
  exact ⟨r', e', m', g', rfl⟩

theorem ite {s t u : State} {c : Prop} [Decidable c] (h : Reports s t) (k : Reports s u) : Reports s (if c then t else u) := by
  split
  · exact h
  · exact k

theorem foldl {α : Type} {f : State → α → State} (hf : ∀ s x, Reports s (f s x)) (l : List α) (s : State) :
    Reports s (l.foldl f s) := foldl_related refl trans hf l s

end Reports

theorem State.latchInt_reports (s : State) (f : Nat) (b : Blk) (i m t : Nat) : Reports s (s.latchInt f b i m t) := by
  obtain ⟨r, e, p, h⟩ := s.latchInt_keeps f b i m t
  exact ⟨r, e, p, s.mgt, h⟩

theorem State.raise_reports (s : State) (b : Blk) (i n p : Nat) : Reports s (s.raise b i n p) := by
  obtain ⟨r, e, m, h⟩ := s.raise_keeps b i n p
  exact ⟨r, e, m, s.mgt, h⟩

theorem State.errBit_reports (s : State) (b : Blk) (i n p : Nat) : Reports s (s.errBit b i n p) := by
  obtain ⟨r, h⟩ := s.errBit_keeps b i n p
  exact ⟨r, s.egress, s.msixPend, s.mgt, h⟩

theorem State.setReg_reports (s : State) (f : Nat) (b : Blk) (i o r v : Nat) : Reports s (s.setReg f b i o r v) :=
  ⟨_, s.egress, s.msixPend, s.mgt, rfl⟩

theorem State.bump_reports (s : State) (f : Nat) (b : Blk) (i o n : Nat) : Reports s (s.bump f b i o n) :=
  s.setReg_reports ..

theorem State.event_reports (s : State) (c x d : Nat) : Reports s (s.event c x d) := by
  obtain ⟨q, r, h⟩ := s.event_keeps c x d
  exact ⟨r, s.egress, s.msixPend, _, h⟩

theorem State.journal_reports (s : State) (ty : RecType) (k : Nat) (l : List Byte) : Reports s (s.journal ty k l) := by
  obtain ⟨q, h⟩ := s.journal_keeps ty k l
  exact ⟨s.regs, s.egress, s.msixPend, _, h⟩

theorem State.journalHealth_reports (s : State) (q : Nat) : Reports s (s.journalHealth q) := s.journal_reports ..

theorem State.maintRise_reports (old s : State) : Reports s (State.maintRise old s) := by
  unfold State.maintRise
  exact (Reports.ite (s.raise_reports ..) (.refl s)).trans (.ite (State.raise_reports _ ..) (.refl _))

/-! ## The replacement flag (R285, R287, R487) -/

theorem State.burnEpoch_keeps (s : State) : ∃ x, s.burnEpoch = { s with sec := x } := by
  unfold State.burnEpoch
  split
  · exact ⟨s.sec, rfl⟩
  · exact ⟨_, rfl⟩

theorem State.evacuate_keeps (s : State) : ∃ p, s.evacuate = { s with pwr := p } := by
  unfold State.evacuate
  split
  · exact ⟨_, rfl⟩
  · exact ⟨s.pwr, rfl⟩

/-- The replacement flag reports, burns the health epoch and moves the state of the device. -/
theorem State.setReplace_keeps (s : State) :
    ∃ r e m g x p, s.setReplace = { s with regs := r, egress := e, msixPend := m, mgt := g, sec := x, pwr := p } := by
  unfold State.setReplace
  dsimp only
  split
  · obtain ⟨p, hp⟩ := s.evacuate_keeps
    exact ⟨s.regs, s.egress, s.msixPend, s.mgt, s.sec, p, hp⟩
  · obtain ⟨x, hx⟩ := State.burnEpoch_keeps { s with mgt := { s.mgt with replace := true } }
    rw [hx]
    obtain ⟨r, e, m, g, hr⟩ := (Reports.foldl State.journalHealth_reports (List.range 4)
      { s with mgt := { s.mgt with replace := true }, sec := x }).trans (State.maintRise_reports s _)
    rw [hr]
    obtain ⟨p, hp⟩ := State.evacuate_keeps { s with regs := r, egress := e, msixPend := m, mgt := g, sec := x }
    exact ⟨r, e, m, g, x, p, hp⟩

/-! ## Ports on their way (R393, R417, R418) -/

/-- Between the two states ports have moved, which is reported, and nothing else has happened. -/
def PortsMove (s t : State) : Prop :=
  ∃ ps r e m g, t = { s with ports := ps, regs := r, egress := e, msixPend := m, mgt := g }

namespace PortsMove

theorem refl (s : State) : PortsMove s s := ⟨_, _, _, _, _, rfl⟩

theorem trans {s t u : State} (h : PortsMove s t) (k : PortsMove t u) : PortsMove s u := by
  obtain ⟨ps, r, e, m, g, rfl⟩ := h
  obtain ⟨ps', r', e', m', g', rfl⟩ := k
  exact ⟨ps', r', e', m', g', rfl⟩

theorem of_reports {s t : State} (h : Reports s t) : PortsMove s t := by
  obtain ⟨r, e, m, g, rfl⟩ := h
  exact ⟨s.ports, r, e, m, g, rfl⟩

end PortsMove

theorem Reports.port {s t : State} (h : Reports s t) (p : Nat) : t.port p = s.port p := by
  obtain ⟨r, e, m, g, rfl⟩ := h
  rfl

theorem State.setPort_moves (s : State) (p : Nat) (x : Port) : PortsMove s (s.setPort p x) :=
  ⟨_, s.regs, s.egress, s.msixPend, s.mgt, rfl⟩

/-- A change of a port's state stores the port and reports. -/
theorem State.portTo_spec (s : State) (p : Nat) (ns : PortState) (reason : Nat) :
    ∃ x, x.state = ns ∧ Reports (s.setPort p x) (s.portTo p ns reason) := by
  unfold State.portTo
  dsimp only
  split
  · next h =>
    refine ⟨_, ?_, .refl _⟩
    exact h
  · refine ⟨_, ?_, .ite ((State.raise_reports _ ..).trans (State.raise_reports _ ..)) (State.raise_reports _ ..)⟩
    rfl

theorem State.portTo_moves (s : State) (p : Nat) (ns : PortState) (reason : Nat) : PortsMove s (s.portTo p ns reason) := by
  obtain ⟨x, -, h⟩ := s.portTo_spec p ns reason
  exact (s.setPort_moves p x).trans (.of_reports h)

theorem State.portTo_port_ne (s : State) {p q : Nat} (ns : PortState) (reason : Nat) (h : q ≠ p) :
    (s.portTo p ns reason).port q = s.port q := by
  obtain ⟨x, -, hr⟩ := s.portTo_spec p ns reason
  rw [hr.port, State.setPort_ne _ _ _ h]

theorem State.portsDown_moves (s : State) (reason : Nat) : PortsMove s (s.portsDown reason) :=
  foldl_related .refl .trans (fun s p => (s.portTo_moves p .down reason).trans (State.setPort_moves _ ..)) _ s

/-- After the first `n` ports went DOWN they are DOWN. -/
theorem State.portsDown_prefix (s : State) (reason n : Nat) {q : Nat} (hq : q < n) :
    (((List.range n).foldl (fun t p =>
      let t := t.portTo p .down reason
      t.setPort p (t.port p).dropped) s).port q).state = .down := by
  induction n with
  | zero => omega
  | succ n ih =>
    rw [List.range_succ, List.foldl_append, List.foldl_cons, List.foldl_nil]
    by_cases h : q = n
    · subst h
      rw [State.setPort_same]
      obtain ⟨x, hx, hr⟩ := State.portTo_spec ((List.range q).foldl (fun t p =>
        let t := t.portTo p .down reason
        t.setPort p (t.port p).dropped) s) q .down reason
      rw [hr.port, State.setPort_same, ← hx]
      rfl
    · rw [State.setPort_ne _ _ _ h, State.portTo_port_ne _ _ _ h]
      exact ih (by omega)

theorem State.portsDown_down (s : State) (reason : Nat) {q : Nat} (hq : q < 8) : ((s.portsDown reason).port q).state = .down :=
  s.portsDown_prefix reason 8 hq

end Sys2Proof.Machine
end

section
/-!
PROOF. What a Seal halt leaves (R266), what a finding does to a cluster (R286, R287), the plan check in fixed mode (R401) and the
checks of KEY_GEN (R434, R442, R451, R452).
-/

namespace Sys2Proof.Machine

/-! ## A Seal halt (R266) -/

/-- The state that a Seal halt enters. -/
def State.halting (s : State) : State := { s with pwr := { s.pwr with state := .halted, sealHalt := true, haltN := true } }

/-- The halt frames that the ports that are UP send. -/
def State.haltFrames (s : State) : State :=
  (List.range 8).foldl (fun (t : State) p =>
    if (t.port p).state = .up then t.say (.haltFrame (BitVec.ofNat 3 p)) else t) s

/-- The cause of a Seal halt, as it is recorded. -/
def State.withCause (s : State) (h : HaltAt) : State :=
  { s with halt := some { cause := BitVec.ofNat 16 (haltCode h.cause), stack := h.stack, level := h.level, loc := h.loc,
                          line := h.line } }

theorem State.haltFrames_pwr (s : State) : s.haltFrames.pwr = s.pwr := by
  refine foldl_keeps State.pwr (fun s p => ?_) _ s
  split <;> rfl

theorem State.portsDown_pwr (s : State) (reason : Nat) : (s.portsDown reason).pwr = s.pwr := by
  obtain ⟨ps, r, e, m, g, h⟩ := s.portsDown_moves reason
  rw [h]

/-- A Seal halt stops and clears a state with its ports DOWN, records the cause and reports it. -/
theorem State.sealHaltNow_reports {s : State} (h : HaltAt) (hs : s.pwr.state ≠ .halted) :
    Reports ((s.halting.haltFrames.portsDown 10).stopAndClear.withCause h) (s.sealHaltNow h) := by
  have heq : s.sealHaltNow h = State.event (State.raise ((s.halting.haltFrames.portsDown 10).stopAndClear.withCause h)
      .seal h.stack.toNat 1 63) evHalt (haltCode h.cause)
      (h.stack.toNat * 2 ^ 32 + h.level.toNat * 2 ^ 28 + h.loc.toNat * 2 ^ 24 + h.line.toNat) := if_neg hs
  rw [heq]
  exact (State.raise_reports _ ..).trans (State.event_reports _ ..)

/-- Settles O34: the clearing of points 1 to 4 and the recorded cause, over a state whose ports are DOWN. -/
theorem sealHaltEffect : Obligations.SealHaltEffect := by
  unfold Obligations.SealHaltEffect
  intro s h
  refine ⟨fun hs => if_pos hs, fun hs => ?_⟩
  have hpwr : (s.halting.haltFrames.portsDown 10).pwr = s.halting.pwr := by
    rw [State.portsDown_pwr, State.haltFrames_pwr]
  have hports : ∀ p, p < 8 → ((s.halting.haltFrames.portsDown 10).port p).state = .down :=
    fun p hp => State.portsDown_down _ 10 hp
  obtain ⟨r, e, m, g, ht⟩ := State.sealHaltNow_reports h hs
  generalize s.halting.haltFrames.portsDown 10 = u at hpwr hports ht
  rw [ht]
  refine ⟨congrArg _ hpwr, congrArg _ hpwr, congrArg _ hpwr, ?dispatch, rfl, rfl, rfl, rfl, rfl, rfl, rfl, ?kids, ?chans,
    hports, rfl⟩
  case dispatch =>
    have hstate : u.pwr.state = .halted := congrArg _ hpwr
    simp [State.dispatches, State.withCause, State.stopAndClear, hstate]
  case kids =>
    intro e he
    obtain ⟨k, -, rfl⟩ := List.mem_map.mp he
    exact ⟨rfl, rfl⟩
  case chans =>
    intro e he
    obtain ⟨k, -, rfl⟩ := List.mem_map.mp he
    rfl

/-! ## Findings (R286, R287) -/

/-- The health of a cluster after a finding. -/
def Cluster.healthFound (k : Cluster) (span : Nat) : Health :=
  match k.health with
  | .normal => if k.hours.toNat < span then .confirmed else .suspect
  | _ => .confirmed

/-- The state in which a finding has been counted and recorded, before it is reported. -/
def State.found (s : State) (cl kind ctx part id : Nat) : State :=
  { s.setCluster cl { s.cluster cl with
      health := (s.cluster cl).healthFound (max 1 (bits s.prfCtrl 7 0)), hours := 0, sampled := 0
      findings := BitVec.ofNat 8 (min 255 ((s.cluster cl).findings.toNat + 1)) } with
    prfLast := { kind := BitVec.ofNat 2 kind, cl := BitVec.ofNat 7 cl, ctx := BitVec.ofNat 12 ctx,
                 part := BitVec.ofNat 6 part, id := BitVec.ofNat 64 id } }

/-- The reports of a finding, and the replacement flag that a confirmed one sets, change neither a cluster nor PRF_LAST. -/
theorem findingReports_keep (u : State) (cl kind ctx : Nat) (suspect confirmed : Prop) [Decidable suspect] [Decidable confirmed] :
    let w := State.journalHealth (if suspect then (u.event evFinding kind (cl * 2 ^ 32 + ctx)).raise .prf (cl / 32) 3 63
      else u.event evFinding kind (cl * 2 ^ 32 + ctx)) (cl / 32)
    let v := if confirmed then ((w.errBit .prf (cl / 32) 3 63).raise .prf (cl / 32) 4 63).setReplace else w
    v.clusters = u.clusters ∧ v.prfLast = u.prfLast := by
  intro w v
  have hw : Reports u w := ((u.event_reports ..).trans (.ite (State.raise_reports _ ..) (.refl _))).trans
    (State.journalHealth_reports _ _)
  by_cases hc : confirmed
  · have hv : v = ((w.errBit .prf (cl / 32) 3 63).raise .prf (cl / 32) 4 63).setReplace := if_pos hc
    obtain ⟨r, e, m, g, h⟩ := (hw.trans (State.errBit_reports _ .prf (cl / 32) 3 63)).trans
      (State.raise_reports _ .prf (cl / 32) 4 63)
    rw [hv, h]
    obtain ⟨r', e', m', g', x, p, h'⟩ := State.setReplace_keeps _
    rw [h']
    exact ⟨rfl, rfl⟩
  · obtain ⟨r, e, m, g, h⟩ := hw
    simp only [v, if_neg hc, h, and_self]

theorem State.finding_spec (s : State) (cl kind ctx part id : Nat) :
    (s.finding cl kind ctx part id).clusters = (s.found cl kind ctx part id).clusters ∧
      (s.finding cl kind ctx part id).prfLast = (s.found cl kind ctx part id).prfLast :=
  findingReports_keep (s.found cl kind ctx part id) cl kind ctx _ _

/-- Settles O38: what a finding stores, read off its spec lemma. -/
theorem findings : Obligations.Findings := by
  unfold Obligations.Findings
  intro s cl kind ctx part id _
  obtain ⟨hclusters, hlast⟩ := s.finding_spec cl kind ctx part id
  have hcluster : (s.finding cl kind ctx part id).cluster cl = { s.cluster cl with
      health := (s.cluster cl).healthFound (max 1 (bits s.prfCtrl 7 0)), hours := 0, sampled := 0
      findings := BitVec.ofNat 8 (min 255 ((s.cluster cl).findings.toNat + 1)) } := by
    rw [State.cluster, hclusters]
    exact State.setCluster_same ..
  dsimp only
  rw [hcluster]
  refine ⟨fun hn hold => ?_, fun hn hnew => ?_, fun hn => ?_, rfl, rfl, rfl, hlast⟩
  · simp only [Cluster.healthFound, hn, if_neg (Nat.not_lt.mpr hold)]
  · simp only [Cluster.healthFound, hn, if_pos hnew]
  · unfold Cluster.healthFound
    split
    · next h => exact absurd h hn
    · rfl

/-! ## The plan check in fixed mode (R401) -/

/-- What a port passes in fixed mode: its role is its own. -/
theorem State.torusCheck_fixed {s : State} {p r : Nat} (hfixed : s.planAt 6 1 % 2 = 0) (h : s.torusCheck p = .inr r) :
    r = p ∧ (s.port p).planId.toNat = s.planAt 8 8 ∧ s.nbrPresent p = true ∧ s.isNbr (s.port p) p = true ∧
      s.nbr p 10 1 = (s.port p).peerPort.toNat ∧ ((s.port p).peerRole = 0xFF ∨ (s.port p).peerRole.toNat = opposite p) := by
  unfold State.torusCheck at h
  dsimp only at h
  split_ifs at h with hplan hpresent hpartner hrole hopen
  · cases h
    obtain ⟨hnbr, hport⟩ := Bool.and_eq_true_iff.mp hpartner
    exact ⟨rfl, not_not.mp hplan, by simpa using hpresent, hnbr, by simpa using hport, by simpa using hrole⟩
  · omega

/-- Settles O43: in fixed mode the check passes only in the branch of the port's own entry. -/
theorem planCheckFixed : Obligations.PlanCheckFixed := by
  unfold Obligations.PlanCheckFixed
  intro s p r _ hfixed h
  obtain ⟨hr, hplan, hpresent, hnbr, hport, hrole⟩ := State.torusCheck_fixed hfixed h
  simp only [State.isNbr, Bool.and_eq_true, beq_iff_eq] at hnbr
  obtain ⟨⟨-, hserial⟩, hdev⟩ := hnbr
  exact ⟨hr, hplan, hpresent, hserial, hdev, hport, hrole⟩

/-! ## KEY_GEN (R434, R442, R451, R452) -/

theorem maskOk_reserved {m : Nat} (h : maskOk m = true) : bits m 31 28 = 0 ∧ bits m 17 16 < 2 := by
  simp only [maskOk, Bool.and_eq_true, beq_iff_eq, decide_eq_true_eq] at h
  obtain ⟨⟨⟨htop, -⟩, -⟩, hworld⟩ := h
  exact ⟨htop, hworld⟩

/-- A blob has 128 bytes, and forming it only draws from the generator. -/
theorem State.makeBlob_spec (s : State) (type part kid mask : Nat) (dig28 secret : List Byte) :
    (s.makeBlob type part kid mask dig28 secret).1.length = 128 ∧
      (s.makeBlob type part kid mask dig28 secret).2 = { s with freeCtr := s.freeCtr + 1 } := by
  refine ⟨?_, rfl⟩
  simp [State.makeBlob, State.draw]

/-- The checks that a KEY_GEN request has passed when it is done. -/
theorem keyGenOp_done {s t : State} {r : List Byte} {n : Nat} {b : List Byte} (h : keyGenOp s r = .done n b t) :
    (8 ≤ r.length ∧ maskOk (leAt r 4 4) = true ∧ bits (leAt r 4 4) 17 16 ≠ 1 ∧ s.lifeIn [1, 2, 3, 4] = true ∧
      s.mbActive (leAt r 0 1) = true ∧ s.mbBound (leAt r 0 1) (leAt r 2 2) = true) ∧
      n = 0 ∧ b.length = 128 ∧ ∃ k, t = { s with freeCtr := k } := by
  unfold keyGenOp at h
  dsimp only at h
  split_ifs at h with hform hlife hbound
  simp only [not_or, Nat.not_lt, Bool.not_eq_true, Bool.not_eq_false'] at hform hlife hbound
  obtain ⟨hlen, -, hmask, hworld⟩ := hform
  simp only [MbEnd.done.injEq] at h
  obtain ⟨hn, hb, ht⟩ := h
  obtain ⟨hblob, hstate⟩ := s.draw.2.makeBlob_spec 1 (leAt r 0 1) (leAt r 2 2) (leAt r 4 4) [] (leBytes 32 s.draw.1.toNat)
  exact ⟨⟨hlen, hmask, hworld, hlife, hbound⟩, hn.symm, by rw [← hb]; exact hblob, _, by rw [← ht, hstate]; rfl⟩

/-- Settles O47: the checks that precede a blob, and the blob's length and draws. -/
theorem keyGenChecks : Obligations.KeyGenChecks := by
  unfold Obligations.KeyGenChecks
  intro s r n b t h
  obtain ⟨⟨hlen, hmask, hworld, hlife, hactive, hbound⟩, hn, hb, ht⟩ := keyGenOp_done h
  obtain ⟨htop, hworld2⟩ := maskOk_reserved hmask
  simp only [State.mbActive, Bool.and_eq_true, decide_eq_true_eq] at hactive
  simp only [State.mbBound, Bool.and_eq_true, decide_eq_true_eq, beq_iff_eq] at hbound
  exact ⟨hn, hb, hlen, List.contains_iff_mem.mp hlife, hactive.2, hbound.1, hbound.2, htop, by omega, ht⟩

end Sys2Proof.Machine
end

section
/-!
PROOF. Registers. Cells of the register table are kept apart by an injective key; a function whose TDI does not run and a page that
the device state hides never reach a register (R43, R267, R314, R468); reads and writes of what is reached (R9, R33 to R35, R40, R42).
-/

namespace Sys2Proof.Machine

/-! ## Cells (R36, R521) -/

theorem Blk.num_lt (b : Blk) : b.num < 32 := by cases b <;> decide

theorem Blk.all_num (b : Blk) : Blk.all[b.num]? = some b := by cases b <;> rfl

theorem Blk.num_injective {b b' : Blk} (h : b.num = b'.num) : b = b' :=
  Option.some.inj (b.all_num ▸ h ▸ b'.all_num)

theorem regKey_injective {fn fn' i i' off off' : Nat} {b b' : Blk} (hi : i < 128) (hi' : i' < 128) (ho : off < 4096) (ho' : off' < 4096)
    (hm : off % 4 = 0) (hm' : off' % 4 = 0) (h : regKey fn b i off = regKey fn' b' i' off') :
    (fn, b, i, off) = (fn', b', i', off') := by
  have hb := b.num_lt
  have hb' := b'.num_lt
  unfold regKey at h
  obtain ⟨hf, hn, hinst, hoff⟩ : fn = fn' ∧ b.num = b'.num ∧ i = i' ∧ off = off' := by omega
  rw [hf, Blk.num_injective hn, hinst, hoff]

/-- Settles O56: the key of a cell is injective in the copy, the block, its number and the offset. -/
theorem registerCells : Obligations.RegisterCells := by
  unfold Obligations.RegisterCells
  intro s fn fn' b b' i i' off off' r r' v hi hi' ho ho' hm hm' hv hr
  refine ⟨s.setReg_same fn b i off hv hr, fun hne => s.setReg_ne fn b i off r v r' fun hkey => hne ?_⟩
  exact (regKey_injective hi' hi ho' ho hm' hm hkey).symm

/-! ## Lines (R255) -/

theorem tput_tget {α : Type} [DecidableEq α] (d : α) {t : Tab α} (h : Tab.wf d t = true) (k : Nat) : tput d t k (tget d t k) = t := by
  simp only [Tab.wf, Bool.and_eq_true, decide_eq_true_eq, List.all_eq_true] at h
  obtain ⟨hsorted, hval⟩ := h
  induction t with
  | nil => simp [tget, tput, tdel]
  | cons e t ih =>
    obtain ⟨a, v⟩ := e
    obtain ⟨hlt, hsorted⟩ := List.pairwise_cons.mp hsorted
    have hkeys : ∀ e ∈ t, a < e.1 := fun e he => hlt _ (List.mem_map_of_mem he)
    have ht := ih hsorted fun e he => hval e (List.mem_cons_of_mem _ he)
    have hdel : ∀ j, j ≤ a → tdel j t = t := fun j hj =>
      List.filter_eq_self.mpr fun e he => by simpa using Nat.ne_of_gt (Nat.lt_of_le_of_lt hj (hkeys e he))
    by_cases hka : a = k
    · subst hka
      have hv : v ≠ d := hval (a, v) (by simp)
      rw [tget, if_pos rfl, tput, if_neg hv, tdel_cons, if_pos rfl, hdel a (Nat.le_refl a)]
      cases t with
      | nil => rfl
      | cons e t =>
        obtain ⟨b, w⟩ := e
        rw [tins, if_pos (hkeys (b, w) (by simp))]
    · rw [tget, if_neg hka]
      unfold tput at ht ⊢
      rw [tdel_cons, if_neg hka]
      split at ht
      · next hd => rw [if_pos hd, ht]
      · next hd =>
        have hin : tget d t k ≠ d := hd
        have hak : ¬ k < a := fun hlt => hin (by
          have := tget_tdel_same d k t
          rwa [hdel k (Nat.le_of_lt hlt)] at this)
        rw [if_neg hd, tins, if_neg hak, ht]

/-- Settles O59: the laws of the sparse table. -/
theorem linesCanonical : Obligations.LinesCanonical := by
  unfold Obligations.LinesCanonical
  intro s lid l hwf
  refine ⟨tput_wf _ _ _ _ hwf, tget_tput_same .., fun k hk => tget_tput_ne _ _ hk l, ?_⟩
  unfold State.setLine State.line
  rw [tput_tget _ hwf]

/-! ## The queue and the reset -/

/-- Settles O57: the two cases of the queue. -/
theorem stepRunsTheCommand : Obligations.StepRunsTheCommand := by
  unfold Obligations.StepRunsTheCommand step
  intro s
  exact ⟨fun c rest h => by rw [h], fun h => by rw [h]⟩

/-- A register of a state that has stored none reads its reset value. -/
theorem State.reg_of_empty {s : State} (h : s.regs = []) (fn : Nat) (b : Blk) (i off r : Nat) : s.reg fn b i off r = r := by
  rw [State.reg, h]
  exact Nat.zero_xor r

/-- Settles O58: every table is empty after a power-on reset, so that each entry is its default. -/
theorem resetState : Obligations.ResetState := by
  unfold Obligations.ResetState
  have hreg := @State.reg_of_empty State.reset rfl
  refine ⟨rfl, fun _ => rfl, fun _ => rfl, fun _ => rfl, fun _ => rfl, fun _ => rfl, fun _ => rfl, fun _ => rfl, fun _ => rfl, rfl, rfl, rfl,
    rfl, rfl, rfl, rfl, rfl, fun _ => rfl, fun fn b inst off r h => ?_, fun b inst => hreg 0 b inst 0x10 _⟩
  rw [State.rw, h]
  exact hreg ..

/-! ## Disallowed accesses (R43) -/

theorem State.badAccess_reg (s : State) (fn : Nat) (w bar2 : Bool) (size off : Nat) :
    (s.badAccess fn w bar2 size off).reg 0 .dev 0 0x68 0 = min 0xFFFFFFFF (s.reg 0 .dev 0 0x68 0 + 1) := by
  have hbump : (s.bump 0 .dev 0 0x68 1).reg 0 .dev 0 0x68 0 = min 0xFFFFFFFF (s.reg 0 .dev 0 0x68 0 + 1) :=
    s.setReg_same 0 .dev 0 0x68 (by omega) (by decide)
  unfold State.badAccess
  dsimp only
  split
  · exact hbump
  · exact hbump

theorem State.badAccess_badacc_held {s : State} (h : s.badacc.valid = true) (fn : Nat) (w bar2 : Bool) (size off : Nat) :
    (s.badAccess fn w bar2 size off).badacc = s.badacc := by
  unfold State.badAccess
  dsimp only
  rw [if_pos (show (s.bump 0 .dev 0 0x68 1).badacc.valid = true from h)]
  rfl

theorem State.badAccess_badacc_first {s : State} (h : s.badacc.valid = false) (fn : Nat) (w bar2 : Bool) (size off : Nat) :
    (s.badAccess fn w bar2 size off).badacc =
      { valid := true, write := w, vf := fn != 0, part := if fn = 0 then 0x3F else BitVec.ofNat 6 (fn - 1)
        bar := if bar2 then 2 else 0, size := BitVec.ofNat 4 size, off := BitVec.ofNat 32 off } := by
  unfold State.badAccess
  dsimp only
  rw [if_neg (show ¬ (s.bump 0 .dev 0 0x68 1).badacc.valid = true from ne_true_of_eq_false h)]

theorem State.badAccess_valid (s : State) (fn : Nat) (w bar2 : Bool) (size off : Nat) :
    (s.badAccess fn w bar2 size off).badacc.valid = true := by
  cases h : s.badacc.valid with
  | true => rw [State.badAccess_badacc_held h, h]
  | false => rw [State.badAccess_badacc_first h]

/-! ## What is hidden (R267, R314, R468) -/

/-- An access that reaches a register reaches a page that answers. -/
theorem State.regGate_go {s : State} {fn : Nat} {b : Blk} {inst off : Nat} {w : Bool} (h : s.regGate fn b inst off w = .go) :
    s.fnOpen fn = true ∧ s.pageShown b = true := by
  have hgate : ∀ d p, s.gate fn b inst d p = .go → s.fnOpen fn = true ∧ s.pageShown b = true := by
    intro d p hg
    by_contra hno
    have hclosed : (!s.fnOpen fn || !s.pageShown b) = true := by
      rwa [← Bool.not_and, Bool.not_eq_true', Bool.eq_false_iff, Ne, Bool.and_eq_true]
    have hgate : ∀ c : Bool, (if c = true then Gate.bad else .zero) ≠ .go := by decide
    unfold State.gate at hg
    simp only [hclosed, if_true] at hg
    exact hgate _ hg
  unfold State.regGate at h
  split at h
  · split at h <;> cases h
  · next v _ =>
    split at h
    · cases h
    · split at h
      · cases h
      · exact hgate _ _ h

theorem State.fnOpen_of_tdi {s : State} {fn : Nat} (hfn : fn ≠ 0) (h : s.tdi (fn - 1) ≠ .run) : s.fnOpen fn = false := by
  simp [State.fnOpen, State.fnLive, hfn, h]

theorem State.fnOpen_of_halted {s : State} {fn : Nat} (hfn : fn ≠ 0) (h : s.pwr.state = .halted) : s.fnOpen fn = false := by
  simp [State.fnOpen, hfn, h]

/-- What reaches no register reads zero and leaves the state as it is. -/
theorem State.readWord_of_no_go {s : State} {fn off : Nat} (h : ∀ b i r, pageAt off = some (b, i, r) → s.regGate fn b i r false ≠ .go) :
    ∃ bad, s.readWord fn off = (0, bad, s) := by
  unfold State.readWord
  split
  · exact ⟨_, rfl⟩
  · next b i r hpage =>
    split
    · exact ⟨_, rfl⟩
    · exact ⟨_, rfl⟩
    · next hgo => exact absurd hgo (h b i r hpage)

theorem State.writeWord_of_no_go {s : State} {fn off : Nat} (v : Nat)
    (h : ∀ b i r, pageAt off = some (b, i, r) → s.regGate fn b i r true ≠ .go) : ∃ bad, s.writeWord fn off v = (bad, s) := by
  unfold State.writeWord
  split
  · exact ⟨_, rfl⟩
  · next b i r hpage =>
    split
    · exact ⟨_, rfl⟩
    · exact ⟨_, rfl⟩
    · next hgo => exact absurd hgo (h b i r hpage)

theorem State.regGate_of_closed {s : State} {fn : Nat} (h : s.fnOpen fn = false) (b : Blk) (i r : Nat) (w : Bool) :
    s.regGate fn b i r w ≠ .go := by
  intro hgo
  rw [(State.regGate_go hgo).1] at h
  cases h

theorem State.readOne_of_tdi {s : State} {fn : Nat} (hfn : fn ≠ 0) (h : s.tdi (fn - 1) ≠ .run) (bar2 : Bool) (off : Nat) :
    ∃ bad, s.readOne fn bar2 off = (0, bad, s) := by
  unfold State.readOne
  cases bar2 with
  | false => exact State.readWord_of_no_go fun b i r _ => State.regGate_of_closed (State.fnOpen_of_tdi hfn h) b i r false
  | true =>
    have hlive : s.barLive fn = false := by simp [State.barLive, State.fnLive, hfn, h]
    rw [if_pos rfl, State.readBell, hlive]
    split
    · exact ⟨_, rfl⟩
    · exact ⟨_, rfl⟩

theorem State.writeOne_of_tdi {s : State} {fn : Nat} (hfn : fn ≠ 0) (h : s.tdi (fn - 1) ≠ .run) (bar2 : Bool) (off v : Nat) :
    ∃ bad, s.writeOne fn bar2 off v = (bad, s) := by
  unfold State.writeOne
  cases bar2 with
  | false => exact State.writeWord_of_no_go v fun b i r _ => State.regGate_of_closed (State.fnOpen_of_tdi hfn h) b i r true
  | true =>
    have hlive : s.bellsLive fn = false := by simp [State.bellsLive, State.fnLive, hfn, h]
    rw [if_pos rfl, State.writeBell, hlive]
    split
    · exact ⟨_, rfl⟩
    · exact ⟨_, rfl⟩

/-- An access that the device performs has 4 or 8 bytes. -/
theorem accessOk_size {off size : Nat} (h : accessOk off size = true) : size = 4 ∨ size = 8 := by
  simp only [accessOk, Bool.or_eq_true, Bool.and_eq_true, beq_iff_eq] at h
  exact h.imp And.left And.left

/-- Reads that answer zero and leave the state make an access that does, but for its record. -/
theorem State.regRead_of_readOne {s : State} {fn off size : Nat} {bar2 : Bool} (hok : accessOk off size = true)
    (h : ∀ o, ∃ bad, s.readOne fn bar2 o = (0, bad, s)) :
    (s.regRead fn bar2 off size).1 = 0 ∧
      ((s.regRead fn bar2 off size).2 = s ∨ (s.regRead fn bar2 off size).2 = s.badAccess fn false bar2 size off) := by
  obtain ⟨bad, hlo⟩ := h off
  obtain ⟨bad', hhi⟩ := h (off + 4)
  unfold State.regRead
  rcases accessOk_size hok with rfl | rfl
  · simp only [hok, hlo, Bool.not_true, Bool.false_eq_true, if_false, if_true, true_and]
    split <;> simp
  · simp only [hok, hlo, hhi, Bool.not_true, Bool.false_eq_true, if_false, Nat.reduceEqDiff, Nat.zero_mul, Nat.add_zero, true_and]
    split <;> simp

theorem State.regWrite_of_writeOne {s : State} {fn off size : Nat} {bar2 : Bool} (v : Nat) (hok : accessOk off size = true)
    (h : ∀ o w, ∃ bad, s.writeOne fn bar2 o w = (bad, s)) :
    s.regWrite fn bar2 off size v = s ∨ s.regWrite fn bar2 off size v = s.badAccess fn true bar2 size off := by
  obtain ⟨bad, hlo⟩ := h off (v % 2 ^ 32)
  obtain ⟨bad', hhi⟩ := h (off + 4) (v / 2 ^ 32 % 2 ^ 32)
  unfold State.regWrite
  rcases accessOk_size hok with rfl | rfl
  · simp only [hok, hlo, Bool.not_true, Bool.false_eq_true, if_false, if_true]
    split <;> simp
  · simp only [hok, hlo, hhi, Bool.not_true, Bool.false_eq_true, if_false, Nat.reduceEqDiff]
    split <;> simp

/-- In HALTED the pages that are not named, and every page through a virtual function, are not reached. -/
theorem State.regGate_of_halted {s : State} (hs : s.pwr.state = .halted) {fn : Nat} {b : Blk}
    (h : fn ≠ 0 ∨ b ∉ [Blk.dev, .pwr, .seal, .mgt, .sec]) (i r : Nat) (w : Bool) : s.regGate fn b i r w ≠ .go := by
  rcases h with hfn | hb
  · exact State.regGate_of_closed (State.fnOpen_of_halted hfn hs) b i r w
  · intro hgo
    have hshown := (State.regGate_go hgo).2
    rw [State.pageShown, hs] at hshown
    exact hb (List.contains_iff_mem.mp hshown)

/-- Settles O55: the record of a disallowed access, and accesses that reach no register. -/
theorem hiddenAccesses : Obligations.HiddenAccesses := by
  unfold Obligations.HiddenAccesses
  refine ⟨fun s fn w bar2 size off _ => ?recorded, fun s fn off size v bar2 => ⟨fun hfn htdi hok => ?tdi, fun hs b i r hpage hb => ?halted⟩⟩
  case recorded =>
    refine ⟨s.badAccess_reg .., s.badAccess_valid .., fun h => State.badAccess_badacc_held h .., fun h => ?_,
      (s.badAccess fn w bar2 size off).setReg_same 0 .dev 0 0x68 (r := 0) (v := 0) (by decide) (by decide), rfl⟩
    rw [State.badAccess_badacc_first h]
    exact ⟨rfl, bne_iff_ne, rfl, rfl, rfl, rfl⟩
  case tdi =>
    obtain ⟨hzero, hstate⟩ := State.regRead_of_readOne hok (State.readOne_of_tdi hfn htdi bar2)
    exact ⟨hzero, hstate, State.regWrite_of_writeOne v hok (State.writeOne_of_tdi hfn htdi bar2)⟩
  case halted =>
    have hno : ∀ w b' i' r', pageAt off = some (b', i', r') → s.regGate fn b' i' r' w ≠ .go := by
      intro w b' i' r' hpage'
      obtain ⟨rfl, -, -⟩ : b = b' ∧ i = i' ∧ r = r' := by simpa using hpage.symm.trans hpage'
      exact State.regGate_of_halted hs hb i' r' w
    obtain ⟨bad, hread⟩ := State.readWord_of_no_go (hno false)
    obtain ⟨bad', hwrite⟩ := State.writeWord_of_no_go v (hno true)
    rw [hread, hwrite]
    exact ⟨rfl, rfl, rfl⟩

end Sys2Proof.Machine
end

section
/-!
PROOF. Register reads and writes (R9, R33 to R35, R40, R42, R43, R360): what one 4-byte access does, by how it stands, and what the
rows make of it.
-/

namespace Sys2Proof.Machine

/-! ## Sizes (R40) -/

theorem accessOk_four {off : Nat} (h : off % 4 = 0) : accessOk off 4 = true := by simp [accessOk, h]

theorem accessOk_eight {off : Nat} (h : off % 8 = 0) : accessOk off 8 = true := by simp [accessOk, h]

/-! ## Reads -/

theorem State.regRead_misaligned {s : State} {off size : Nat} (h : accessOk off size = false) (fn : Nat) (bar2 : Bool) :
    s.regRead fn bar2 off size = (0, s.badAccess fn false bar2 size off) := by
  rw [State.regRead, h]
  rfl

theorem State.regRead_four {s : State} {off : Nat} (h : off % 4 = 0) (fn : Nat) (bar2 : Bool) :
    s.regRead fn bar2 off 4 = ((s.readOne fn bar2 off).1, if (s.readOne fn bar2 off).2.1 = true
      then (s.readOne fn bar2 off).2.2.badAccess fn false bar2 4 off else (s.readOne fn bar2 off).2.2) := by
  rw [State.regRead, accessOk_four h]
  rfl

theorem State.regRead_eight {s : State} {off : Nat} (h : off % 8 = 0) (fn : Nat) (bar2 : Bool) {v w : Nat} {x y : Bool} {t u : State}
    (hlo : s.readOne fn bar2 off = (v, x, t)) (hhi : t.readOne fn bar2 (off + 4) = (w, y, u)) :
    s.regRead fn bar2 off 8 = (v + w * 2 ^ 32, if x = true ∨ y = true then u.badAccess fn false bar2 8 off else u) := by
  simp only [State.regRead, accessOk_eight h, hlo, hhi, Bool.not_true, Bool.false_eq_true, if_false, Nat.reduceEqDiff, Bool.or_eq_true]

/-- A 4-byte read in BAR0, by how the access stands. -/
theorem State.readWord_at {s : State} {off inst r : Nat} {b : Blk} (h : pageAt off = some (b, inst, r)) (fn : Nat) :
    s.readWord fn off = match s.regGate fn b inst r false with
      | .zero => (0, false, s)
      | .bad => (0, true, s)
      | .go => ((s.readReg fn b inst r).1, false, (s.readReg fn b inst r).2) := by
  rw [State.readWord, h] <;> rfl

theorem exec_registerRead (s : State) (r : RegRead) : exec (.registerRead r) s =
    .next ((s.regRead r.fn.toNat r.bar2 r.off.toNat r.size).2.say
      (.regRead (BitVec.ofNat 64 (s.regRead r.fn.toNat r.bar2 r.off.toNat r.size).1))) := rfl

/-! ## Writes -/

theorem State.regWrite_misaligned {s : State} {off size : Nat} (h : accessOk off size = false) (fn : Nat) (bar2 : Bool) (v : Nat) :
    s.regWrite fn bar2 off size v = s.badAccess fn true bar2 size off := by
  rw [State.regWrite, h]
  rfl

theorem State.regWrite_four {s : State} {off : Nat} (h : off % 4 = 0) (fn : Nat) (v : Nat) :
    s.regWrite fn false off 4 v = if (s.writeWord fn off (v % 2 ^ 32)).1 = true
      then (s.writeWord fn off (v % 2 ^ 32)).2.badAccess fn true false 4 off else (s.writeWord fn off (v % 2 ^ 32)).2 := by
  rw [State.regWrite, accessOk_four h]
  rfl

/-- A 4-byte write in BAR0, by how the access stands. -/
theorem State.writeWord_at {s : State} {off inst r : Nat} {b : Blk} (h : pageAt off = some (b, inst, r)) (fn v : Nat) :
    s.writeWord fn off v = match s.regGate fn b inst r true with
      | .zero => ((s.writeReg fn b inst r v).1, s)
      | .bad => (true, s)
      | .go => s.writeReg fn b inst r v := by
  rw [State.writeWord, h] <;> rfl

/-- The lock of a page holds a lockable register from 0x040 on; the write is disallowed, but for SEC_MB_CMD's START. -/
theorem State.writeReg_held {s : State} {fn : Nat} {b : Blk} {inst r : Nat} (hr : 0x40 ≤ r) (hl : lockable b r = true)
    (hh : s.lockHolds fn b inst = true) (hb : b ≠ .sec) (v : Nat) : s.writeReg fn b inst r v = (true, s) := by
  have hbad : heldBad b r v = true := by simp [heldBad, hb]
  rw [State.writeReg, if_neg (Nat.not_lt.mpr hr), hl, hh, hbad]
  rfl

theorem State.writeReg_sealed {s : State} {b : Blk} {inst : Nat} (h : (s.reg 0 b inst 0x30 0).testBit 1 = true) (fn v : Nat) :
    s.writeReg fn b inst 0x30 v = (true, s) := if_pos h

theorem State.writeReg_intSet (s : State) (fn : Nat) (b : Blk) (inst v : Nat) :
    s.writeReg fn b inst 0x2C v = s.intSetWrite fn b inst v := rfl

theorem exec_registerWrite (s : State) (w : RegWrite) : exec (.registerWrite w) s =
    .next (s.regWrite w.fn.toNat w.bar2 w.off.toNat w.size w.value.toNat) := rfl

/-- INT_SET of an xx_INT_SET is a write. -/
theorem exec_intSet {s : State} {fn : BitVec 6} {off : BitVec 26} {size : Nat} {v : Word64} {b : Blk} {inst : Nat}
    (h : pageAt off.toNat = some (b, inst, 0x2C)) :
    exec (.intSet { fn := fn, bar2 := false, off := off, size := size, value := v }) s =
      .next (s.regWrite fn.toNat false off.toNat size v.toNat) := by
  have hset : isIntSet off.toNat = true := by simp [isIntSet, h]
  have hrow : exec (.intSet { fn := fn, bar2 := false, off := off, size := size, value := v }) s =
    if !false && (isIntSet off.toNat || (size == 8 && isIntSet (off.toNat + 4))) then
      .next (s.regWrite fn.toNat false off.toNat size v.toNat) else .next s := rfl
  rw [hrow, hset]
  rfl

/-! ## Colophon requests and MSI-X (R34, R360) -/

theorem exec_devColophonStart (s : State) (fn : BitVec 6) : exec (.devColophonStart fn) s =
    .next (if s.fnOpen fn.toNat = true then s.coloStart fn.toNat else s) := rfl

theorem State.coloStart_busy {s : State} {fn : Nat} (h : (s.coloOf fn).busy = true) : s.coloStart fn = s := if_pos h

theorem State.coloStart_idle {s : State} {fn : Nat} (h : (s.coloOf fn).busy = false) :
    s.coloStart fn = (s.setColo fn { s.coloOf fn with busy := true }).coloRun fn := if_neg (ne_true_of_eq_false h)

theorem exec_msixUnmask (s : State) (fn : BitVec 6) (n : BitVec 4) : exec (.msixUnmask fn n) s =
    (if tget false s.msixPend (fn.toNat * 16 + n.toNat) = true then
      .next (State.msix { s with
        msixOpen := tput false s.msixOpen (fn.toNat * 16 + n.toNat) true
        msixPend := tput false s.msixPend (fn.toNat * 16 + n.toNat) false } fn.toNat n.toNat none)
    else .next { s with msixOpen := tput false s.msixOpen (fn.toNat * 16 + n.toNat) true }) := rfl

/-- A vector that is not masked sends its message. -/
theorem State.msix_open {s : State} {fn : BitVec 6} {n : BitVec 4} (h : tget false s.msixOpen (fn.toNat * 16 + n.toNat) = true) :
    s.msix fn.toNat n.toNat none = s.emit 0 false none (.msix fn n) := by
  rw [State.msix, if_pos h, BitVec.ofNat_toNat, BitVec.ofNat_toNat, BitVec.setWidth_eq, BitVec.setWidth_eq]

/-! ## One 4-byte access of the rows -/

theorem exec_registerRead_four {s : State} {off : BitVec 26} {b : Blk} {inst r : Nat} (hpage : pageAt off.toNat = some (b, inst, r))
    (hm : off.toNat % 4 = 0) (fn : BitVec 6) :
    exec (.registerRead { fn := fn, bar2 := false, off := off, size := 4 }) s = match s.regGate fn.toNat b inst r false with
      | .zero => .next (s.say (.regRead 0))
      | .bad => .next ((s.badAccess fn.toNat false false 4 off.toNat).say (.regRead 0))
      | .go => .next ((s.readReg fn.toNat b inst r).2.say (.regRead (BitVec.ofNat 64 (s.readReg fn.toNat b inst r).1))) := by
  rw [exec_registerRead, State.regRead_four hm, State.readOne, if_neg Bool.false_ne_true, State.readWord_at hpage]
  cases s.regGate fn.toNat b inst r false <;> rfl

/-- A write's state, and the record of one that is disallowed. -/
def State.afterWrite (x : Bool × State) (fn off : Nat) : State := if x.1 = true then x.2.badAccess fn true false 4 off else x.2

theorem regWrite_four_at {s : State} {off : Nat} {b : Blk} {inst r : Nat} (hpage : pageAt off = some (b, inst, r))
    (hm : off % 4 = 0) (fn v : Nat) : s.regWrite fn false off 4 v = match s.regGate fn b inst r true with
      | .zero => if (s.writeReg fn b inst r (v % 2 ^ 32)).1 = true then s.badAccess fn true false 4 off else s
      | .bad => s.badAccess fn true false 4 off
      | .go => State.afterWrite (s.writeReg fn b inst r (v % 2 ^ 32)) fn off := by
  rw [State.regWrite_four hm, State.writeWord_at hpage]
  cases s.regGate fn b inst r true <;> rfl

/-- Settles O54: the accesses by their size and by how they stand, then the two rows of a trigger. -/
theorem registerAccesses : Obligations.RegisterAccesses := by
  unfold Obligations.RegisterAccesses
  refine ⟨fun s fn off size => ⟨fun bar2 h => ?readMisaligned, fun b inst r hpage hm => ?read4, fun bar2 h => ?read8, fun h => ?badacc,
      fun h => ?memrej⟩,
    fun s fn off v => ⟨fun bar2 size h => ?writeMisaligned, fun b inst r hpage hm => ?write4, fun b inst hpage hm => ?intSet,
      fun n => ⟨fun h => ?masked, fun h => ?pending⟩, fun hopen hidle => ?colophon, fun h => ?ignored⟩⟩
  case readMisaligned =>
    rw [exec_registerRead, State.regRead_misaligned h]
  case read4 =>
    intro go
    rw [exec_registerRead_four hpage hm]
    exact ⟨fun h => by rw [h]; rfl, fun h => by rw [h]; rfl, fun h => by rw [h]⟩
  case read8 =>
    intro lo hi
    have hlo : s.readOne fn.toNat bar2 off.toNat = (lo.1, lo.2.1, lo.2.2) := rfl
    have hhi : lo.2.2.readOne fn.toNat bar2 (off.toNat + 4) = (hi.1, hi.2.1, hi.2.2) := rfl
    rw [exec_registerRead, State.regRead_eight h fn.toNat bar2 hlo hhi]
  case badacc =>
    rw [show exec (.devBadaccCntRead fn) s = execDevBadaccCntRead fn s from rfl, execDevBadaccCntRead]
    dsimp only
    rw [h]
  case memrej =>
    rw [show exec (.hifMemrejCntRead fn) s = execHifMemrejCntRead fn s from rfl, execHifMemrejCntRead]
    dsimp only
    rw [h]
  case writeMisaligned =>
    rw [exec_registerWrite, State.regWrite_misaligned h]
  case write4 =>
    intro go w
    rw [exec_registerWrite, regWrite_four_at hpage hm]
    refine ⟨fun h => by rw [h], fun h => by rw [h], fun h => ?_⟩
    rw [h]
    refine ⟨rfl, fun hr hl hh hb => ?_, fun hr hsealed => ?_⟩
    · exact congrArg (fun x => Host.Outcome.next (State.afterWrite x fn.toNat off.toNat)) (State.writeReg_held hr hl hh hb w)
    · subst hr
      exact congrArg (fun x => Host.Outcome.next (State.afterWrite x fn.toNat off.toNat)) (State.writeReg_sealed hsealed fn.toNat w)
  case intSet =>
    rw [exec_intSet hpage, regWrite_four_at hpage hm, State.writeReg_intSet, State.intSetWrite]
    refine ⟨fun hc h => by rw [h, hc]; rfl, fun hc h => by rw [h, hc]; rfl, fun h => ?_⟩
    rcases h with hc | hbad
    · rw [hc]
      cases s.regGate fn.toNat b inst 0x2C true <;> rfl
    · rw [hbad]
  case masked =>
    rw [exec_msixUnmask, if_neg (ne_true_of_eq_false h)]
  case pending =>
    rw [exec_msixUnmask, if_pos h]
    exact congrArg _ (State.msix_open (tget_tput_same false s.msixOpen _ true))
  case colophon =>
    rw [exec_devColophonStart, if_pos hopen, State.coloStart_idle hidle]
  case ignored =>
    rw [exec_devColophonStart]
    split
    · next hopen =>
      rw [State.coloStart_busy (h.resolve_left (by rw [hopen]; decide))]
    · rfl

end Sys2Proof.Machine
end

section
/-!
PROOF. System and fence commands (R336 to R341, R353 to R355, R360, R361).
-/

namespace Sys2Proof.Machine

/-! ## System commands -/

/-- SYS_NOP completes. -/
theorem execSysNop_done {s t : State} {q : CmdIn} (h : s.admits 0xD1 fromCM (fun d => bodyOnly d []) q t) :
    execSysNop q s = .next (t.finish q.src 0 0 0 0).settle :=
  descriptor_done h rfl

/-- The instant of a record: the command's own dispatch lies before it (R360). -/
def State.coloAt (s : State) (q : QSrc) : State := (s.setCmd q fun c => { c with stage := .storing 0 0 0 0 }).settleCtxs

/-- The record of a SYS_COLOPHON. -/
def State.sysRecord (s : State) (q : QSrc) : List Byte :=
  (s.coloAt q).colophon (if isMgmt q then none else some (s.partOf q)) ((s.coloAt q).coloGen + 1).toNat

theorem sysColophonBody_mgmt {t : State} {q : CmdIn} (hm : isMgmt q.src = true) (d : Nat) :
    sysColophonBody q d t = .ok (.done (if (coloCut (field d 16 4) (t.sysRecord q.src)).2 then 0 else 0x1A64)
        ((t.coloAt q.src).coloGen + 1).toNat (t.sysRecord q.src).length 0)
      (State.hostWrite { t.coloAt q.src with coloGen := (t.coloAt q.src).coloGen + 1 } .data q.src none (field d 8 8)
        (coloCut (field d 16 4) (t.sysRecord q.src)).1) := by
  simp only [sysColophonBody, run_bind, run_look, run_upd, run_pure, hm, if_true, State.sysRecord, State.coloAt]

theorem sysColophonBody_ctx {t w : State} {q : CmdIn} {d : Nat} (hm : isMgmt q.src = false)
    (hput : egressPut { src := q.src, env := q.env } .copy (field d 8 8) (coloCut (field d 16 4) (t.sysRecord q.src)).1
      { t.coloAt q.src with coloGen := (t.coloAt q.src).coloGen + 1 } = .ok () w) :
    sysColophonBody q d t = .ok (.done (if (coloCut (field d 16 4) (t.sysRecord q.src)).2 then 0 else 0x1A64)
        ((t.coloAt q.src).coloGen + 1).toNat (t.sysRecord q.src).length 0) w := by
  simp only [State.sysRecord, State.coloAt, hm, Bool.false_eq_true, if_false] at hput
  simp only [sysColophonBody, run_bind, run_look, run_upd, run_pure, hm, Bool.false_eq_true, if_false, State.sysRecord, State.coloAt, hput]

theorem coloCut_fst (n : Nat) (r : List Byte) : (coloCut n r).1 = if r.length ≤ n then r else r.take 64 := by
  unfold coloCut
  split <;> rfl

theorem coloCut_snd (n : Nat) (r : List Byte) : (if (coloCut n r).2 = true then 0 else 0x1A64) = if r.length ≤ n then 0 else 0x1A64 := by
  unfold coloCut
  split <;> rfl

/-! ## Fences -/

theorem fenceAllocBody_done {t u : State} {q : CmdIn} {d i : Nat} (hrange : field d 8 8 ≤ field d 16 8)
    (hroom : t.fencesOf (t.partOf q.src) < t.reg (fnOf (t.partOf q.src)) .cmdp 0 0x6C 0)
    (hpick : t.pick 65536 t.fences.length (fun i => (t.fence i).isNone) = (some i, u)) :
    fenceAllocBody q d t = .ok (.done 0 i 0 0) (u.fenceTo (some q.src) i {
      value := BitVec.ofNat 64 (field d 8 8), release := BitVec.ofNat 64 (field d 16 8), state := .live, code := 0
      owner := BitVec.ofNat 12 (ctxOf q.src), mirror := BitVec.ofNat 64 (field d 24 8), grants := [] }) := by
  simp only [fenceAllocBody, okWith, run_bind, run_look, run_act, run_upd, run_pure, need_ok (decide_eq_true hrange),
    need_ok (decide_eq_true hroom), hpick]

theorem ownFence_ok {t : State} {q : CmdIn} {slot : Nat} {f : Fence} (hf : t.fence slot = some f) (ho : f.owner.toNat = ctxOf q.src) :
    ownFence q slot t = .ok f t := by
  simp only [ownFence, run_bind, run_look, hf, ho, if_true, run_pure]

theorem useFence_ok {t : State} {q : CmdIn} {slot : Nat} {v : Word64} {wait : Bool} {f : Fence} (hf : t.fence slot = some f)
    (hmay : f.may (ctxOf q.src) wait = true) (hv : v.toNat ≤ f.release.toNat) : useFence q slot v wait t = .ok () t := by
  have huse : t.fenceUse (ctxOf q.src) slot v wait = 0 := by
    simp only [State.fenceUse, hf, hmay, Bool.not_true, Bool.false_eq_true, if_false, if_neg (Nat.not_lt.mpr hv)]
  simp only [useFence, run_bind, run_look, huse]
  rfl

/-- A signal in its range by a context with the right raises a LIVE fence, and leaves another. -/
theorem State.signal_spec {t : State} {q : QSrc} {slot : Nat} {v : Word64} {f : Fence} (hf : t.fence slot = some f)
    (hmay : f.may (ctxOf q) false = true) (hv : v.toNat ≤ f.release.toNat) : t.signal q slot v =
      if f.state = .live then t.fenceTo (some q) slot { f with value := if f.value.toNat < v.toNat then v else f.value } else t := by
  simp only [State.signal, hf, hmay, hv, and_true]
  rfl

theorem State.waitEnd_live {t : State} {slot : Nat} {f : Fence} (hf : t.fence slot = some f) (hlive : f.state = .live) (v : Word64) :
    t.waitEnd slot v = if v.toNat ≤ f.value.toNat then some 0 else none := by
  simp only [State.waitEnd, hf, hlive]

/-- Settles O10: each row's body runs to its completion, one lemma per body. -/
theorem systemCommands : Obligations.SystemCommands := by
  unfold Obligations.SystemCommands
  refine ⟨fun s q t => ⟨execSysNop_done, fun h => ?colophon⟩, fun s q t => ⟨fun i u h hrange hroom hpick => ?alloc, fun f h hf ho => ?free,
    fun f h hf hmay hv => ?signal, fun f h hf hmay hv hlive => ?wait, fun f h hf ho hbound hroom => ?grant, fun f h hf ho hgrant => ?accept⟩⟩
  case colophon =>
    intro d at' gen record cut status v
    refine ⟨fun hm => ?_, fun w hm hput => ?_⟩
    · have hdone := sysColophonBody_mgmt (t := t) hm d
      rw [coloCut_fst, coloCut_snd] at hdone
      exact descriptor_done h hdone
    · have hput' : egressPut { src := q.src, env := q.env } .copy (field d 8 8) (coloCut (field d 16 4) (t.sysRecord q.src)).1
          { t.coloAt q.src with coloGen := (t.coloAt q.src).coloGen + 1 } = .ok () w := by
        rw [coloCut_fst]
        exact hput
      have hdone := sysColophonBody_ctx (d := d) hm hput'
      rw [coloCut_snd] at hdone
      exact descriptor_done h hdone
  case alloc =>
    exact descriptor_done h (fenceAllocBody_done hrange hroom hpick)
  case free =>
    refine descriptor_done h ?_
    simp only [run_bind, ownFence_ok hf ho, run_upd]
    rfl
  case signal =>
    refine descriptor_done h ?_
    simp only [run_bind, useFence_ok hf hmay hv, run_upd, State.signal_spec hf hmay hv]
    rfl
  case wait =>
    have huse := useFence_ok hf hmay hv
    have hend := State.waitEnd_live hf hlive (BitVec.ofNat 64 (field (descOf q 0x44) 16 8))
    split
    · next hreached =>
      rw [if_pos hreached] at hend
      refine descriptor_done h ?_
      simp only [run_bind, huse, run_look, hend]
      rfl
    · next hwaits =>
      rw [if_neg hwaits] at hend
      refine descriptor_goes h ?_
      simp only [run_bind, huse, run_look, hend]
      rfl
  case grant =>
    refine descriptor_done h ?_
    simp only [run_bind, ownFence_ok hf ho, run_look, run_upd, need_ok hbound, need_ok (decide_eq_true hroom)]
    rfl
  case accept =>
    refine descriptor_done h ?_
    obtain ⟨g, hg, hctx⟩ := hgrant
    have hcheck : (f.owner.toNat == field (descOf q 0x46) 10 2 && f.grants.any fun g => g.ctx.toNat == ctxOf q.src) = true :=
      Bool.and_eq_true_iff.mpr ⟨beq_iff_eq.mpr ho, List.any_eq_true.mpr ⟨g, hg, beq_iff_eq.mpr hctx⟩⟩
    simp only [run_bind, run_look, run_upd, hf, need_ok hcheck]
    rfl

end Sys2Proof.Machine
end

section
/-!
PROOF. The object commands (R270, R328 to R335): allocation, free and its deferred completion, mappings, and the end of a KeyID's
retirement.
-/

namespace Sys2Proof.Machine

/-! ## OBJ_ALLOC (R328, R329) -/

/-- The objects of a partition are those of the table that name it. -/
theorem State.mem_objsOf {s : State} {p : Nat} {e : Nat × Obj} (h : e ∈ s.objsOf p) : (e.1, some e.2) ∈ s.objs := by
  obtain ⟨⟨i, o⟩, ho, hsome⟩ := List.mem_filterMap.mp h
  cases o with
  | none => cases hsome
  | some o =>
    dsimp only at hsome
    split at hsome
    · obtain rfl := Option.some.inj hsome
      exact ho
    · cases hsome

/-- What OBJ_ALLOC asks of a device object (R329). -/
structure DeviceRoom (t : State) (p ext kid off len : Nat) (stg : Bool) : Prop where
  bytes : off + len ≤ (t.part p).extentBytes ext
  apart : ∀ e ∈ t.objsOf p, e.2.host = false → e.2.ext.toNat = ext → off + len ≤ e.2.base ∨ e.2.base + e.2.len ≤ off
  keyed : (t.kid kid).state = .keyed
  owner : (t.kid kid).owner.toNat = p
  alone : ∀ e ∈ t.objs, ∀ o, e.2 = some o → o.host = false → o.kid.toNat ≠ kid
  stage : stg = true → (leAt (blobBytes (t.kid kid).blob) 20 4).testBit 7 = true

namespace DeviceRoom

variable {t : State} {p ext kid off len : Nat} {stg : Bool}

theorem apart_any (h : DeviceRoom t p ext kid off len stg) : (!(t.objsOf p).any fun e =>
    !e.2.host && e.2.ext.toNat == ext && decide (e.2.base < off + len ∧ off < e.2.base + e.2.len)) = true := by
  rw [Bool.not_eq_true', List.any_eq_false]
  intro e he hany
  simp only [Bool.and_eq_true, Bool.not_eq_true', beq_iff_eq, decide_eq_true_eq] at hany
  obtain ⟨⟨hhost, hext⟩, hbelow, habove⟩ := hany
  have := h.apart e he hhost hext
  omega

theorem serves (h : DeviceRoom t p ext kid off len stg) :
    (t.objs.any fun e => (e.2.map fun o => !o.host && o.kid.toNat == kid).getD false) = false := by
  rw [List.any_eq_false]
  intro e he hany
  cases ho : e.2 with
  | none => simp [ho] at hany
  | some o =>
    simp only [ho, Option.map_some, Option.getD_some, Bool.and_eq_true, Bool.not_eq_true', beq_iff_eq] at hany
    exact h.alone e he o ho hany.1 hany.2

theorem key (h : DeviceRoom t p ext kid off len stg) :
    ((t.kid kid).state == .keyed && (t.kid kid).owner.toNat == p &&
      !t.objs.any fun e => (e.2.map fun o => !o.host && o.kid.toNat == kid).getD false) = true := by
  rw [h.serves, h.keyed, h.owner]
  simp

theorem staged (h : DeviceRoom t p ext kid off len stg) : (!stg || (leAt (blobBytes (t.kid kid).blob) 20 4).testBit 7) = true := by
  cases hs : stg with
  | false => rfl
  | true => simpa using h.stage hs

end DeviceRoom

/-- The object that OBJ_ALLOC makes. -/
def allocated (q : CmdIn) (d p g : Nat) (pasid : BitVec 20) : Obj where
  gen := g
  owner := BitVec.ofNat 12 (ctxOf q.src)
  part := BitVec.ofNat 6 p
  pasid := pasid
  host := (field d 8 1).testBit 0
  staging := (field d 8 1).testBit 1
  ext := BitVec.ofNat 3 (field d 9 1)
  kid := BitVec.ofNat 16 (field d 10 2)
  base := field d 24 8
  len := field d 16 8
  retiring := false
  freeing := false
  holds := 0
  signal := none
  signaller := 0

theorem objAllocBody_done {t u : State} {q : CmdIn} {d i : Nat}
    (hsize : (field d 16 8 % 4096 == 0 && field d 24 8 % 4096 == 0 && field d 16 8 != 0) = true)
    (hquota : (t.objsOf (t.partOf q.src)).length < t.reg (fnOf (t.partOf q.src)) .cmdp 0 0x68 0 % 2 ^ 21)
    (hhost : (field d 8 1).testBit 0 = true → (field d 8 1).testBit 1 = false)
    (hdev : (field d 8 1).testBit 0 = false →
      DeviceRoom t (t.partOf q.src) (field d 9 1) (field d 10 2) (field d 24 8) (field d 16 8) ((field d 8 1).testBit 1))
    (hpick : t.pick (2 ^ 20) t.objs.length (fun i => (t.obj i).isNone) = (some i, u)) :
    objAllocBody q d t = .ok (.done 0 (u.nextGen i * 2 ^ 20 + i) 0 0)
      { u.setObj i (some (allocated q d (t.partOf q.src) (u.nextGen i) (u.ctx (ctxOf q.src)).pasid)) with
          objGen := tput 0 u.objGen i (u.nextGen i) } := by
  cases hd : (field d 8 1).testBit 0 with
  | true =>
    have hstg : (!(field d 8 1).testBit 1) = true := by rw [hhost hd]; rfl
    simp only [objAllocBody, okWith, run_bind, run_look, run_act, run_upd, run_pure, need_ok hsize, need_ok (decide_eq_true hquota),
      hd, if_true, need_ok hstg, hpick, allocated]
  | false =>
    have room := hdev hd
    simp only [objAllocBody, okWith, run_bind, run_look, run_act, run_upd, run_pure, need_ok hsize, need_ok (decide_eq_true hquota),
      hd, Bool.false_eq_true, if_false, need_ok (decide_eq_true room.bytes), need_ok room.apart_any, need_ok room.key, need_ok room.staged,
      hpick, allocated]

/-! ## OBJ_FREE (R331) -/

theorem objFreeBody_eq {t : State} {q : CmdIn} {d i : Nat} {o : Obj} (hobj : getObj (t.partOf q.src) (field d 8 4) t = .ok (i, o) t)
    (hmay : (isMgmt q.src || o.owner.toNat == ctxOf q.src || (t.ctx (ctxOf q.src)).admin) = true) :
    objFreeBody q d t =
      if o.holds = 0 then
        .ok (if o.host = true then .done 0 0 0 0 else .runs (.freeing i)) (t.freeNow i o)
      else .ok (.done 0x1A10 0 0 0) (t.setObj i (some { o with
        retiring := true
        signal := if descSync d = 1 then some (BitVec.ofNat 16 (descSlot d), BitVec.ofNat 32 (descValue d).toNat) else none
        signaller := BitVec.ofNat 12 (ctxOf q.src) })) := by
  simp only [objFreeBody, run_bind, run_look, hobj, need_ok hmay, run_ite, run_upd, run_pure, ok]
  split
  · split <;> rfl
  · rfl

/-! ## OBJ_MAP and OBJ_UNMAP (R333, R335) -/

theorem ranges_apart {l : List MapRange} {va len : Nat} (h : ∀ r ∈ l, va + len ≤ r.va ∨ r.va + r.len ≤ va) :
    (!l.any fun r => decide (r.va < va + len ∧ va < r.va + r.len)) = true := by
  rw [Bool.not_eq_true', List.any_eq_false]
  intro r hr hover
  obtain ⟨hbelow, habove⟩ := of_decide_eq_true hover
  have := h r hr
  omega

theorem objMapBody_done {t : State} {q : CmdIn} {d i : Nat} {o : Obj} (hobj : getObj (t.partOf q.src) (field d 8 4) t = .ok (i, o) t)
    (hlen : field d 32 8 ≠ 0) (hva : field d 16 8 % 4096 = 0) (hoff : field d 24 8 % 4096 = 0) (hpage : field d 32 8 % 4096 = 0)
    (htop : field d 16 8 + field d 32 8 ≤ 2 ^ 48) (hend : field d 24 8 + field d 32 8 ≤ o.len)
    (hctx : (t.ctx (ctxOf q.src)).ranges.length < 256) (hall : t.rangesAll < 131072)
    (hquota : t.rangesOf (t.partOf q.src) < t.reg (fnOf (t.partOf q.src)) .iommu 0 0x44 0)
    (hapart : ∀ r ∈ (t.ctx (ctxOf q.src)).ranges, field d 16 8 + field d 32 8 ≤ r.va ∨ r.va + r.len ≤ field d 16 8) :
    objMapBody q d t = .ok (.done 0 0 0 0) ((t.addHold i 1).setCtx (ctxOf q.src) { t.ctx (ctxOf q.src) with
      ranges := (t.ctx (ctxOf q.src)).ranges ++ [{
        va := field d 16 8, len := field d 32 8, handle := BitVec.ofNat 32 (field d 8 4), off := field d 24 8
        read := (field d 12 1).testBit 0, write := (field d 12 1).testBit 1, exec := (field d 12 1).testBit 2 }] }) := by
  have hroom : (decide (t.rangesAll < 131072) && decide (t.rangesOf (t.partOf q.src) < t.reg (fnOf (t.partOf q.src)) .iommu 0 0x44 0)) =
      true := by rw [decide_eq_true hall, decide_eq_true hquota]; rfl
  simp only [objMapBody, ok, run_bind, run_look, run_upd, run_pure, hobj, hroom, ranges_apart hapart, hva, hoff, hpage, bne_iff_ne.mpr hlen,
    decide_eq_true htop, decide_eq_true hend, decide_eq_true hctx, beq_self_eq_true, Bool.and_self, need_ok]

theorem objUnmapBody_done {t : State} {q : CmdIn} {d : Nat} {r : MapRange}
    (hr : ((t.ctx (ctxOf q.src)).ranges.find? fun r => r.va == field d 16 8) = some r) :
    objUnmapBody q d t = .ok (.done 0 0 0 0) ((t.dropHold (r.handle.toNat % 2 ^ 20)).setCtx (ctxOf q.src) { t.ctx (ctxOf q.src) with
      ranges := (t.ctx (ctxOf q.src)).ranges.filter fun y => y.va != field d 16 8 }) := by
  have hva : r.va = field d 16 8 := beq_iff_eq.mp (List.find?_some (p := fun r : MapRange => r.va == field d 16 8) hr)
  simp only [objUnmapBody, ok, run_bind, run_look, run_upd, run_pure, hr, hva]

/-! ## The ends of frees and retirements (R270, R331) -/

theorem execObjDeferredFree_free {s : State} {idx : BitVec 20} {o : Obj} (ho : s.obj idx.toNat = some o) (hr : o.retiring = true)
    (hf : o.freeing = false) (hh : o.holds = 0) : execObjDeferredFree idx s =
      .next (if o.host = true then (s.freeNow idx.toNat o).freeSignal o else s.freeNow idx.toNat o).settle := by
  simp only [execObjDeferredFree, ho, hr, hf, hh, Bool.not_false, Bool.and_self, beq_self_eq_true, if_true]

theorem State.freeNow_host {s : State} {i : Nat} {o : Obj} (h : o.host = true) : s.freeNow i o = s.setObj i none := if_pos h

theorem State.freeNow_device {s : State} {i : Nat} {o : Obj} (h : o.host = false) : s.freeNow i o =
    (s.setObj i (some { o with retiring := true, freeing := true })).retireKid o.kid (some i) := if_neg (ne_true_of_eq_false h)

theorem execKeyidRetireDone_plain {s : State} {kid : BitVec 16} {idx : Option Nat}
    (hfind : (s.retiring.find? fun e => e.1 == kid) = some (kid, idx)) (hnone : idx.bind s.obj = none) :
    execKeyidRetireDone kid s = .next (s.retireEnd kid.toNat idx).settle := by
  simp only [execKeyidRetireDone, hfind, hnone]

theorem execKeyidRetireDone_renewed {s u : State} {kid : BitVec 16} {idx : Option Nat} {o : Obj}
    (hfind : (s.retiring.find? fun e => e.1 == kid) = some (kid, idx)) (hobj : idx.bind s.obj = some o)
    (hrenew : renewGranules o s = .ok () u) : execKeyidRetireDone kid s = .next (u.retireEnd kid.toNat idx).settle := by
  simp only [execKeyidRetireDone, hfind, hobj, hrenew]

/-- Settles O11: each row's body runs to its completion, one lemma per body. -/
theorem objectCommands : Obligations.ObjectCommands := by
  unfold Obligations.ObjectCommands
  refine ⟨fun s q t => ⟨fun i u h => ?alloc, fun i o h => ?free, fun i o h => ?map, fun r h => ?unmap⟩,
    fun s => ⟨fun idx o ho hr hf hh => ?deferred, fun kid idx hfind => ⟨fun hnone => ?plain, fun o u hobj hrenew => ?renewed⟩,
      fun kid => rfl⟩⟩
  case alloc =>
    intro d host off len k hlen hoff hzero hquota hhost hdev hpick g
    have hsize : (len % 4096 == 0 && off % 4096 == 0 && len != 0) = true := by rw [hlen, hoff, bne_iff_ne.mpr hzero]; rfl
    refine descriptor_done h (objAllocBody_done hsize hquota hhost (fun hd => ?_) hpick)
    obtain ⟨hbytes, hapart, hkeyed, howner, halone, hstage⟩ := hdev hd
    exact ⟨hbytes, hapart, hkeyed, howner, halone, hstage⟩
  case free =>
    intro d hobj hmay
    have hmay' : (isMgmt q.src || o.owner.toNat == ctxOf q.src || (t.ctx (ctxOf q.src)).admin) = true := by
      simpa only [Bool.or_eq_true, beq_iff_eq, or_assoc] using hmay
    have hbody := objFreeBody_eq hobj hmay'
    refine ⟨fun hholds hhost => ?_, fun hholds hdev => ?_, fun hholds => ?_⟩
    · rw [if_pos hholds, if_pos hhost, State.freeNow_host hhost] at hbody
      exact descriptor_done h hbody
    · rw [if_pos hholds, if_neg (ne_true_of_eq_false hdev), State.freeNow_device hdev] at hbody
      exact descriptor_goes h hbody
    · rw [if_neg hholds] at hbody
      exact descriptor_done h hbody
  case map =>
    intro d x va off len hobj hlen hva hoff hpage htop hend hctx hall hquota hapart
    exact descriptor_done h (objMapBody_done hobj hlen hva hoff hpage htop hend hctx hall hquota hapart)
  case unmap =>
    intro va hr
    exact descriptor_done h (objUnmapBody_done hr)
  case deferred =>
    have hexec := execObjDeferredFree_free ho hr hf hh
    refine ⟨fun hhost => ?_, fun hdev => ?_⟩
    · rw [if_pos hhost, State.freeNow_host hhost] at hexec
      exact hexec
    · rw [if_neg (ne_true_of_eq_false hdev), State.freeNow_device hdev] at hexec
      exact hexec
  case plain =>
    exact execKeyidRetireDone_plain hfind hnone
  case renewed =>
    exact execKeyidRetireDone_renewed hfind hobj hrenew

end Sys2Proof.Machine
end

section
/-!
PROOF. EXEC_TILE (R73, R77, R101, R102, R381): its body, and the clusters on which a program starts.
-/

namespace Sys2Proof.Machine

/-! ## A fold over clusters -/

/-- Change each cluster of a list of (index, cluster). -/
def changeClusters (g : Nat → Cluster → Cluster) (s : State) (l : List (Nat × Nat)) : State :=
  l.foldl (fun t e => t.setCluster e.2 (g e.1 (t.cluster e.2))) s

theorem changeClusters_ne (g : Nat → Cluster → Cluster) (s : State) {l : List (Nat × Nat)} {c : Nat} (h : ∀ e ∈ l, e.2 ≠ c) :
    (changeClusters g s l).cluster c = s.cluster c := by
  induction l generalizing s with
  | nil => rfl
  | cons e l ih =>
    have hrest := ih (s.setCluster e.2 (g e.1 (s.cluster e.2))) fun e' he' => h e' (List.mem_cons_of_mem _ he')
    exact hrest.trans (State.setCluster_ne _ _ _ (h e (by simp)).symm)

theorem changeClusters_mem (g : Nat → Cluster → Cluster) (s : State) {l : List (Nat × Nat)} {i c : Nat} (hl : (l.map (·.2)).Nodup)
    (h : (i, c) ∈ l) : (changeClusters g s l).cluster c = g i (s.cluster c) := by
  induction l generalizing s with
  | nil => cases h
  | cons e l ih =>
    obtain ⟨hnotin, hl⟩ := List.nodup_cons.mp hl
    rcases List.mem_cons.mp h with rfl | hmem
    · have hrest := changeClusters_ne g (s.setCluster c (g i (s.cluster c))) (l := l) (c := c)
        fun e' he' heq => hnotin (List.mem_map.mpr ⟨e', he', heq⟩)
      exact hrest.trans (State.setCluster_same ..)
    · have hne : c ≠ e.2 := fun heq => hnotin (List.mem_map.mpr ⟨(i, c), hmem, heq⟩)
      have hrest := ih (s.setCluster e.2 (g e.1 (s.cluster e.2))) hl hmem
      rw [State.setCluster_ne _ _ _ hne] at hrest
      exact hrest

/-- A numbered list. -/
theorem map_snd_zip_range {α : Type} (l : List α) : ((List.range l.length).zip l).map (·.2) = l :=
  List.map_snd_zip (by simp)

theorem mem_zip_range {α : Type} {l : List α} {i : Nat} {c : α} (h : l[i]? = some c) : (i, c) ∈ (List.range l.length).zip l := by
  obtain ⟨hi, rfl⟩ := List.getElem?_eq_some_iff.mp h
  refine List.mem_iff_getElem.mpr ⟨i, by simpa using hi, ?_⟩
  simp

/-! ## Starting a program (R66, R73, R77) -/

/-- The cluster of index i as a program starts on it. -/
def Cluster.started (q : QSrc) (f : Nat → Prog) (x : Placed) (i : Nat) (k : Cluster) : Cluster :=
  { k.setSlot x.slot (some { startSlot (ctxOf q) x (f i) with closing := ((k.slot x.slot).map (·.closing)).getD false }) with
    worked := true
    pwr := if k.pwr = .idle then .active else k.pwr }

theorem Cluster.started_slot (q : QSrc) (f : Nat → Prog) (x : Placed) (i : Nat) (k : Cluster) :
    (k.started q f x i).slot x.slot = some { startSlot (ctxOf q) x (f i) with
      closing := ((k.slot x.slot).map (·.closing)).getD false } := by
  simp only [Cluster.started, Cluster.slot, Cluster.setSlot, tget_tput_same]

theorem State.startTiles_placed {s : State} {q : QSrc} {f : Nat → Prog} {x : Placed} (h : (s.ctx (ctxOf q)).placed = some x) :
    s.startTiles q f =
      ((changeClusters (Cluster.started q f x) s ((List.range (s.clustersOf (s.partOf q)).length).zip (s.clustersOf (s.partOf q)))).setCmd q
        fun k => { k with left := (s.clustersOf (s.partOf q)).map (BitVec.ofNat 7) }).runHolder (s.partOf q) := by
  unfold State.startTiles
  simp only [h]
  rfl

/-! ## The body of EXEC_TILE -/

/-- No other command of the context uses its slots. -/
theorem slotsFree_ok {t : State} {q : QSrc} (h : ∀ k ∈ t.inflight, k.src ≠ q → ctxOf k.src = ctxOf q →
    usesClusters k.op.toNat = true → k.started = false) : slotsFree q t = .ok () t := by
  have hidle : (t.inflight.any fun k => !decide (k.src = q) && ctxOf k.src == ctxOf q && usesClusters k.op.toNat && k.started) = false := by
    rw [List.any_eq_false]
    intro k hk hbusy
    simp only [Bool.and_eq_true, Bool.not_eq_true', decide_eq_false_iff_not, beq_iff_eq] at hbusy
    obtain ⟨⟨⟨hsrc, hctx⟩, huses⟩, hstarted⟩ := hbusy
    rw [h k hk hsrc hctx huses] at hstarted
    cases hstarted
  simp only [slotsFree, run_bind, run_look, hidle, Bool.false_eq_true, if_false, run_pure]

theorem codeFits_ok {u : State} {c : Nat} {k : CodeInfo} (hf : k.formeMin ≤ (u.shareOf c).1) (hg : k.galMin ≤ (u.shareOf c).2) :
    codeFits c k u = .ok () u := by
  simp only [codeFits, run_bind, run_look, decide_eq_true hf, decide_eq_true hg, Bool.and_self, need_ok]

variable {t u v w x : State} {q : CmdIn} {d : Nat} {k : CodeInfo}

theorem tileBody_noEntry (hfree : slotsFree q.src t = .ok () t)
    (hcode : readCode { src := q.src, env := q.env } (t.partOf q.src) (field d 8 4) t = .ok k u)
    (hfits : codeFits (ctxOf q.src) k u = .ok () u) (hentry : k.starts[field d 12 1]? = none) :
    tileBody q d t = .error (.fault 0x1022 0 0) u := by
  simp only [tileBody, run_bind, run_look, hfree, hcode, hfits, hentry, run_flt]

theorem tileBody_starts {pc : Nat} (hfree : slotsFree q.src t = .ok () t)
    (hcode : readCode { src := q.src, env := q.env } (t.partOf q.src) (field d 8 4) t = .ok k u)
    (hfits : codeFits (ctxOf q.src) k u = .ok () u) (hentry : k.starts[field d 12 1]? = some pc)
    (hexec : execAllowed (ctxOf q.src) (field d 8 4) k u = .ok () v) (hplace : placeShares (ctxOf q.src) (t.partOf q.src) v = .ok () w)
    (hhold : takeHold q.src (field d 8 4) w = .ok () x) :
    tileBody q d t = .ok (.runs .tiles) (x.startTiles q.src fun _ => {
      src := q.src, words := k.words, entry := pc, args := (List.range 6).map fun i => BitVec.ofNat 64 (field d (16 + 8 * i) 8)
      quiet := false }) := by
  simp only [tileBody, run_bind, run_look, hfree, hcode, hfits, hentry, hexec, hplace, hhold, run_upd, run_pure]

/-- Settles O14: the body of EXEC_TILE, and the fold that starts a program. -/
theorem execCommands : Obligations.ExecCommands := by
  unfold Obligations.ExecCommands
  refine ⟨fun s q t h hidle k u hcode hf hg => ⟨fun hentry => ?_, fun pc v w x hentry hexec hplace hhold => ?_⟩,
    fun s q f x hx => ⟨?_, fun c hc => ?_, fun hl i c hi => ?_⟩⟩
  · exact descriptor_faults h (tileBody_noEntry (slotsFree_ok hidle) hcode (codeFits_ok hf hg) hentry)
  · exact descriptor_goes h (tileBody_starts (slotsFree_ok hidle) hcode (codeFits_ok hf hg) hentry hexec hplace hhold)
  · exact State.startTiles_placed hx
  · exact changeClusters_ne (Cluster.started q f x) s fun e he heq => hc (heq ▸ (List.of_mem_zip he).2)
  · have hstarted := changeClusters_mem (Cluster.started q f x) s (by rwa [map_snd_zip_range]) (mem_zip_range hi)
    exact (congrArg (fun k => k.slot x.slot) hstarted).trans (Cluster.started_slot ..)

end Sys2Proof.Machine
end

section
/-!
PROOF. EXEC_LAYERS (R197 to R212, R381): its dispatch, the steps of a command whose previous run has ended, and which run follows in
the backward direction.
-/

namespace Sys2Proof.Machine

/-! ## The dispatch (R197 to R199, R206 to R208, R381) -/

/-- The entries of a layer table. -/
def layerTable (raw : List Byte) (n : Nat) : List (BitVec 1024) := (List.range n).map fun i => BitVec.ofNat 1024 (leAt raw (128 * i) 128)

/-- The checks of every entry, in order, each with the earlier ones. -/
def checkEntries (q : CmdIn) (p d : Nat) (l : List (BitVec 1024)) : M (List (List Nat × Nat)) :=
  ((List.range (field d 16 2)).zip l).mapM fun e => checkEntry q p (lyrBwd d) e.1 e.2 (l.take e.1)

/-- The layer run of a command as it is dispatched, with the scales of its dispatch. -/
def firstRun (s : State) (c d : Nat) (l : List (BitVec 1024)) (codes : List (List Nat × Nat)) : LayerRun where
  entries := l
  code := codes.map (·.1)
  scales := (s.tensorsOf c).map fun e => (e.1, e.2.xNow)
  bwd := lyrBwd d
  fallback := lyrFall d
  deferMax := if field d 44 1 = 0 then 4 else field d 44 1
  tokens := BitVec.ofNat 64 (field d 48 4)
  jobTokens := BitVec.ofNat 64 (field d 52 4)
  next := 0
  recompOf := none
  run := none
  deferred := []
  signal := none
  place := none

theorem countOk_of {n top : Nat} (h1 : 1 ≤ n) (h2 : n ≤ top) : countOk n top = true := by
  simp [countOk, h1, h2]

section
variable {t u v w x : State} {q : CmdIn} {d : Nat} {raw : List Byte} {codes : List (List Nat × Nat)}

theorem layersBody_goes (hfree : slotsFree q.src t = .ok () t)
    (hraw : vread { src := q.src, env := q.env } .copy 0x1901 (field d 8 8) (128 * field d 16 2) t = .ok raw u)
    (hcodes : checkEntries q (t.partOf q.src) d (layerTable raw (field d 16 2)) u = .ok codes v)
    (hrange : (layerTable raw (field d 16 2)).all v.entryRange = true)
    (htokens : (countOk (field d 48 4) 1048576 && decide (field d 48 4 ≤ field d 52 4) && decide (field d 52 4 ≤ 8388608)) = true)
    (hnew : lyrNew d = true → checkStash q d (t.partOf q.src) (codes.foldl (fun m k => max m k.2) 0) v = .ok () w)
    (hold : lyrNew d = false → useStash (ctxOf q.src) (t.partOf q.src) d (layerTable raw (field d 16 2)) v = .ok () w)
    (hplace : placeShares (ctxOf q.src) (t.partOf q.src) w = .ok () x) :
    let y := if lyrNew d then x.newStash (ctxOf q.src) (t.partOf q.src) d else x
    layersBody q d t = .ok (.runs (.layers (firstRun y (ctxOf q.src) d (layerTable raw (field d 16 2)) codes))) y := by
  unfold checkEntries layerTable at *
  cases hn : lyrNew d with
  | true =>
    simp only [layersBody, run_bind, run_look, run_upd, run_pure, hfree, hraw, hcodes, hrange, need_ok, htokens, hn, if_true, hnew hn, hplace]
    rfl
  | false =>
    simp only [layersBody, run_bind, run_look, run_pure, hfree, hraw, hcodes, hrange, need_ok, htokens, hn, Bool.false_eq_true, if_false,
      hold hn, hplace]
    rfl

end

/-! ## The steps between runs (R201, R203, R204, R209, R210) -/

theorem execLayerBoundary_idle {s : State} {src : QSrc} {r : LayerRun} (h : s.layersIdle src = some r) (hfwd : r.bwd = false)
    (hnext : r.next < r.entries.length) : execLayerBoundary src s = match s.placeSlice (ctxOf src) r r.next with
      | none => .next (s.fail src 0x1A52 0 0).settle
      | some (y, t) => .next (t.startRun src { r with place := some y } r.next .fwd).settle := by
  simp only [execLayerBoundary, h, hfwd, decide_eq_false (Nat.not_le.mpr hnext), Bool.or_self, Bool.false_eq_true, if_false] <;> rfl

theorem execBwdRunSelect_idle {s : State} {src : QSrc} {r : LayerRun} (h : s.layersIdle src = some r) (hbwd : r.bwd = true) :
    execBwdRunSelect src s = match s.pickBwd (ctxOf src) (r.entries.length + 1) r with
      | .run p kind r => .next (s.startRun src r p kind).settle
      | .wait r => .next (s.setRun src r).settle
      | .bad code => .next (s.fail src code 0 0).settle
      | .finished r => .next ((s.setRun src r).endLayers src).settle := by
  simp only [execBwdRunSelect, h, hbwd, Bool.not_true, Bool.false_eq_true, if_false] <;> rfl

theorem execWgradFenceSignal_at {s : State} {src : QSrc} {k : Cmd} {r : LayerRun} {pos : Nat} (hk : s.cmdOf src = some k)
    (hr : k.stage = .layers r) (hpos : r.signal = some pos) :
    execWgradFenceSignal src s =
      if s.memBusy src = true then .next s
      else if s.fenceUse (ctxOf src) (entryAt (r.entry pos) 18 2) (BitVec.ofNat 64 (entryAt (r.entry pos) 32 8)) false ≠ 0 then
        .next (s.fail src (s.fenceUse (ctxOf src) (entryAt (r.entry pos) 18 2) (BitVec.ofNat 64 (entryAt (r.entry pos) 32 8)) false)
          0 0).settle
      else if s.mirrorDenied src = true then .next (s.fail src 0x1805 0 0).settle
      else .next (((s.setRun src { r with signal := none }).signal src (entryAt (r.entry pos) 18 2)
        (BitVec.ofNat 64 (entryAt (r.entry pos) 32 8))).endIfSpent src).settle := by
  simp only [execWgradFenceSignal, hk, hr, hpos]

/-! ## Which run follows (R203, R212) -/

section
variable {s : State} {c n p : Nat} {rest : List Nat} {r : LayerRun}

theorem State.pickWgrad_plain (h : s.recomputes c (r.entry p) = false) : s.pickWgrad c r p = takeWgrad r p := by
  rw [State.pickWgrad, h]
  rfl

theorem State.pickDgrad_plain (h : s.recomputes c (r.entry r.next) = false) : s.pickDgrad c r (some 0) = .run r.next .dgrad r := by
  simp only [State.pickDgrad, h, Bool.false_eq_true, if_false]

theorem State.pickBwd_full (hr : r.recompOf = none) (hfull : r.deferMax ≤ r.deferred.length) (hp : r.deferred = p :: rest) :
    s.pickBwd c (n + 1) r = s.pickWgrad c r p := by
  rw [hp] at hfull
  simp only [State.pickBwd, hr, hp, if_pos hfull, List.head?_cons]

theorem State.pickBwd_end (hr : r.recompOf = none) (hroom : r.deferred.length < r.deferMax) (hend : r.entries.length ≤ r.next) :
    s.pickBwd c (n + 1) r = match r.deferred.head? with
      | some p => s.pickWgrad c r p
      | none => .finished r := by
  simp only [State.pickBwd, hr, if_neg (Nat.not_le.mpr hroom), if_pos hend] <;> rfl

/-- With room in the list and a layer that has a DGRAD run: a deferred WGRAD overtakes it where its fence holds it back. -/
theorem State.pickBwd_layer (hr : r.recompOf = none) (hroom : r.deferred.length < r.deferMax) (hnext : r.next < r.entries.length)
    (hrun : hasRun (r.entry r.next) 5 = true) :
    s.pickBwd c (n + 1) r =
      let waits := (entryAt (r.entry r.next) 10 1).testBit 0
      let slot := entryAt (r.entry r.next) 16 2
      let v := BitVec.ofNat 64 (entryAt (r.entry r.next) 24 8)
      match r.deferred.head? with
      | some p =>
        if waits && !s.fenceReached slot v then s.pickWgrad c r p
        else s.pickDgrad c r (if waits then s.waitEnd slot v else some 0)
      | none => s.pickDgrad c r (if waits then s.waitEnd slot v else some 0) := by
  simp only [State.pickBwd, hr, if_neg (Nat.not_le.mpr hroom), if_neg (Nat.not_le.mpr hnext), hrun, Bool.not_true, Bool.false_eq_true,
    if_false] <;> rfl

end

theorem head?_of_cons {l rest : List Nat} {p : Nat} (h : l = p :: rest) : l.head? = some p := by
  rw [h]
  rfl

/-- Settles O16: the dispatch, the steps between runs, and the rules that pick a run. -/
theorem layerCommands : Obligations.LayerCommands := by
  unfold Obligations.LayerCommands
  refine ⟨fun s q t h => ?dispatch, fun s src r => ⟨fun hidle hfwd hnext => ⟨fun hplace => ?exhausted, fun y t hplace => ?forward⟩,
      fun hidle hbwd => ⟨fun n k r' hpick => ?run, fun r' hpick => ?wait, fun code hpick => ?bad, fun r' hpick => ?finished⟩,
      fun k pos hk hr hpos => ?signal⟩,
    fun s c n r hr => ⟨fun p rest hfull hp hplain => ?full, fun hroom hnext hrun hplain hfree => ?dgrad,
      fun p rest hroom hnext hrun hheld hp hplain => ?overtakes, fun hroom hnext hrun hheld hlive hnil => ?waits,
      fun p rest hroom hend hp hplain => ?last, fun hroom hend hnil => ?ended⟩⟩
  case dispatch =>
    intro d c p n raw u codes v w x hidle hraw l hcodes hrange h1 h2 h3 h4 hnew hold hplace y
    have htokens : (countOk (field d 48 4) 1048576 && decide (field d 48 4 ≤ field d 52 4) && decide (field d 52 4 ≤ 8388608)) = true := by
      rw [countOk_of h1 h2, decide_eq_true h3, decide_eq_true h4]
      rfl
    exact descriptor_goes h (layersBody_goes (slotsFree_ok hidle) hraw hcodes hrange htokens hnew hold hplace)
  case exhausted =>
    have hexec := execLayerBoundary_idle hidle hfwd hnext
    rw [hplace] at hexec
    exact hexec
  case forward =>
    have hexec := execLayerBoundary_idle hidle hfwd hnext
    rw [hplace] at hexec
    exact hexec
  case run =>
    have hexec := execBwdRunSelect_idle hidle hbwd
    rw [hpick] at hexec
    exact hexec
  case wait =>
    have hexec := execBwdRunSelect_idle hidle hbwd
    rw [hpick] at hexec
    exact hexec
  case bad =>
    have hexec := execBwdRunSelect_idle hidle hbwd
    rw [hpick] at hexec
    exact hexec
  case finished =>
    have hexec := execBwdRunSelect_idle hidle hbwd
    rw [hpick] at hexec
    exact hexec
  case signal =>
    intro slot v
    have hexec := execWgradFenceSignal_at hk hr hpos
    refine ⟨fun hbusy => ?_, fun hidle huse => ?_, fun hidle huse hmirror => ?_⟩
    · rw [if_pos hbusy] at hexec
      exact hexec
    · rw [if_neg (ne_true_of_eq_false hidle), if_pos huse] at hexec
      exact hexec
    · rw [if_neg (ne_true_of_eq_false hidle), if_neg (not_not.mpr huse), if_neg (ne_true_of_eq_false hmirror)] at hexec
      exact hexec
  case full =>
    rw [State.pickBwd_full hr hfull hp]
    exact State.pickWgrad_plain hplain
  case dgrad =>
    rw [State.pickBwd_layer hr hroom hnext hrun]
    dsimp only
    rw [hfree]
    cases r.deferred.head? with
    | some p => exact State.pickDgrad_plain hplain
    | none => exact State.pickDgrad_plain hplain
  case overtakes =>
    obtain ⟨hwaits, hreached⟩ := hheld
    rw [State.pickBwd_layer hr hroom hnext hrun]
    dsimp only
    rw [hwaits, hreached, head?_of_cons hp]
    exact State.pickWgrad_plain hplain
  case waits =>
    obtain ⟨hwaits, hreached⟩ := hheld
    rw [State.pickBwd_layer hr hroom hnext hrun]
    dsimp only
    rw [hwaits, hnil, if_pos rfl, hlive]
    rfl
  case last =>
    rw [State.pickBwd_end hr hroom hend, head?_of_cons hp]
    exact State.pickWgrad_plain hplain
  case ended =>
    rw [State.pickBwd_end hr (by rwa [hnil]) hend, hnil]
    rfl

end Sys2Proof.Machine
end

section
/-!
PROOF. MEM_COPY and the region commands where their operands can be read and written (R148 to R156, R351): one lemma per body.
-/

namespace Sys2Proof.Machine

variable {t u w x y : State} {q : CmdIn} {d : Nat} {r : Region} {f : Fmt} {n : Nat} {o : Obj}

theorem copyBody_done {l : List Byte} (hread : vread { src := q.src, env := q.env } .copy 0x1901 (field d 8 8) (field d 24 8) t = .ok l u)
    (hwrite : vwrite { src := q.src, env := q.env } .copy 0x1901 (field d 16 8) l u = .ok () w) :
    copyBody q d t = .ok (.done 0 0 0 0) w := by
  simp only [copyBody, ok, run_bind, hread, hwrite, run_pure]

theorem xwOpenBody_done {i id : Nat} {b : Int} (hobj : getObj (t.partOf q.src) (field d 8 4) t = .ok (i, o) t)
    (hok : (!o.host && o.owner.toNat == ctxOf q.src && field d 16 8 % 64 == 0 && countOk (field d 24 4) (2 ^ 28) &&
      decide (field d 16 8 + 16 * field d 24 4 ≤ o.len) && countOk (field d 28 2) 2048) = true)
    (hid : freeRegion (t.partOf q.src) t = .ok id u)
    (hbase : windowBase (ctxOf q.src) ((field d 30 1).testBit 0) (field d 32 2) (field d 32 2) (field d 34 1) u = .ok b w)
    (hhold : takeHold q.src (field d 8 4) w = .ok () x)
    (hzero : objWrite { src := q.src, env := q.env } .reduce o (field d 16 8) (List.replicate (16 * field d 24 4) 0) x = .ok () y) :
    xwOpenBody q d t = .ok (.done 0 id (BitVec.ofInt 64 b).toNat 0) ((y.addHold i 1).setRegion id (some {
      b := b, limit := field d 28 2, contrib := 0, shed := 0, nonfin := 0, ovf := false, ovfExp := 0, ctx := BitVec.ofNat 12 (ctxOf q.src)
      obj := BitVec.ofNat 32 (field d 8 4), off := field d 16 8, elems := field d 24 4, residue := false })) := by
  simp only [xwOpenBody, okWith, run_bind, run_look, run_upd, run_pure, hobj, need_ok hok, hid, hbase, hhold, hzero]

/-- The additions of a contribution: each element of the range, as it enters the window. -/
def contributions (r : Region) (f : Fmt) (n first count : Nat) (l : List Byte) : List Add :=
  (List.range count).map fun i => { elem := first + i, first := false, win := windowOf r.b (f.decode (leAt l (n * i) n)) }

theorem xwAddBody_done {l : List Byte} {up : Upset} {hit : Nat} (hregion : regionOf q.src (field d 8 2) t = .ok r t)
    (hfmt : xwFmt (field d 32 1) = some (f, n)) (hrange : field d 12 4 + field d 16 4 ≤ r.elems) (hlimit : r.contrib + 1 ≤ r.limit)
    (hread : vread { src := q.src, env := q.env } .reduce 0x1901 (field d 24 8) (n * field d 16 4) t = .ok l u)
    (hobj : regionObj r u = .ok o u)
    (hadd : addElems { src := q.src, env := q.env } .reduce (field d 8 2) o r up hit (contributions r f n (field d 12 4) (field d 16 4) l)
      (u.setRegion (field d 8 2) (some { r with contrib := r.contrib + 1 })) = .ok () w) :
    xwAddBody up hit q d t = .ok (.done 0 0 0 0) w := by
  unfold contributions at hadd
  simp only [xwAddBody, ok, run_bind, run_look, run_upd, run_pure, hregion, hfmt, need_ok (decide_eq_true hrange),
    need_ok (decide_eq_true hlimit), hread, hobj, hadd]

theorem xwCloseBody_overflow {k : Fmt × Nat} (hregion : regionOf q.src (field d 8 2) t = .ok r t)
    (hfmt : xwFmt (field d 10 1) = some k) (hres : r.residue = false) (hovf : r.ovf = true) :
    xwCloseBody .clean q d t = .error (.fault 0x2203 (BitVec.ofInt 64 (r.ovfExp - 115)).toNat (t.elemStack r 0))
      (t.releaseRegion (field d 8 2)) := by
  simp only [xwCloseBody, run_bind, run_look, run_upd, run_flt, hregion, hfmt, hres, Bool.false_eq_true, if_false, hovf, if_true]
  rfl

/-- The elements of a region, converted. -/
def converted (r : Region) (f : Fmt) (raw : List Byte) : List Rounded :=
  (List.range r.elems).map fun i => xwConvert f r.b (BitVec.ofNat 128 (leAt raw (16 * i) 16))

theorem xwCloseBody_done {raw : List Byte} (hregion : regionOf q.src (field d 8 2) t = .ok r t)
    (hfmt : xwFmt (field d 10 1) = some (f, n)) (hres : r.residue = false) (hovf : r.ovf = false) (hobj : regionObj r t = .ok o t)
    (hread : objRead { src := q.src, env := q.env } .reduce o r.off (16 * r.elems) t = .ok raw u)
    (hwrite : vwrite { src := q.src, env := q.env } .reduce 0x1901 (field d 16 8)
      ((converted r f raw).flatMap fun x => leBytes (f.width / 8) x.bits) u = .ok () w) :
    let w1 := if (field d 11 1).testBit 0 then w else w.releaseRegion (field d 8 2)
    let w2 := if r.nonfin ≠ 0 then w1.markCode 0x2204 (t.elemStack r 0) (w1.partOf q.src) else w1
    xwCloseBody .clean q d t = .ok (.done (if r.nonfin = 0 then 0 else 0x2204) r.shed
      (r.nonfin + min ((converted r f raw).filter (·.sat)).length 0xFFFFFFFF * 2 ^ 32) 0) w2 := by
  have hclean : ¬ (Upset.clean = Upset.residue) := by decide
  unfold converted at *
  simp only [xwCloseBody, run_bind, run_look, hregion, hfmt, hres, Bool.false_eq_true, if_false, hovf, if_neg hclean,
    hobj, hread, hwrite]
  cases (field d 11 1).testBit 0 <;> by_cases hn : r.nonfin = 0 <;> simp [hn]

/-- Settles O17: the bodies of the region commands. -/
theorem reductionCommands : Obligations.ReductionCommands := by
  unfold Obligations.ReductionCommands
  intro s q t c p v
  refine ⟨fun l u w h => ?copy, fun i o id b u w x y h => ?opens, fun r f n l u o w up hit h => ?adds, fun r f n o raw u w h => ?closes⟩
  case copy =>
    intro d hread hwrite
    exact descriptor_done h (copyBody_done hread hwrite)
  case opens =>
    intro d elems off hobj hhost howner hal hcount hlen hlimit hid hbase hhold hzero
    have hok : (!o.host && o.owner.toNat == ctxOf q.src && off % 64 == 0 && countOk elems (2 ^ 28) && decide (off + 16 * elems ≤ o.len) &&
        countOk (field d 28 2) 2048) = true := by
      rw [hhost, beq_iff_eq.mpr howner, beq_iff_eq.mpr hal, hcount, decide_eq_true hlen, hlimit]
      rfl
    exact descriptor_done h (xwOpenBody_done hobj hok hid hbase hhold hzero)
  case adds =>
    intro d id first count hregion hfmt hrange hlimit hread hobj hadd
    exact descriptor_done h (xwAddBody_done hregion hfmt hrange hlimit hread hobj hadd)
  case closes =>
    intro d id hregion hfmt hres
    refine ⟨fun hovf => ?_, fun hovf hobj hread => ?_⟩
    · exact descriptor_faults h (xwCloseBody_overflow hregion hfmt hres hovf)
    · intro out hwrite w1 w2
      exact descriptor_done h (xwCloseBody_done hregion hfmt hres hovf hobj hread hwrite)

end Sys2Proof.Machine
end

section
/-!
PROOF. Collectives (R152, R157 to R167): the start of COLL_RUN, headers and aborts, the phases, and the exchanges at the end.
-/

namespace Sys2Proof.Machine

/-! ## Steps of a command in flight -/

theorem forCommand_done {s u : State} {q : QSrc} {body : M Fin} {c r0 r1 x : Nat} (hroom : s.gateRoom = true)
    (h : body s = .ok (.done c r0 r1 x) u) : forCommand q body s = .next (u.finish q c r0 r1 x).settle := by
  simp only [forCommand, if_pos hroom, State.runFor, h]

theorem forCommand_goes {s u : State} {q : QSrc} {body : M Fin} {st : CmdStage} (hroom : s.gateRoom = true)
    (h : body s = .ok (.runs st) u) : forCommand q body s = .next (u.setCmd q fun c => { c with stage := st }).settle := by
  simp only [forCommand, if_pos hroom, State.runFor, h]

theorem forCommand_faults {s u : State} {q : QSrc} {body : M Fin} {c x i : Nat} (hroom : s.gateRoom = true)
    (h : body s = .error (.fault c x i) u) : forCommand q body s = .next (u.fail q c x i).settle := by
  simp only [forCommand, if_pos hroom, State.runFor, h]

/-! ## COLL_RUN (R157 to R159, R166) -/

/-- The collective as COLL_RUN adds it: alone, a rank goes on at once. -/
def firstColl (q : QSrc) (d : Nat) (tab : List Byte) : Coll :=
  let c := Coll.start q d tab (cdRanks d) .headers none
  if cdRanks d = 1 then { c with stage := c.after } else c

/-- The state with it. -/
def State.withColl (s : State) (c : Coll) : State := { s with colls := s.colls ++ [c] }

section
variable {t u w w2 w3 w4 z : State} {q : CmdIn} {d0 : Nat} {raw tab : List Byte} {y : Coll}

theorem collRunBody_goes (hn : (t.colls.filter fun x => x.opt.isNone).length < 16) (hal : field d0 8 8 % 64 = 0)
    (hraw : vread { src := q.src, env := q.env } .copy 0x1901 (field d0 8 8) 64 t = .ok raw u)
    (hok : collDescOk (ofLe raw) = true) (hscratch : cdAdds (ofLe raw) = true → u.scratchMapped (ctxOf q.src) (ofLe raw) = true)
    (htab : vread { src := q.src, env := q.env } .copy 0x1901 (field (ofLe raw) 40 8) (2 * cdRanks (ofLe raw)) u = .ok tab w)
    (hranks : w.rankTableOk (t.partOf q.src) tab (cdRanks (ofLe raw)) (cdRank (ofLe raw)) = true)
    (hadds : cdAdds (ofLe raw) = true → ∃ b w2 reg w3,
      windowBase (ctxOf q.src) ((field (ofLe raw) 0 2).testBit 12) (field (ofLe raw) 6 2) (field (ofLe raw) 2 2) (field (ofLe raw) 4 1)
        (w.withColl (firstColl q.src (ofLe raw) tab)) = .ok b w2 ∧
      openLanding q (ofLe raw) b w2 = .ok reg w3 ∧ w4 = w3.setColl q.src fun x => { x with base := b, region := some reg })
    (hmoves : cdAdds (ofLe raw) = false → w4 = w.withColl (firstColl q.src (ofLe raw) tab)) (hy : w4.coll q.src = some y)
    (htell : tellAll q.src 0 (headerBytes (y.header (((w4.part (t.partOf q.src)).slice.map (·.toNat)).getD 0))) w4 = .ok () z) :
    collRunBody q d0 t = .ok (.runs .coll) z := by
  obtain ⟨d, hd⟩ : ∃ d, ofLe raw = d := ⟨_, rfl⟩
  rw [hd] at hok hscratch htab hranks hadds hmoves
  have hfew : ¬ 16 ≤ (t.colls.filter fun x => x.opt.isNone).length := Nat.not_le.mpr hn
  cases ha : cdAdds d with
  | true =>
    obtain ⟨b, w2, reg, w3, hbase, hopen, hw4⟩ := hadds ha
    rw [hw4] at hy htell
    simp only [State.withColl, firstColl] at hbase
    simp only [collRunBody, run_bind, run_look, run_upd, run_pure, if_neg hfew, need_ok (beq_iff_eq.mpr hal), hraw, hd, need_ok hok,
      ha, if_true, Bool.not_true, Bool.false_or, need_ok (hscratch ha), htab, need_ok hranks, hbase, hopen, hy, htell]
  | false =>
    rw [hmoves ha] at hy htell
    simp only [State.withColl, firstColl] at hy htell
    simp only [collRunBody, run_bind, run_look, run_upd, run_pure, if_neg hfew, need_ok (beq_iff_eq.mpr hal), hraw, hd, need_ok hok,
      ha, Bool.false_eq_true, if_false, Bool.not_false, Bool.true_or, need_ok, htab, hranks, hy, htell]

end

/-! ## Headers and aborts (R159, R162) -/

theorem contains_ofNat (l : List (BitVec 10)) (peer : BitVec 10) : l.contains (BitVec.ofNat 10 peer.toNat) = l.contains peer := by
  rw [BitVec.ofNat_toNat, BitVec.setWidth_eq]

section
variable {s : State} {q : QSrc} {peer : BitVec 10} {c : Coll} {h : CollHeader}

theorem headerBody_differs (hc : s.coll q = some c) (hstage : c.stage = .headers) (hpeer : peer.toNat ∈ c.peers)
    (hne : h ≠ c.header ((((s.part (s.partOf q)).slice).map (·.toNat)).getD 0)) :
    headerBody q peer.toNat h s = .error (.fault 0x2A03 0 0) s := by
  have hwait : ¬ (c.stage ≠ .headers ∨ (!c.peers.contains peer.toNat) = true) := by simp [hstage, hpeer]
  simp only [headerBody, run_bind, run_look, hc, if_neg hwait, decide_eq_false hne, run_need, Bool.false_eq_true, if_false]

theorem headerBody_agrees (hc : s.coll q = some c) (hstage : c.stage = .headers) (hpeer : peer.toNat ∈ c.peers)
    (heq : h = c.header ((((s.part (s.partOf q)).slice).map (·.toNat)).getD 0)) :
    let seen := if c.seen.contains peer then c.seen else c.seen ++ [peer]
    headerBody q peer.toNat h s = .ok (.runs .coll) (s.setColl q fun x => { x with
      seen := seen, stage := if seen.length = c.peers.length then .phases else .headers }) := by
  have hwait : ¬ (c.stage ≠ .headers ∨ (!c.peers.contains peer.toNat) = true) := by simp [hstage, hpeer]
  simp only [headerBody, run_bind, run_look, run_upd, run_pure, hc, if_neg hwait, need_ok (decide_eq_true heq), BitVec.ofNat_toNat,
    BitVec.setWidth_eq]

theorem execCollAbort_faults (hroom : s.gateRoom = true) (hc : s.coll q = some c) (hpeer : peer.toNat ∈ c.peers) :
    execCollAbort q peer s = .next (s.fail q 0x2A06 0 0).settle := by
  refine forCommand_faults hroom ?_
  simp only [run_bind, run_look, hc, List.contains_iff_mem.mpr hpeer, if_true, run_flt]

end

/-! ## Phases (R160, R164, R167) -/

section
variable {s t u : State} {v : Via} {x : PhaseIn} {c e : Coll} {f : Fmt} {w : Nat}

theorem phaseBody_goes (hc : s.coll x.src = some c) (hstage : c.stage = .phases ∨ c.stage = .spread) (hopt : c.opt = none)
    (hpeer : x.peer.toNat ∈ c.peers) (hhold : (s.part (s.partOf x.src)).holder = some (BitVec.ofNat 12 (ctxOf x.src)))
    (hlen : x.data.length ≤ 2 ^ 22) (hmove : phaseMove { src := x.src, env := x.env } c x s = .ok () t) :
    phaseBody x s = .ok (.runs .coll) (t.arrived c x) := by
  have hwait : ¬ ((c.stage ≠ .phases ∧ c.stage ≠ .spread) ∨ c.opt.isSome = true ∨ (!c.peers.contains x.peer.toNat) = true
      ∨ (!true) = true ∨ 2 ^ 22 < x.data.length) := by
    have hfew : ¬ 2 ^ 22 < x.data.length := Nat.not_lt.mpr hlen
    rcases hstage with h | h
    · simp only [h, hopt, hpeer, hfew, ne_eq, not_true, false_and, Option.isSome_none, Bool.false_eq_true, List.contains_iff_mem.mpr,
        Bool.not_true, or_self, not_false_eq_true]
    · simp only [h, hopt, hpeer, hfew, ne_eq, not_true, and_false, Option.isSome_none, Bool.false_eq_true, List.contains_iff_mem.mpr,
        Bool.not_true, or_self, not_false_eq_true]
  simp only [phaseBody, run_bind, run_look, run_upd, run_pure, hc, decide_eq_true hhold, if_neg hwait, hmove]

/-- The stage of a reduction that may have gathered all. -/
def State.gatherEnd (z : State) (q : QSrc) : State := z.setColl q fun y => if y.gathered then { y with stage := .closing } else y

theorem phaseMove_gather (hr : c.reduces = true) (hs : c.stage = .phases) : phaseMove v c x s = gatherMove v c x s := by
  simp only [phaseMove, hr, hs, decide_true, Bool.and_self, if_true]

theorem gatherMove_lands (hf : xwFmt (cdSrcFmt c.desc.toNat) = some (f, w)) (hout : x.out = none) (hdata : x.data ≠ [])
    (hc : s.coll v.src = some e) (hland : landPiece v f w e x s = .ok () t) :
    gatherMove v c x s = .ok () (t.gatherEnd v.src) := by
  have hany : (!x.data.isEmpty) = true := by simpa using hdata
  simp [gatherMove, hf, hout, hdata, hc, hland, hany, State.gatherEnd]

theorem gatherMove_sends {o : PhaseOut} (hf : xwFmt (cdSrcFmt c.desc.toNat) = some (f, w)) (hout : x.out = some o) (hdata : x.data = [])
    (hsend : sendPiece v x.up x.hit f w c o s = .ok () t) : gatherMove v c x s = .ok () (t.gatherEnd v.src) := by
  simp [gatherMove, hf, hout, hdata, hsend, State.gatherEnd]

theorem gatherMove_both {o : PhaseOut} (hf : xwFmt (cdSrcFmt c.desc.toNat) = some (f, w)) (hout : x.out = some o) (hdata : x.data ≠ [])
    (hsend : sendPiece v x.up x.hit f w c o s = .ok () t) (hc : t.coll v.src = some e) (hland : landPiece v f w e x t = .ok () u) :
    gatherMove v c x s = .ok () (u.gatherEnd v.src) := by
  have hany : (!x.data.isEmpty) = true := by simpa using hdata
  simp [gatherMove, hf, hout, hdata, hsend, hc, hland, hany, State.gatherEnd]

/-- What a peer has sent, and the final exchange once every peer has sent all. -/
def State.gotEnd (z : State) (q : QSrc) (peer k : Nat) : State := z.setColl q fun y =>
  let y := { y with got := tput 0 y.got peer (tget 0 y.got peer + k) }
  if y.peers.all fun r => decide (y.total ≤ tget 0 y.got r) then { y with stage := .final } else y

theorem phaseMove_spread {k : Nat} (hgot : tget 0 c.got x.peer.toNat < c.total) (hr : c.reduces = true) (hs : c.stage = .spread)
    (hup : x.up ≠ .residue) (hmove : spreadMove v c x.peer.toNat x.data s = .ok k u) :
    phaseMove v c x s = .ok () (u.gotEnd v.src x.peer.toNat k) := by
  simp [phaseMove, hr, hs, hup, Nat.not_le.mpr hgot, hmove, State.gotEnd]

theorem phaseMove_copy {k : Nat} (hgot : tget 0 c.got x.peer.toNat < c.total) (hr : c.reduces = false)
    (hown : ownLands v .clean 0 c s = .ok () t) (hmove : copyMove v c x.peer.toNat x.data t = .ok k u) :
    phaseMove v c x s = .ok () (u.gotEnd v.src x.peer.toNat k) := by
  simp [phaseMove, hr, Nat.not_le.mpr hgot, hown, hmove, State.gotEnd]

end

/-! ## The exchanges at the end (R152, R160 to R162) -/

section
variable {s t u w : State} {q : QSrc} {c : Coll} {env : Env} {peers : List ClosingIn} {up : Upset} {hit : Nat} {r : Region}

/-- The totals of a region that a rank tells. -/
def Region.totals (r : Region) : List Byte :=
  [BitVec.ofNat 8 (b2n r.ovf)] ++ leBytes 2 (BitVec.ofInt 16 r.ovfExp).toNat ++ leBytes 8 r.shed ++ leBytes 4 r.nonfin

/-- Every peer has told its totals. -/
structure ClosingMet (s : State) (q : QSrc) (c : Coll) (peers : List ClosingIn) : Prop where
  coll : s.coll q = some c
  stage : c.stage = .closing
  count : peers.length = c.peers.length
  all : ∀ k ∈ c.peers, ∃ x ∈ peers, x.peer.toNat = k

theorem ClosingMet.ready (h : ClosingMet s q c peers) :
    ¬ (c.stage ≠ .closing ∨ (!c.peers.all fun r => peers.any fun x => x.peer.toNat == r) = true ∨ peers.length ≠ c.peers.length) := by
  have hall : (c.peers.all fun r => peers.any fun x => x.peer.toNat == r) = true :=
    List.all_eq_true.mpr fun k hk =>
      have ⟨x, hx, hp⟩ := h.all k hk
      List.any_eq_true.mpr ⟨x, hx, beq_iff_eq.mpr hp⟩
  simp [h.stage, h.count, hall]

theorem noOverflow (h : ∀ x ∈ peers, x.ovfExp = none) : peers.filterMap (·.ovfExp) = [] := List.filterMap_eq_nil_iff.mpr h

variable (h : ClosingMet s q c peers) (hown : ownLands { src := q, env := env } up hit c s = .ok () t)
  (hregion : c.region.bind t.region = some r) (htell : tellAll q 1 r.totals t = .ok () u)
include h hown hregion htell

theorem closingBody_merges (hr : r.ovf = false) (hp : ∀ x ∈ peers, x.ovfExp = none) :
    closingBody q peers up hit env s = .ok (.runs .coll) (u.setColl q fun x => { x with
      shed := (r.shed + (peers.map (·.shed.toNat)).sum) % 2 ^ 64
      nonfin := min 0xFFFFFFFF (r.nonfin + (peers.map (·.nonfin.toNat)).sum)
      stage := if cdOp x.desc.toNat = 2 && !x.peers.isEmpty then .spread else .final }) := by
  unfold Region.totals at htell
  simp only [hr] at htell
  simp only [closingBody, run_bind, run_look, run_upd, run_pure, h.coll, if_neg h.ready, hown, hregion, hr, htell, noOverflow hp,
    Bool.false_eq_true, if_false, List.nil_append, List.foldl_nil]

theorem closingBody_overflow (hr : r.ovf = true) (hp : ∀ x ∈ peers, x.ovfExp = none) (hreran : c.reran = true) :
    closingBody q peers up hit env s = .error (.fault 0x2203 (BitVec.ofInt 64 (r.ovfExp - 115)).toNat 0) u := by
  unfold Region.totals at htell
  simp only [hr] at htell
  simp only [closingBody, run_bind, run_look, run_flt, h.coll, if_neg h.ready, hown, hregion, hr, htell, noOverflow hp,
    if_true, List.append_nil, List.foldl_cons, List.foldl_nil, hreran]

/-- The collective as it reduces again in a higher window. -/
def Coll.again (b : Int) (x : Coll) : Coll :=
  { x with
    base := b, slots := [], landed := [], sent := [], own := false, reran := true
    stage := if x.peers.isEmpty then .closing else .phases }

theorem closingBody_reruns {id : Nat} (hr : r.ovf = true) (hp : ∀ x ∈ peers, x.ovfExp = none) (hreran : c.reran = false)
    (hid : c.region = some id) :
    closingBody q peers up hit env s = .ok (.runs .coll) (State.fromData (State.setRegion (u.setColl q (Coll.again (r.ovfExp - 115))) id
      (some { r with b := r.ovfExp - 115, contrib := 0, shed := 0, nonfin := 0, ovf := false, ovfExp := 0 }))
        (count2 (s.partOf q) .coll 0 0x58 1 ++ [.cond .coll 0 0 (s.partOf q)])) := by
  unfold Region.totals at htell
  simp only [hr] at htell
  rw [hid] at hregion
  simp only [closingBody, run_bind, run_look, run_upd, run_pure, h.coll, if_neg h.ready, hown, hid, hregion, hr, htell, noOverflow hp,
    if_true, List.append_nil, List.foldl_cons, List.foldl_nil, hreran, Bool.false_eq_true, if_false]
  rfl

end

/-- What the completion of a collective leaves of it. -/
def State.collDone (w : State) (q : QSrc) (c : Coll) (p : Nat) : State :=
  let a := match c.region with
    | some r => w.releaseRegion r
    | none => w
  let a := { a with colls := a.colls.filter fun x => !decide (x.src = q) }
  let a := if p < 63 then a.bump64 (p + 1) .coll 0 0x60 1 else a
  if c.nonfin ≠ 0 then a.markCode 0x2A05 0 p else a

theorem finalBody_done {s t w : State} {q : QSrc} {c : Coll} {env : Env} (hc : s.coll q = some c) (hstage : c.stage = .final)
    (hsums : c.reduces = true → writeSums { src := q, env := env } c s = .ok () t)
    (hown : c.reduces = false → ownLands { src := q, env := env } .clean 0 c s = .ok () t)
    (htell : tellAll q 2 [] (if c.touched then t.spoilColl c else t) = .ok () w) :
    finalBody q .clean env s = .ok (.done (if c.nonfin = 0 then 0 else 0x2A05) c.shed
      (c.nonfin + (BitVec.ofInt 16 c.base).toNat * 2 ^ 32) 0) (w.collDone q c (s.partOf q)) := by
  have hwait : ¬ c.stage ≠ .final := not_not.mpr hstage
  cases hr : c.reduces with
  | true =>
    cases htouched : c.touched with
    | true =>
      rw [htouched, if_pos rfl] at htell
      simp only [finalBody, run_bind, run_look, run_upd, run_pure, hc, if_neg hwait, reduceCtorEq, false_and, if_false, hr, if_true, hsums hr, htouched, htell]
      rfl
    | false =>
      rw [htouched, if_neg Bool.false_ne_true] at htell
      simp only [finalBody, run_bind, run_look, run_upd, run_pure, hc, if_neg hwait, reduceCtorEq, false_and, if_false, hr, if_true, hsums hr, htouched,
        Bool.false_eq_true, if_false, htell]
      rfl
  | false =>
    cases htouched : c.touched with
    | true =>
      rw [htouched, if_pos rfl] at htell
      simp only [finalBody, run_bind, run_look, run_upd, run_pure, hc, if_neg hwait, reduceCtorEq, false_and, hr, Bool.false_eq_true, if_false,
        hown hr, htouched, if_true, htell]
      rfl
    | false =>
      rw [htouched, if_neg Bool.false_ne_true] at htell
      simp only [finalBody, run_bind, run_look, run_upd, run_pure, hc, if_neg hwait, reduceCtorEq, false_and, hr, Bool.false_eq_true, if_false,
        hown hr, htouched, htell]
      rfl

/-- Settles O19: one lemma for each step of a collective. -/
theorem collectiveCommands : Obligations.CollectiveCommands := by
  unfold Obligations.CollectiveCommands
  refine ⟨fun s => ⟨fun q t h => ?run, fun q peer h c hroom hc hstage hpeer => ⟨fun hne => ?differs, fun heq => ?agrees⟩,
      fun q peer c hroom hc hpeer => execCollAbort_faults hroom hc hpeer⟩,
    fun s x c => ⟨fun t hroom hc hstage hopt hpeer hhold hlen hmove => ?phase, fun f w t u e hr hs hf => ⟨fun hout hdata hc hland => ?lands,
      fun o hout hsend => ⟨fun hdata => ?sends, fun hdata hc hland => ?both⟩⟩,
      fun k t u hgot => ⟨fun hr hs hup hmove => ?spread, fun hr hown hmove => ?copies⟩⟩,
    fun s q c env hroom hc => ⟨fun peers up hit t u r hstage hcount hall hown hregion htell => ⟨fun hr hp => ?merges, fun hr hp hreran => ?twice,
      fun id hr hp hreran hid => ?again⟩, fun t w hstage hsums hown htell => ?final⟩,
    fun s src c hroom hc hstage => ?timeout⟩
  case run =>
    intro d0 p v raw u tab w w4 y z hn hal hraw d hok hscratch htab hranks c c' w1 hadds hmoves hy htell
    exact descriptor_goes h (collRunBody_goes hn hal hraw hok hscratch htab hranks hadds hmoves hy htell)
  case differs =>
    exact forCommand_faults hroom (headerBody_differs hc hstage hpeer hne)
  case agrees =>
    exact forCommand_goes hroom (headerBody_agrees hc hstage hpeer heq)
  case phase =>
    exact forCommand_goes hroom (phaseBody_goes hc hstage hopt hpeer hhold hlen hmove)
  case lands =>
    exact (phaseMove_gather hr hs).trans (gatherMove_lands hf hout hdata hc hland)
  case sends =>
    exact (phaseMove_gather hr hs).trans (gatherMove_sends hf hout hdata hsend)
  case both =>
    exact (phaseMove_gather hr hs).trans (gatherMove_both hf hout hdata hsend hc hland)
  case spread =>
    exact phaseMove_spread hgot hr hs hup hmove
  case copies =>
    exact phaseMove_copy hgot hr hown hmove
  case merges =>
    exact forCommand_goes hroom (closingBody_merges ⟨hc, hstage, hcount, hall⟩ hown hregion htell hr hp)
  case twice =>
    exact forCommand_faults hroom (closingBody_overflow ⟨hc, hstage, hcount, hall⟩ hown hregion htell hr hp hreran)
  case again =>
    exact forCommand_goes hroom (closingBody_reruns ⟨hc, hstage, hcount, hall⟩ hown hregion htell hr hp hreran hid)
  case final =>
    exact forCommand_done hroom (finalBody_done hc hstage hsums hown htell)
  case timeout =>
    refine forCommand_faults hroom ?_
    simp only [run_bind, run_look, hc, hstage, if_true, run_flt]

end Sys2Proof.Machine
end

section
/-!
PROOF. EXEC_OPTIM and the replica digests as commands (R67, R179 to R187, R276, R380, R381).
-/

namespace Sys2Proof.Machine

/-! ## EXEC_OPTIM -/

/-- What a record must keep beside its form (R179): its hyper record is valid and its planes are mapped. -/
def optSound (x : Context) (h : List Byte) (l : List TRec) (r : TRec) : Bool := hyperOk h l r.hyper && (r.gradPlane :: r.planes).all x.maps

/-- The records in order, each with what it shares. -/
def optRun (q : CmdIn) (up : Option (BitVec 7 × Nat)) (h : List Byte) (rs : List TRec) (shared : List Shared) : M (List (Nat × Nat)) :=
  ((List.range rs.length).zip (rs.zip shared)).mapM fun e => do
    laneResidue q.src up e.1
    optRecord { src := q.src, env := q.env } h e.2.2 e.2.1

section
variable {t u w w1 w2 : State} {q : CmdIn} {d : Nat} {up : Option (BitVec 7 × Nat)} {h : List Byte} {rs : List TRec}

theorem optimBody_badTable {i : Nat} (hfree : slotsFree q.src t = .ok () t)
    (hh : vread { src := q.src, env := q.env } .copy 0x1901 (field d 24 8) 512 t = .ok h u)
    (hrs : readTable { src := q.src, env := q.env } (field d 8 8) (field d 16 4) (optSound (t.ctx (ctxOf q.src)) h) u =
      .error (.fault 0x1410 i 0) w) : optimBody up q d t = .error (.fault 0x1410 i 0) w := by
  unfold optSound at hrs
  simp only [optimBody, run_bind, run_look, hfree, hh, hrs]

variable (hfree : slotsFree q.src t = .ok () t)
  (hh : vread { src := q.src, env := q.env } .copy 0x1901 (field d 24 8) 512 t = .ok h u)
  (hrs : readTable { src := q.src, env := q.env } (field d 8 8) (field d 16 4) (optSound (t.ctx (ctxOf q.src)) h) u = .ok rs w)
  (hplace : placeShares (ctxOf q.src) (w.partOf q.src) w = .ok () w1)
  (hawake : (w1.onClusters (w.partOf q.src) fun k => { k with worked := true, pwr := if k.pwr = .idle then .active else k.pwr }) = w2)
include hfree hh hrs hplace hawake

/-- Beyond its table the command wakes the partition's clusters (R67) and runs its records. -/
theorem optimBody_done {out : List (Nat × Nat)} (hrun : optRun q up h rs (w2.optShared (ctxOf q.src) rs) w2 = .ok out y) :
    optimBody up q d t = .ok (.done (if (out.map (·.1)).sum = 0 ∧ (out.map (·.2)).sum = 0 then 0 else 0x1411) (out.map (·.1)).sum
      (out.map (·.2)).sum 0) y := by
  unfold optSound at hrs
  unfold optRun at hrun
  simp only [optimBody, run_bind, run_look, run_upd, run_pure, hfree, hh, hrs, hplace, hawake, hrun]

theorem optimBody_faults {i : Nat} (hrun : optRun q up h rs (w2.optShared (ctxOf q.src) rs) w2 = .error (.fault 0x1402 0 i) y) :
    optimBody up q d t = .error (.fault 0x1402 0 i) y := by
  unfold optSound at hrs
  unfold optRun at hrun
  simp only [optimBody, run_bind, run_look, run_upd, hfree, hh, hrs, hplace, hawake, hrun]

end

/-! ## OPT_DIGEST -/

/-- The planes that a digest reads. -/
def digestMapped (x : Context) (hiOnly : Bool) (_ : List TRec) (r : TRec) : Bool :=
  ((r.hi, 2 * r.count) :: (if hiOnly then [] else [(r.lo, 2 * r.count)])).all x.maps

/-- The digest of a step's groups. -/
def stepDigest (steps : Word64) (parts : List (List Byte)) : BitVec 256 :=
  (Config.shake256 (leBytes 8 steps.toNat ++ parts.flatten)).setWidth 256

/-- The collective of a digest's exchange. -/
def digestColl (q : QSrc) (d : Nat) (tab : List Byte) (dig : BitVec 256) (steps : Word64) : Coll :=
  Coll.start q (b2n ((field d 40 1).testBit 0) + field d 32 2 * 2 ^ (8 * 36) + field d 34 2 * 2 ^ (8 * 38) + field d 36 4 * 2 ^ (8 * 48)) tab
    (field d 32 2) (if field d 32 2 = 1 then .phases else .headers) (some (dig, steps))

theorem optDigestBody_goes {t u w y z : State} {q : CmdIn} {d : Nat} {rs : List TRec} {tab : List Byte} {parts : List (List Byte)}
    (hrs : readTable { src := q.src, env := q.env } (field d 8 8) (field d 16 4)
      (digestMapped (t.ctx (ctxOf q.src)) ((field d 40 1).testBit 0)) t = .ok rs u)
    (htab : vread { src := q.src, env := q.env } .copy 0x1901 (field d 24 8) (2 * field d 32 2) u = .ok tab w)
    (hranks : w.rankTableOk (t.partOf q.src) tab (field d 32 2) (field d 34 2) = true)
    (hparts : (rs.mapM fun r => digestPart { src := q.src, env := q.env } ((t.ctx (ctxOf q.src)).steps.toNat % 16)
      ((field d 40 1).testBit 0) r) w = .ok parts y)
    (htell : let dig := stepDigest (t.ctx (ctxOf q.src)).steps parts
      let c := digestColl q.src d tab dig (t.ctx (ctxOf q.src)).steps
      tellAll q.src 0 (headerBytes (c.header ((((y.withColl c).part (t.partOf q.src)).slice.map (·.toNat)).getD 0)) ++ leBytes 32 dig.toNat)
        (y.withColl c) = .ok () z) :
    optDigestBody q d t = .ok (.runs .coll) z := by
  unfold digestMapped at hrs
  unfold stepDigest digestColl State.withColl at htell
  dsimp only at htell
  simp only [optDigestBody, run_bind, run_look, run_upd, run_pure, hrs, htab, need_ok hranks, hparts, htell]

/-! ## DIGEST_EXCHANGE -/

/-- The state that a divergence is found in: it is a detection event, and a rank that is not of the majority is SUSPECT. -/
def State.diverged (u : State) (q : QSrc) (code : Nat) (steps : Word64) : State :=
  if code = 0 then u
  else
    let x := u.ctx (ctxOf q)
    let s := if code = 0x1A42 then u
      else u.setCtx (ctxOf q) { x with suspect := true, rollbackAt := if code = 0x1A43 then some steps else x.rollbackAt }
    s.detect (s.partOf q)

theorem digestBody_done {s t : State} {q : QSrc} {others : List (BitVec 256)} {c : Coll} {dig : BitVec 256} {steps : Word64}
    (hc : s.coll q = some c) (hopt : c.opt = some (dig, steps)) (hstage : c.stage = .phases)
    (hhold : (s.part (s.partOf q)).holder = some (BitVec.ofNat 12 (ctxOf q))) (hlen : others.length = c.peers.length)
    (htell : tellAll q 2 [] s = .ok () t) :
    digestBody q others s = .ok (.done (digestOutcome dig others) steps.toNat (dig.toNat % 2 ^ 64) 0)
      (State.diverged { t with colls := t.colls.filter fun x => !decide (x.src = q) } q (digestOutcome dig others) steps) := by
  have hgo : ¬ (c.stage ≠ .phases ∨ others.length ≠ c.peers.length ∨ (!true) = true) := by simp [hstage, hlen]
  simp only [digestBody, run_bind, run_look, run_upd, run_pure, hc, hopt, decide_eq_true hhold, if_neg hgo, htell]
  rfl

/-- Settles O21: the bodies of the three commands. -/
theorem optimiserAndDigest : Obligations.OptimiserAndDigest := by
  unfold Obligations.OptimiserAndDigest
  refine ⟨fun s q up t h => ?optim, fun s => ⟨fun q t h => ?digest, fun src others c dig steps t hroom hc hopt hstage hhold hlen htell => ?exchange⟩⟩
  case optim =>
    intro d x v hy u hidle hh sound
    refine ⟨fun i w hrs => ?_, fun rs w w1 hrs hplace => ?_⟩
    · exact descriptor_faults h (optimBody_badTable (slotsFree_ok hidle) hh hrs)
    · intro w2 run
      exact ⟨fun out y hrun => descriptor_done h (optimBody_done (slotsFree_ok hidle) hh hrs hplace rfl hrun),
        fun i y hrun => descriptor_faults h (optimBody_faults (slotsFree_ok hidle) hh hrs hplace rfl hrun)⟩
  case digest =>
    intro d x v n hiOnly rs u tab w parts y z hrs htab hranks hparts dig desc c y' htell
    exact descriptor_goes h (optDigestBody_goes hrs htab hranks hparts htell)
  case exchange =>
    exact forCommand_done hroom (digestBody_done hc hopt hstage hhold hlen htell)

end Sys2Proof.Machine
end

section
/-!
PROOF. STEP_MARK and SCALE_DECLARE as commands (R129 to R132, R359).
-/

namespace Sys2Proof.Machine

/-! ## STEP_MARK, point by point -/

section
variable {t u : State} {q : CmdIn} {d : Nat} {peers : List MergeIn} {most : Nat → Word32} {sums : Nat → Nat × Nat}

/-- The count of a STEP_MARK is 0 or the next one. -/
def countFits (t : State) (c n : Nat) : Bool := n == 0 || decide (n = ((t.ctx c).steps.toNat + 1) % 2 ^ 64)

theorem stepMarkBody_badCount (h : countFits t (ctxOf q.src) (field d 8 8) = false) :
    stepMarkBody peers q d t = .error (.fault 0x1A63 0 0) t := by
  unfold countFits at h
  simp only [stepMarkBody, run_bind, run_look, run_need, h, Bool.false_eq_true, if_false]

variable (hcount : countFits t (ctxOf q.src) (field d 8 8) = true) (hbusy : t.proofBusy (ctxOf q.src) = false)
  (hmerge : mergeStep q.src (ctxOf q.src) (t.partOf q.src) peers t = .ok (most, sums) u)
include hcount hbusy hmerge

theorem stepMarkBody_mismatch {k : BitVec 2} (hk : (u.ctx (ctxOf q.src)).prfPend = some k) :
    stepMarkBody peers q d t = .error (.fault 0x1601 0 k.toNat)
      (u.setCtx (ctxOf q.src) { u.ctx (ctxOf q.src) with prfPend := none }) := by
  unfold countFits at hcount
  simp only [stepMarkBody, run_bind, run_look, run_upd, run_flt, need_ok hcount, hbusy, Bool.false_eq_true, if_false, hmerge, hk]

/-- The count rises by one, and the checkpoints that are due are promoted. -/
def State.stepCount (w : State) (c : Nat) : State :=
  (w.setCtx c (Context.reached { w.ctx c with steps := (w.ctx c).steps + 1 })).promote c

theorem stepMarkBody_marks {w : State} {stop : Bool} (hnone : (u.ctx (ctxOf q.src)).prfPend = none)
    (hw : (u.stepTensors (ctxOf q.src) most).stepLayers (ctxOf q.src) sums = (w, stop)) :
    stepMarkBody peers q d t =
      if stop then .error (.fault 0x1507 0 0) (w.stepCount (ctxOf q.src))
      else .ok (.done 0 ((w.stepCount (ctxOf q.src)).ctx (ctxOf q.src)).steps.toNat 0 0) (w.stepCount (ctxOf q.src)) := by
  unfold countFits at hcount
  simp only [stepMarkBody, okWith, run_bind, run_look, run_upd, run_act, run_pure, need_ok hcount, hbusy, Bool.false_eq_true, if_false,
    hmerge, hnone, hw, run_need]
  cases stop
  · rfl
  · rfl

end

theorem countFits_eq_true {t : State} {c n : Nat} (h : n = 0 ∨ n = ((t.ctx c).steps.toNat + 1) % 2 ^ 64) : countFits t c n = true := by
  simpa [countFits] using h

theorem countFits_eq_false {t : State} {c n : Nat} (h0 : n ≠ 0) (h : n ≠ ((t.ctx c).steps.toNat + 1) % 2 ^ 64) :
    countFits t c n = false := by
  unfold countFits
  rw [decide_eq_false h, beq_eq_false_iff_ne.mpr h0]
  rfl

/-! ## SCALE_DECLARE -/

/-- The records of a table. -/
def scaleRecs (l : List Byte) (n : Nat) : List Nat := (List.range n).map fun i => leAt l (16 * i) 16

/-- A table applied. -/
def State.declare (u : State) (c : Nat) (recs : List Nat) : State := recs.foldl (fun a r => a.applyRec c r) u

section
variable {t u : State} {q : CmdIn} {d : Nat} {l : List Byte}
  (hmay : (field d 18 2 == ctxOf q.src || ((t.ctx (ctxOf q.src)).admin && (t.ctx (field d 18 2)).bound &&
    (t.ctx (field d 18 2)).part.toNat == t.partOf q.src)) = true)
  (hl : vread { src := q.src, env := q.env } .copy 0x1901 (field d 8 8) (16 * field d 16 2) t = .ok l u)
include hmay hl

theorem scaleDeclareBody_bad {i : Nat} (hbad : firstBad (u.part (t.partOf q.src)).slice.isSome (u.tensorsOf (field d 18 2))
    (scaleRecs l (field d 16 2)) = some i) : scaleDeclareBody q d t = .error (.fault 0x1501 i 0) u := by
  unfold scaleRecs at hbad
  simp only [scaleDeclareBody, run_bind, run_look, run_flt, need_ok hmay, hl, hbad]

theorem scaleDeclareBody_done {new : State} {quota : Nat} (hgood : firstBad (u.part (t.partOf q.src)).slice.isSome
      (u.tensorsOf (field d 18 2)) (scaleRecs l (field d 16 2)) = none)
    (hnew : u.declare (field d 18 2) (scaleRecs l (field d 16 2)) = new) (hquota : u.reg (fnOf (t.partOf q.src)) .scl 0 0x44 0 = quota)
    (h1 : overUse (u.scaleUse (t.partOf q.src)).1 (new.scaleUse (t.partOf q.src)).1 (bits quota 30 16) = false)
    (h2 : overUse (u.scaleUse (t.partOf q.src)).2 (new.scaleUse (t.partOf q.src)).2 (bits quota 12 0) = false)
    (h3 : overUse u.tensors.length new.tensors.length 16384 = false) (h4 : overUse u.layers.length new.layers.length 4096 = false) :
    scaleDeclareBody q d t = .ok (.done 0 0 0 0) new := by
  unfold scaleRecs at hgood
  unfold State.declare scaleRecs at hnew
  simp only [scaleDeclareBody, ok, id, run_bind, run_look, run_upd, run_pure, need_ok hmay, hl, hgood, hnew, hquota, h1, h2, h3, h4,
    Bool.or_self, Bool.not_false, need_ok]

end

/-- Settles O25: the points of a STEP_MARK, and a table that is applied or named. -/
theorem stepMark : Obligations.StepMark := by
  unfold Obligations.StepMark
  refine ⟨fun s m t h => ⟨fun h0 hne => ?count, fun hn hbusy most sums u hmerge => ⟨fun k hk => ?mismatch, fun hnone => ?marks⟩⟩,
    fun s q t h hmay l u hl => ⟨fun i hbad => ?bad, fun hgood h1 h2 h3 h4 => ?declares⟩⟩
  case count =>
    exact descriptor_faults h (stepMarkBody_badCount (countFits_eq_false h0 hne))
  case mismatch =>
    exact descriptor_faults h (stepMarkBody_mismatch (countFits_eq_true hn) hbusy hmerge hk)
  case marks =>
    have hbody := stepMarkBody_marks (countFits_eq_true hn) hbusy hmerge hnone (Prod.eta _).symm
    intro w y
    split
    · next hstop =>
      rw [if_pos hstop] at hbody
      exact descriptor_faults h hbody
    · next hgoes =>
      rw [if_neg hgoes] at hbody
      exact descriptor_done h hbody
  case bad =>
    refine descriptor_faults h (scaleDeclareBody_bad ?_ hl hbad)
    simpa [and_assoc] using hmay
  case declares =>
    refine descriptor_done h (scaleDeclareBody_done ?_ hl hgood rfl rfl h1 h2 h3 h4)
    simpa [and_assoc] using hmay

end Sys2Proof.Machine
end

section
/-!
PROOF. CKPT_WRITE and CKPT_LOAD as commands (R188 to R193).
-/

namespace Sys2Proof.Machine

theorem jobOf_ok {t : State} {q : QSrc} {j : Job} (h : tget none t.sec.jobs (t.partOf q) = some j) : jobOf q t = .ok j t := by
  simp only [jobOf, run_bind, run_look, h, run_pure]

/-! ## CKPT_WRITE -/

/-- A section as it stands in the file: sealed, with its tag. -/
def sealedSection (v : Via) (master : Bool) (key : BitVec 256) (e : Nat × TRec) : M (List Byte) := do
  let l ← sectionText v master e.2
  let sealed := gcmSeal key (beBytes 12 e.1) [] l
  pure (slice sealed.1 0 l.length ++ leBytes 16 sealed.2.toNat)

/-- The header and the manifest of the next file of a context. -/
def State.ckptHead (s : State) (p form steps : Nat) (master : Bool) (rs : List TRec) (id : Word32) (offs : List Nat) (len : Nat) :
    List Byte :=
  fileHeader form id.toNat rs.length steps (if (s.part p).slice.isSome then s.devNum else 0) (((s.part p).slice.map (·.toNat)).getD 0) len
    ++ (rs.zip offs).flatMap fun e => manifestEntry e.1 e.2 (e.1.secLen master + 16)

/-- The file: its head, the manifest's tag, and each section at its offset. -/
def ckptFile (key : BitVec 256) (head : List Byte) (offs : List Nat) (secs : List (List Byte)) : List Byte :=
  (offs.zip secs).foldl (fun (f : List Byte) e => f ++ List.replicate (e.1 - f.length) 0 ++ e.2) (head ++ manifestTag key head)

/-- The entry of a file that has left, and the state with it. -/
def State.enterCkpt (y : State) (c p step : Nat) (id : Word32) (recVa : Nat) (file : List Byte) : State :=
  { y with ckpts := y.ckpts ++ [{
      ctx := BitVec.ofNat 12 c, id := id, step := step, h := y.horizon p, digest := Config.shake256 file
      recVa := BitVec.ofNat 64 recVa }] }

section
variable {t u w y : State} {q : CmdIn} {d : Nat} {j : Job} {rs : List TRec} {offs : List Nat} {len : Nat} {secs : List (List Byte)}

theorem ckptWriteBody_suspect (h : (t.ctx (ctxOf q.src)).suspect = true) : ckptWriteBody q d t = .error (.fault 0x1A49 0 0) t := by
  simp only [ckptWriteBody, run_bind, run_look, run_need, h, Bool.not_true, Bool.false_eq_true, if_false]

variable (hsus : (t.ctx (ctxOf q.src)).suspect = false) (hjob : tget none t.sec.jobs (t.partOf q.src) = some j)
  (hroom : t.ckpts.length < 256)
  (hrs : readTable { src := q.src, env := q.env } (field d 8 8) (field d 16 4)
    (fun _ r => ckptMaps (t.ctx (ctxOf q.src)) (decide (field d 20 1 = 1)) r) t = .ok rs u)
  (hat : sectionsAt rs.length (rs.map fun r => r.secLen (decide (field d 20 1 = 1))) = (offs, len))
include hsus hjob hroom hrs hat

theorem ckptWriteBody_short (hlen : field d 32 8 < len) : ckptWriteBody q d t = .error (.fault 0x1A44 0 0) u := by
  have hfull : (!decide (256 ≤ t.ckpts.length)) = true := by rw [decide_eq_false (Nat.not_le.mpr hroom)]; rfl
  simp only [ckptWriteBody, run_bind, run_look, hsus, Bool.not_false, need_ok, jobOf_ok hjob, hfull, hrs, hat, run_need,
    decide_eq_false (Nat.not_le.mpr hlen), Bool.false_eq_true, if_false]

theorem ckptWriteBody_done (hlen : len ≤ field d 32 8) {w0 : State} {key : BitVec 256} {head : List Byte}
    (hw0 : { u with ckptId := u.ckptId + 1 } = w0) (hkey : ckptKey j Config.serial.toNat u.ckptId.toNat = key)
    (hhead : w0.ckptHead (t.partOf q.src) (field d 20 1) (t.ctx (ctxOf q.src)).steps.toNat (decide (field d 20 1 = 1)) rs u.ckptId offs
      len = head)
    (hsecs : ((List.range rs.length).zip rs).mapM (sealedSection { src := q.src, env := q.env } (decide (field d 20 1 = 1)) key) w0 =
      .ok secs w)
    (hput : egressPut { src := q.src, env := q.env } .ckpt (field d 24 8) (ckptFile key head offs secs) w = .ok () y) :
    ckptWriteBody q d t = .ok (.done 0 u.ckptId.toNat len 0) (y.enterCkpt (ctxOf q.src) (t.partOf q.src)
      (t.ctx (ctxOf q.src)).steps.toNat u.ckptId (field d 40 8) (ckptFile key head offs secs)) := by
  have hfull : (!decide (256 ≤ t.ckpts.length)) = true := by rw [decide_eq_false (Nat.not_le.mpr hroom)]; rfl
  unfold sealedSection at hsecs
  unfold ckptFile at hput
  unfold State.ckptHead at hhead
  simp only [gcmSeal] at hsecs
  simp only [ckptWriteBody, okWith, run_bind, run_look, run_upd, run_pure, hsus, Bool.not_false, need_ok, jobOf_ok hjob, hfull, hrs, hat,
    decide_eq_true hlen, hw0, hkey, hhead, gcmSeal, hsecs, hput]
  rfl

end

/-! ## CKPT_LOAD -/

/-- The manifest entries of a file. -/
def fileEntries (file : List Byte) : List (List Byte) := (List.range (leAt file 12 4)).map fun i => slice file (64 + 64 * i) 64

/-- The bytes of a file that its manifest's tag covers. -/
def fileHead (file : List Byte) : List Byte := slice file 0 (64 + 64 * leAt file 12 4)

/-- The key of a file. -/
def fileKey (j : Job) (file : List Byte) : BitVec 256 := ckptKey j (leAt file 24 8) (leAt file 8 4)

/-- The manifest's tag stands after the entries. -/
def tagStands (j : Job) (file : List Byte) : Prop :=
  manifestTag (fileKey j file) (fileHead file) = slice file (64 + 64 * leAt file 12 4) 16

section
variable {t u w : State} {q : CmdIn} {d : Nat} {j : Job} {rs : List TRec} {file : List Byte}

/-- The reads and checks of CKPT_LOAD before the tag. -/
structure FileRead (q : CmdIn) (d : Nat) (j : Job) (rs : List TRec) (file : List Byte) (t u w : State) : Prop where
  job : tget none t.sec.jobs (t.partOf q.src) = some j
  table : readTable { src := q.src, env := q.env } (field d 8 8) (field d 16 4)
    (fun _ r => r.planes.all (t.ctx (ctxOf q.src)).maps) t = .ok rs u
  long : 144 ≤ field d 32 8
  read : vread { src := q.src, env := q.env } .ckpt 0x1901 (field d 24 8) (field d 32 8) u = .ok file w
  form : headerForm file (field d 32 8) = true
  entries : ((fileEntries file).all fun e => entryOk e (field d 32 8)) = true

variable (h : FileRead q d j rs file t u w)
include h

theorem ckptLoadBody_badTag (htag : ¬ tagStands j file) : ckptLoadBody q d t = .error (.fault 0x1A45 0 0) w := by
  have hentries := h.entries
  unfold fileEntries at hentries
  unfold tagStands fileKey fileHead at htag
  simp only [ckptLoadBody, run_bind, run_look, jobOf_ok h.job, h.table, need_ok (decide_eq_true h.long), h.read, need_ok h.form,
    need_ok hentries, run_need, decide_eq_false htag, Bool.false_eq_true, if_false]

theorem ckptLoadBody_unproven (htag : tagStands j file) (hrec : field d 40 8 = 0) (hforced : (field d 20 1).testBit 0 = false) :
    ckptLoadBody q d t = .error (.fault 0x1A46 0 0) w := by
  have hentries := h.entries
  unfold fileEntries at hentries
  unfold tagStands fileKey fileHead at htag
  have hst : ((none : Option Nat) != some 2 && ((none : Option Nat) == some 1 || false)) = false := rfl
  simp only [ckptLoadBody, run_bind, run_look, run_pure, jobOf_ok h.job, h.table, need_ok (decide_eq_true h.long), h.read, need_ok h.form,
    need_ok hentries, need_ok (decide_eq_true htag), if_pos hrec, hforced, run_need, hst, Bool.false_eq_true, if_false]

/-- A context after a file has been loaded: its step count, and what a PROMOTED file ends. -/
def Context.loaded (x : Context) (steps : Nat) : Context := Context.reached { x with steps := BitVec.ofNat 64 steps }

def Context.promoted (x : Context) (steps : Nat) : Context :=
  Context.reached { x with
    steps := BitVec.ofNat 64 steps, suspect := false, denseTo := x.rollbackAt.or x.denseTo, rollbackAt := none }

theorem ckptLoadBody_forced {out : List (List (Nat × List Byte))} {y z : State} (htag : tagStands j file) (hrec : field d 40 8 = 0)
    (hforced : (field d 20 1).testBit 0 = true)
    (hout : (rs.mapM fun r => loadRecord (fileKey j file) file (fileEntries file) r) w = .ok out y)
    (hwrite : vwriteWhole { src := q.src, env := q.env } .ckpt 0x1901 out.flatten y = .ok () z) :
    ckptLoadBody q d t = .ok (.done 0 0 0 0) (z.setCtx (ctxOf q.src) ((z.ctx (ctxOf q.src)).loaded (leAt file 16 8))) := by
  have hentries := h.entries
  unfold fileEntries at hentries hout
  unfold tagStands fileHead at htag
  unfold fileKey at htag hout
  have hst : ((none : Option Nat) != some 2 && ((none : Option Nat) == some 1 || true)) = true := rfl
  simp only [ckptLoadBody, ok, run_bind, run_look, run_upd, run_pure, jobOf_ok h.job, h.table, need_ok (decide_eq_true h.long), h.read,
    need_ok h.form, need_ok hentries, need_ok (decide_eq_true htag), if_pos hrec, hforced, need_ok hst, hout, hwrite]
  rfl

theorem ckptLoadBody_promoted {rec : List Byte} {a : State} {out : List (List (Nat × List Byte))} {y z : State} (htag : tagStands j file)
    (hrec : field d 40 8 ≠ 0) (hread : vread { src := q.src, env := q.env } .ckpt 0x1901 (field d 40 8) 256 w = .ok rec a)
    (hpromo : promoState a file (fileHead file) rec = .inr (some 1))
    (hout : (rs.mapM fun r => loadRecord (fileKey j file) file (fileEntries file) r) a = .ok out y)
    (hwrite : vwriteWhole { src := q.src, env := q.env } .ckpt 0x1901 out.flatten y = .ok () z) :
    ckptLoadBody q d t = .ok (.done 0 0 0 0) (z.setCtx (ctxOf q.src) ((z.ctx (ctxOf q.src)).promoted (leAt file 16 8))) := by
  have hentries := h.entries
  unfold fileEntries at hentries hout
  unfold fileHead at hpromo
  unfold tagStands fileHead at htag
  unfold fileKey at htag hout
  have hst (b : Bool) : ((some 1 : Option Nat) != some 2 && ((some 1 : Option Nat) == some 1 || b)) = true := rfl
  simp only [ckptLoadBody, ok, run_bind, run_look, run_upd, run_pure, jobOf_ok h.job, h.table, need_ok (decide_eq_true h.long), h.read,
    need_ok h.form, need_ok hentries, need_ok (decide_eq_true htag), if_neg hrec, hread, hpromo, need_ok (hst _), hout, hwrite]
  rfl

end

/-- Settles O24: the bodies of the two commands. -/
theorem checkpointCommands : Obligations.CheckpointCommands := by
  unfold Obligations.CheckpointCommands
  refine ⟨fun s q t h => ⟨fun hsus => ?suspect, fun j rs u hsus hjob hroom hrs => ⟨fun hlen => ?short, fun secs w y hlen => ?written⟩⟩,
    fun s q t h => ?load⟩
  case suspect =>
    exact descriptor_faults h (ckptWriteBody_suspect hsus)
  case short =>
    exact descriptor_faults h (ckptWriteBody_short hsus hjob hroom hrs (Prod.eta _).symm hlen)
  case written =>
    intro id w0 key head hsecs body hput
    exact descriptor_done h (ckptWriteBody_done hsus hjob hroom hrs (Prod.eta _).symm hlen rfl rfl rfl hsecs hput)
  case load =>
    intro d c v len j rs u file w hjob hrs hlong hread hform recs entries key head hentries
    have hfile : FileRead q d j rs file t u w := ⟨hjob, hrs, hlong, hread, hform, List.all_eq_true.mpr hentries⟩
    refine ⟨fun htag => ?_, fun htag hrec hforced => ?_, fun out y z htag hrec hforced hout hwrite => ?_,
      fun rec a out y z htag hrec hreadRec hpromo hout hwrite => ?_⟩
    · exact descriptor_faults h (ckptLoadBody_badTag hfile htag)
    · exact descriptor_faults h (ckptLoadBody_unproven hfile htag hrec hforced)
    · exact descriptor_done h (ckptLoadBody_forced hfile htag hrec hforced hout hwrite)
    · exact descriptor_done h (ckptLoadBody_promoted hfile htag hrec hreadRec hpromo hout hwrite)

end Sys2Proof.Machine
end

section
/-!
PROOF. Doorbell writes and the enable of a management queue (R325, R327, R524).
-/

namespace Sys2Proof.Machine

/-- Doorbells that act give the row the effect of the write on a context's queue. -/
theorem exec_ctxTail {s : State} {fn : BitVec 6} (page : BitVec 12) (q : BitVec 4) (tail : Word32) (h0 : fn ≠ 0)
    (hlive : s.bellsLive fn.toNat = true) :
    exec (.qdbTail fn page q tail) s = .next (s.ctxTail fn.toNat page.toNat q.toNat tail).settle := by
  have hne : fn.toNat ≠ 0 := fun h => h0 (BitVec.eq_of_toNat_eq h)
  change execQdbTail fn page q tail s = _
  simp only [execQdbTail, hlive, Bool.not_true, Bool.false_and, Bool.false_eq_true, if_false, if_neg hne]

/-- A doorbell page responds to the partition that its context is bound to. -/
theorem State.bellBad_own {s : State} {fn c : Nat} (hbound : (s.ctx c).bound = true) (hown : (s.ctx c).part.toNat = fn - 1) :
    s.bellBad fn (c * 4096) = false := by
  simp [State.bellBad, hbound, hown]

/-- A TAIL within the ring is stored; one beyond it fails the context (R325). -/
theorem State.ctxTail_own {s : State} {fn c q : Nat} {k : Queue} (tail : Word32) (hbound : (s.ctx c).bound = true)
    (hown : (s.ctx c).part.toNat = fn - 1) (hlive : (s.ctx c).state ≠ .teardown) (hq : s.queue c q = some k) :
    s.ctxTail fn c q tail = if k.size < (tail - k.head).toNat then s.failCtx c 0x1A0F
      else s.setQueue c q (some { k with tail := tail }) := by
  simp only [State.ctxTail, State.bellBad_own hbound hown, Bool.false_eq_true, if_false, if_neg hlive, hq, tailBeyond,
    decide_eq_true_eq]

/-- Doorbells that act give the row the effect of the write on a management queue. -/
theorem exec_mqTail {s : State} {page : BitVec 12} (tail : Word32) (hlive : s.bellsLive 0 = true) (hpage : page.toNat < 16) :
    exec (.qdbTail 0 page 0 tail) s = .next (s.mqTail page.toNat tail).settle := by
  change execQdbTail 0 page 0 tail s = _
  simp only [execQdbTail, BitVec.ofNat_eq_ofNat, BitVec.toNat_ofNat, Nat.zero_mod, hlive, Bool.not_true, Bool.false_and,
    Bool.false_eq_true, if_false, if_true, hpage, true_and]

/-- An enable of a queue that is not enabled sets HEAD, TAIL and STOP to zero and takes the size from the value (R524). -/
theorem State.mqCtrl_enables (s : State) (v : Nat) (hen : v.testBit 31 = true)
    (hoff : (s.mq (s.reg 0 .cmdp 0 0x40 0 % 16)).enable = false) :
    (s.mqCtrl v).mq (s.reg 0 .cmdp 0 0x40 0 % 16) =
      { s.mq (s.reg 0 .cmdp 0 0x40 0 % 16) with
        irq := v.testBit 30, log2 := max 4 (min 16 (v % 32)), enable := true, head := 0, tail := 0, done := 0, stop := 0 } := by
  simp only [State.mq] at hoff
  simp only [State.mqCtrl, State.mq, State.setMq, hen, hoff, tget_tput_same]
  rfl

/-- Settles O30: the two doorbell writes and the write of CMDP_MQ_CTRL, each by its own equation. -/
theorem doorbells : Obligations.Doorbells := by
  unfold Obligations.Doorbells
  intro s
  refine ⟨?_, ?_, ?_⟩
  · intro fn page q tail k h0 hlive hbound hown hstate hq
    rw [exec_ctxTail page q tail h0 hlive, State.ctxTail_own tail hbound hown hstate hq]
  · intro page tail hlive hpage
    refine ⟨fun hin => ?_, fun hover hen => ?_⟩
    · rw [exec_mqTail tail hlive hpage]
      simp only [State.mqTail, tailBeyond, decide_eq_true_eq, if_neg (Nat.not_lt.mpr hin)]
    · rw [exec_mqTail tail hlive hpage]
      simp only [State.mqTail, tailBeyond, decide_eq_true_eq, if_pos hover, hen, if_true]
  · intro w hfn hgo hlock
    refine ⟨?_, fun hen hoff => ?_⟩
    · change execMqEnable w s = _
      rw [execMqEnable, hfn]
      exact congrArg _ (State.driverWrite_go hgo fun _ => hlock)
    · simp only [State.mqCtrl_enables s _ hen hoff, and_self]

end Sys2Proof.Machine
end

section
/-!
PROOF. What the memory controller leaves alone as it reads, spares and erases lines (R222 to R226, R235): it touches lines, channels
and what is reported, and nothing else.
-/

namespace Sys2Proof.Machine

/-- Between the two states the memory controller has served lines, and nothing else has happened. -/
def MemServes (s t : State) : Prop :=
  ∃ l c r e m g, t = { s with lines := l, chans := c, regs := r, egress := e, msixPend := m, mgt := g }

namespace MemServes

theorem refl (s : State) : MemServes s s := ⟨_, _, _, _, _, _, rfl⟩

theorem trans {s t u : State} (h : MemServes s t) (k : MemServes t u) : MemServes s u := by
  obtain ⟨l, c, r, e, m, g, rfl⟩ := h
  obtain ⟨l', c', r', e', m', g', rfl⟩ := k
  exact ⟨l', c', r', e', m', g', rfl⟩

theorem of_reports {s t : State} (h : Reports s t) : MemServes s t := by
  obtain ⟨r, e, m, g, rfl⟩ := h
  exact ⟨s.lines, s.chans, r, e, m, g, rfl⟩

theorem setLine (s : State) (lid : Nat) (x : Line) : MemServes s (s.setLine lid x) :=
  ⟨_, s.chans, s.regs, s.egress, s.msixPend, s.mgt, rfl⟩

theorem setChan (s : State) (ch : Nat) (x : Channel) : MemServes s (s.setChan ch x) :=
  ⟨s.lines, _, s.regs, s.egress, s.msixPend, s.mgt, rfl⟩

theorem ite {s t u : State} {c : Prop} [Decidable c] (h : MemServes s t) (k : MemServes s u) :
    MemServes s (if c then t else u) := by
  split
  · exact h
  · exact k

theorem ctrs {s t : State} (h : MemServes s t) : t.ctrs = s.ctrs := by
  obtain ⟨l, c, r, e, m, g, rfl⟩ := h
  rfl

end MemServes

theorem State.ceAt_serves (s : State) (ch line syms : Nat) : MemServes s (s.ceAt ch line syms) := by
  unfold State.ceAt
  exact .of_reports ((((s.bump_reports ..).trans (State.setReg_reports ..)).trans (State.errBit_reports ..)).trans
    (State.raise_reports ..))

theorem State.bump2_reports (s : State) (p : Nat) (b : Blk) (i o n : Nat) : Reports s (s.bump2 p b i o n) := by
  unfold State.bump2
  exact .ite ((s.bump_reports ..).trans (State.bump_reports ..)) (s.bump_reports ..)

theorem State.countUE_serves (s : State) (ch line : Nat) : MemServes s (s.countUE ch line) := by
  unfold State.countUE
  exact .of_reports ((s.bump2_reports ..).trans (State.setReg_reports ..))

theorem State.struck_serves (s : State) (env : Env) (lid : Nat) : MemServes s (s.struck env lid) := by
  unfold State.struck
  exact .ite (.refl s) (.setLine ..)

/-- Decoding a line changes that line alone. -/
theorem State.decode_serves (s : State) (ch line : Nat) (env : Env) : MemServes s (s.decode ch line env).2.2 := by
  unfold State.decode
  simp only
  split
  · exact s.struck_serves ..
  · exact (s.struck_serves ..).trans (.setLine ..)
  · exact s.struck_serves ..

theorem State.spareLine_serves (s : State) (ch line : Nat) (env : Env) : MemServes s (s.spareLine ch line env) := by
  have hcount : ∀ (t : State) (n : Nat), MemServes t (if n = 0 then t else t.ceAt ch line n) :=
    fun t n => .ite (.refl t) (t.ceAt_serves ..)
  unfold State.spareLine
  exact .ite (((s.decode_serves ..).trans (hcount ..)).trans (State.countUE_serves ..)) ((s.decode_serves ..).trans (hcount ..))

theorem State.spareRow_serves (s : State) (ch row : Nat) (env : Env) : MemServes s (s.spareRow ch row env) := by
  have hlast : ∀ t : State, MemServes t (if (s.chan ch).spares = 1 then (t.errBit .mc (ch / 16) 3 63).raise .mc (ch / 16) 4 63
      else t) := fun t => .of_reports (.ite ((t.errBit_reports ..).trans (State.raise_reports ..)) (.refl t))
  have hlow : ∀ t : State, MemServes t (if !s.spareLow (ch / 16) && t.spareLow (ch / 16) then t.raise .mc (ch / 16) 3 63
      else t) := fun t => .of_reports (.ite (t.raise_reports ..) (.refl t))
  unfold State.spareRow
  refine .ite (.refl s) ?_
  have hrow : MemServes s ((List.range 32).foldl (fun (t : State) i => t.spareLine ch (row * 32 + i) env) s) :=
    foldl_related MemServes.refl MemServes.trans (fun t i => t.spareLine_serves ..) _ s
  exact ((((hrow.trans (.setChan ..)).trans
    (.of_reports (State.journal_reports ..))).trans (hlast _)).trans (hlow _)).trans
    (.of_reports (State.maintRise_reports ..))

theorem State.countCE_serves (s : State) (ch line syms : Nat) (env : Env) : MemServes s (s.countCE ch line syms env) := by
  unfold State.countCE
  exact (s.ceAt_serves ch line syms).trans ((MemServes.setChan ..).trans (.ite (State.spareRow_serves ..) (.refl _)))

/-- A line read by the memory controller. -/
theorem State.mcRead_serves (s : State) (ch line : Nat) (env : Env) : MemServes s (s.mcRead ch line env).2 := by
  have hcount : ∀ (t : State) (n : Nat), MemServes t (if n = 0 then t else t.countCE ch line n env) :=
    fun t n => .ite (.refl t) (t.countCE_serves ..)
  unfold State.mcRead
  exact .ite (((s.decode_serves ..).trans (hcount ..)).trans (State.countUE_serves ..)) ((s.decode_serves ..).trans (hcount ..))

/-! ## Erasing (R235, R236) -/

theorem State.eraseLine_serves (s : State) (ch line : Nat) (env : Env) : MemServes s (s.eraseLine ch line env) := by
  unfold State.eraseLine
  exact .ite (s.mcRead_serves ..) ((s.mcRead_serves ..).trans (.setLine ..))

theorem State.eraseRest_serves (ch n : Nat) (s : State) : MemServes s (State.eraseRest ch n s) := by
  induction n generalizing s with
  | zero => exact .refl s
  | succ n ih => exact (s.eraseLine_serves ..).trans (ih _)

theorem State.eraseDone_serves (s : State) (ch : Nat) : MemServes s (s.eraseDone ch) := by
  unfold State.eraseDone
  exact ((MemServes.setChan ..).trans (.of_reports (State.journal_reports ..))).trans (.of_reports (State.raise_reports ..))

theorem State.eraFinish_serves (s : State) (ch : Nat) : MemServes s (s.eraFinish ch) := by
  unfold State.eraFinish
  exact .ite ((State.eraseRest_serves ..).trans (State.eraseDone_serves ..)) (.refl s)

end Sys2Proof.Machine
end

section
/-!
PROOF. Partition requests and the ends of their sequences (R371 to R373, R376, R377). The moves of a bind that removes no extent, and
those of a release where no counter block is dirty, cannot stop: nothing in them reads a line that verification could refuse.
-/

namespace Sys2Proof.Machine

/-! ## Steps that always complete -/

/-- From every state of the property the step completes, and its state has the property too. -/
def Completes (P : State → Prop) (m : M Unit) : Prop := ∀ s, P s → ∃ t, m s = .ok () t ∧ P t

namespace Completes
variable {P : State → Prop}

theorem pure : Completes P (pure ()) := fun s hs => ⟨s, rfl, hs⟩

theorem upd {f : State → State} (h : ∀ s, P s → P (f s)) : Completes P (upd f) := fun s hs => ⟨f s, rfl, h s hs⟩

theorem bind {m n : M Unit} (hm : Completes P m) (hn : Completes P n) : Completes P (m >>= fun _ => n) := by
  intro s hs
  obtain ⟨t, ht, hpt⟩ := hm s hs
  obtain ⟨u, hu, hpu⟩ := hn t hpt
  exact ⟨u, by rw [run_bind, ht]; exact hu, hpu⟩

theorem look {α : Type} {f : State → α} {k : α → M Unit} (h : ∀ s, P s → ∃ t, k (f s) s = .ok () t ∧ P t) :
    Completes P (Sys2Proof.Machine.look f >>= k) := fun s hs => by
  rw [run_bind, run_look]
  exact h s hs

theorem ite {c : Prop} [Decidable c] {m n : M Unit} (hm : Completes P m) (hn : Completes P n) :
    Completes P (if c then m else n) := by
  split
  · exact hm
  · exact hn

theorem branch {c : Prop} [Decidable c] {m n : M Unit} (hm : Completes P m) (hn : Completes P n) :
    Completes P (if c then m >>= fun _ => n else n) := ite (bind hm hn) hn

theorem forM {α : Type} {f : α → M Unit} (h : ∀ x, Completes P (f x)) (l : List α) : Completes P (l.forM f) := by
  induction l with
  | nil => exact pure
  | cons x l ih => exact bind (h x) ih

end Completes

/-! ## A bind that removes no extent (R373) -/

theorem bindRemove_completes (p : Nat) {r : Nat} (h : reqBits r 112 1 = []) : Completes (fun _ => True) (bindRemove p r) := by
  have hmove : ∀ f : State → State, Completes (fun _ => True) (upd f) := fun f => .upd fun _ _ => trivial
  unfold bindRemove
  rw [h]
  dsimp only
  refine .bind (.forM (fun c => hmove _) _) (.bind .pure (.bind (.forM (fun b => hmove _) _) ?_))
  exact .branch (hmove _) (.ite (hmove _) .pure)

theorem bindAdd_completes (p r : Nat) : Completes (fun _ => True) (bindAdd p r) := by
  have hmove : ∀ f : State → State, Completes (fun _ => True) (upd f) := fun f => .upd fun _ _ => trivial
  unfold bindAdd
  dsimp only
  refine .bind (.forM (fun c => hmove _) _) (.branch (hmove _) (.branch (hmove _) ?_))
  exact .bind (.forM (fun b => hmove _) _) (.branch (hmove _) (.ite (hmove _) .pure))

theorem bindMoves_completes (p : Nat) {r : Nat} (h : reqBits r 112 1 = []) : Completes (fun _ => True) (bindMoves p r) := by
  unfold bindMoves
  refine .bind (bindRemove_completes p h) (.look fun s hs => ?_)
  exact Completes.ite (bindAdd_completes p r) .pure s hs

/-! ## A release where no counter block is dirty (R252, R271, R376) -/

/-- No cached counter block waits to be written back. -/
def CtrsClean (s : State) : Prop := ∀ e ∈ s.ctrs, ∀ x, e.2 = some x → x.dirty = false

theorem CtrsClean.congr {s t : State} (h : CtrsClean s) (hc : t.ctrs = s.ctrs) : CtrsClean t := by
  unfold CtrsClean
  rw [hc]
  exact h

theorem CtrsClean.dirtyCtrs {s : State} (h : CtrsClean s) (ch lvl : Nat) : s.dirtyCtrs ch lvl = [] := by
  rw [State.dirtyCtrs, List.map_eq_nil_iff, List.filter_eq_nil_iff]
  rintro ⟨k, x⟩ he
  cases x with
  | none => simp
  | some x => simp [h _ he x rfl]

/-- With nothing to write back the flush of a channel changes nothing. -/
theorem flushChannel_clean {s : State} (h : CtrsClean s) (env : Env) (ch : Nat) : flushChannel env ch s = .ok () s := by
  simp [flushChannel, h.dirtyCtrs]

theorem completes_upd_ctrs {f : State → State} (h : ∀ s, (f s).ctrs = s.ctrs) : Completes CtrsClean (upd f) :=
  .upd fun s hs => hs.congr (h s)

theorem cryptoErase_completes (ch : Nat) : Completes CtrsClean (cryptoErase ch) := by
  refine .bind (completes_upd_ctrs fun s => rfl) (.bind (fun s hs => ⟨s, flushChannel_clean hs .., hs⟩) ?_)
  exact completes_upd_ctrs fun s => (((s.eraFinish_serves ch).trans (.setChan ..)).trans
    (.of_reports (State.journal_reports ..))).ctrs

theorem dropExtent_completes (p e : Nat) : Completes CtrsClean (dropExtent p e) := by
  refine .look fun s hs => ?_
  have hchan : ∀ ch, Completes CtrsClean (do cryptoErase ch; upd fun s => s.setChan ch { s.chan ch with owner := 0x3F }) :=
    fun ch => .bind (cryptoErase_completes ch) (completes_upd_ctrs fun s => rfl)
  exact Completes.bind (.forM hchan _) (completes_upd_ctrs fun t => State.setPart_ctrs ..) s hs

theorem Reports.ctrs {s t : State} (h : Reports s t) : t.ctrs = s.ctrs := (MemServes.of_reports h).ctrs

theorem State.raise_ctrs (s : State) (b : Blk) (i n p : Nat) : (s.raise b i n p).ctrs = s.ctrs := (s.raise_reports ..).ctrs

theorem State.clearPages_ctrs (s : State) (c : Nat) : (s.clearPages c).ctrs = s.ctrs := by
  simp only [State.clearPages, List.foldl_cons, List.foldl_nil, State.setReg_ctrs]

theorem State.freeCluster_ctrs (s : State) (c : Nat) : (s.freeCluster c).ctrs = s.ctrs := by
  simp only [State.freeCluster, State.handCluster, State.setCluster_ctrs, State.setReg_ctrs, State.flashDone, State.raise_ctrs,
    State.clearPages_ctrs]

theorem State.retireBare_ctrs (s : State) (k : Nat) : (s.retireBare k).ctrs = s.ctrs := by
  simp only [State.retireBare, State.raise_ctrs, State.setKid_ctrs]
  rfl

theorem completes_upd_foldl {α : Type} {f : State → α → State} (hf : ∀ s x, (f s x).ctrs = s.ctrs) (l : State → List α) :
    Completes CtrsClean (upd fun s => (l s).foldl f s) :=
  completes_upd_ctrs fun s => foldl_keeps State.ctrs hf (l s) s

theorem releaseMoves_completes (p : Nat) : Completes CtrsClean (releaseMoves p) := by
  have hext : Completes CtrsClean ((List.range 8).forM fun e => dropExtent p e) := .forM (dropExtent_completes p) _
  have hbare := completes_upd_foldl (α := Nat × KeyId) (f := fun t e => t.retireBare e.1) (fun t e => t.retireBare_ctrs e.1)
  have hfree := completes_upd_foldl (f := State.freeCluster) State.freeCluster_ctrs
  have hkids := completes_upd_foldl (α := Nat × KeyId) (f := fun t e => t.setKid e.1 KeyId.reset) (fun t e => t.setKid_ctrs ..)
  unfold releaseMoves
  exact .bind (hbare _) (.bind (hfree _) (.bind hext (.bind (hkids _) (.bind (completes_upd_ctrs fun s => rfl)
    (completes_upd_ctrs fun s => rfl)))))

/-! ## Requests (R371, R372) -/

section
variable {s : State} {b : BindIn}

theorem State.bindGuard (hlive : s.partLive = true) (hfree : s.bind = none) : (!s.partLive || s.bind.isSome) = false := by
  rw [hlive, hfree]
  rfl

theorem State.bindStart_failed (hlive : s.partLive = true) (hfree : s.bind = none) (hreq : b.req = none) :
    s.bindStart b = s.bindEnd 15 := by
  simp only [State.bindStart, State.bindGuard hlive hfree, hreq, Bool.false_eq_true, if_false]

theorem State.bindStart_refused {w : BitVec 2048} (hlive : s.partLive = true) (hfree : s.bind = none) (hreq : b.req = some w)
    {v : State} (hv : { s with bindPart := BitVec.ofNat 6 (field w.toNat 1 1) } = v) (herr : v.bindCheck w.toNat ≠ 0) :
    s.bindStart b = v.bindEnd (v.bindCheck w.toNat) := by
  simp only [State.bindStart, State.bindGuard hlive hfree, hreq, hv, Bool.false_eq_true, if_false, if_pos herr]

/-- An accepted request is held, and its partition enters the state that its operation names. -/
theorem State.bindStart_accepted {w : BitVec 2048} (hlive : s.partLive = true) (hfree : s.bind = none) (hreq : b.req = some w)
    {v u : State} (hv : { s with bindPart := BitVec.ofNat 6 (field w.toNat 1 1) } = v) (herr : v.bindCheck w.toNat = 0)
    (hu : { v with
      bindErr := 0
      bind := some { op := BitVec.ofNat 8 (field w.toNat 0 1), part := BitVec.ofNat 6 (field w.toNat 1 1), req := w,
                     moved := false } } = u) :
    s.bindStart b = match field w.toNat 0 1 with
      | 1 => u.partTo (field w.toNat 1 1) .binding
      | 2 => (u.partTo (field w.toNat 1 1) .draining).tearAll (field w.toNat 1 1)
      | _ => u.resetPart (field w.toNat 1 1) := by
  subst hu hv
  simp only [State.bindStart, State.bindGuard hlive hfree, hreq, Bool.false_eq_true, if_false, herr, ne_eq,
    not_true_eq_false] <;> rfl

end

/-- The three requests do what PART_BIND.START does. -/
theorem exec_requests {b : BindIn} {s t : State} (h : s.bindStart b = t) :
    exec (.bind b) s = .next t.settle ∧ exec (.release b) s = .next t.settle ∧ exec (.partReset b) s = .next t.settle := by
  subst h
  exact ⟨rfl, rfl, rfl⟩

/-! ## The ends of the sequences (R373, R376, R377) -/

theorem execBindQuiesced_go {s : State} {b : BindReq} (hb : s.bind = some b) (hop : b.op = 1) (hmoved : b.moved = false)
    (hlive : s.partLive = true) (hq : s.quiescent b.part.toNat = true)
    (href : ∀ c ∈ reqBits b.req.toNat 16 16, s.isReferee c = false) {t : State}
    (hm : bindMoves b.part.toNat b.req.toNat s = .ok () t) : exec .bindQuiesced s = .next (t.movesDone b).settle := by
  have hany : (reqBits b.req.toNat 16 16).any s.isReferee = false := List.any_eq_false.mpr fun c hc => by simp [href c hc]
  change execBindQuiesced s = _
  simp only [execBindQuiesced, hb, hop, hmoved, hlive, hq, hany, hm, ne_eq, not_true_eq_false, Bool.not_true, Bool.false_eq_true,
    or_self, if_false]

theorem execReleaseDrained_go {s : State} {b : BindReq} (hb : s.bind = some b) (hop : b.op = 2) (hmoved : b.moved = false)
    (hlive : s.partLive = true) (hd : s.drained b.part.toNat = true) {t : State} (hm : releaseMoves b.part.toNat s = .ok () t) :
    exec .releaseDrained s = .next (t.movesDone b).settle := by
  change execReleaseDrained s = _
  simp only [execReleaseDrained, hb, hop, hmoved, hlive, hd, hm, ne_eq, not_true_eq_false, Bool.not_true, Bool.false_eq_true,
    or_self, if_false]

theorem State.movesDone_bind {s : State} {b : BindReq} (hf : s.flushing = []) (hop : b.op = 1) :
    s.movesDone b = s.bindFinish b.part.toNat := by
  simp only [State.movesDone, hf, List.isEmpty_nil, if_true, if_pos hop]

theorem State.movesDone_release {s : State} {b : BindReq} (hf : s.flushing = []) (hop : b.op ≠ 1) :
    s.movesDone b = (s.partTo b.part.toNat .free).bindEnd 0 := by
  simp only [State.movesDone, hf, List.isEmpty_nil, if_true, if_neg hop, State.releaseFinish]

theorem State.movesDone_waits {s : State} {b : BindReq} (hf : s.flushing ≠ []) :
    s.movesDone b = { s with bind := some { b with moved := true } } := by
  simp only [State.movesDone, List.isEmpty_iff, if_neg hf]

theorem exec_resetDrained {s : State} {part : BitVec 6} (hstate : (s.part part.toNat).state = .resetting) (hlive : s.partLive = true)
    (hd : s.drained part.toNat = true) : exec (.resetDrained part) s = .next (s.resetFinish part.toNat).settle := by
  change execResetDrained part s = _
  simp only [execResetDrained, hstate, hlive, hd, ne_eq, not_true_eq_false, Bool.not_true, Bool.false_eq_true, or_self, if_false]

/-! ## Ways (R232) -/

/-- The lines that the Case holds in a way. -/
def State.wayLines (s : State) (way : BitVec 4) : List Nat :=
  s.cases.filterMap fun e => match e.2 with
    | some c => if c.way = way then some e.1 else none
    | none => none

theorem exec_caseFlushDone {s t : State} {way : BitVec 4} (hw : way ∈ s.flushing)
    (hwb : ((s.wayLines way).forM (writeBack Env.quiet) : M Unit) s = .ok () t) :
    exec (.caseFlushDone way) s = .next (t.flushed way).settle := by
  have hin : s.flushing.contains way = true := List.contains_iff_mem.mpr hw
  change execCaseFlushDone way s = _
  simp only [execCaseFlushDone, hin, Bool.not_true, Bool.false_eq_true, if_false]
  split
  · next heq =>
      cases heq.symm.trans hwb
      rfl
  · next heq => cases heq.symm.trans hwb
  · next heq => cases heq.symm.trans hwb

/-- The way's lines are gone and its change is over; what waited for the last way goes on. -/
theorem State.flushed_spec {s t : State} {way : BitVec 4}
    (ht : State.raise { s.caseKeep (fun _ c => c.way != way) with flushing := s.flushing.filter (· != way) } .mc 0 6 63 = t) :
    ((∀ b, s.bind = some b → b.moved = false) → s.flushed way = t) ∧
      (∀ b, s.bind = some b → b.moved = true → s.flushed way = t.movesDone b) := by
  have hbind : t.bind = s.bind := by
    obtain ⟨r, e, m, g, h⟩ := State.raise_reports
      { s.caseKeep (fun _ c => c.way != way) with flushing := s.flushing.filter (· != way) } .mc 0 6 63
    rw [← ht, h]
    rfl
  have hflush : s.flushed way = match t.bind with
      | some b => if b.moved then t.movesDone b else t
      | none => t := by
    rw [← ht]
    rfl
  rw [hflush, hbind]
  refine ⟨fun h => ?_, fun b hb hm => ?_⟩
  · cases hb : s.bind with
    | none => rfl
    | some b => simp only [h b hb, Bool.false_eq_true, if_false]
  · simp only [hb, hm, if_true]

/-! ## Removal of a cluster and the reset of a virtual function (R302, R370, R379) -/

theorem exec_clusterRemove {s out t u : State} {cl : BitVec 7} {p : Nat} (hp : (s.cluster cl.toNat).owner.toNat = p)
    (hleaves : s.leaves cl.toNat = true) (hat : s.atCommand p = true) (hbind : p ≠ 63 → (s.part p).state ≠ .binding)
    (hout : ((s.clearPages cl.toNat).flashDone cl.toNat).handCluster cl.toNat 0x3F .fallow = out)
    (ht : (if (s.cluster cl.toNat).health = .confirmed then
        out.setCluster cl.toNat { out.cluster cl.toNat with inService := false }
      else (s.freeCluster cl.toNat).raise .part 0 3 63) = t) (hu : State.trackSizes s t = u) :
    exec (.clusterRemove cl) s = .next (if p ≠ 63 ∧ (u.clustersOf p).isEmpty then u.partHalt p else u).settle := by
  have hnot : ¬ (p ≠ 63 ∧ (s.part p).state = .binding) := fun h => hbind h.1 h.2
  have hgo : execClusterRemove cl s = if p ≠ 63 ∧ (u.clustersOf p).isEmpty then .next (u.partHalt p).settle else .next u.settle := by
    simp only [execClusterRemove, hp, hleaves, hat, Bool.not_true, Bool.or_self, Bool.false_eq_true, if_false, if_neg hnot, hout,
      decide_eq_true_eq, ht, hu]
  change execClusterRemove cl s = _
  rw [hgo]
  split <;> rfl

/-- What a Function Level Reset of a virtual function does to the function, before its partition resets. -/
def State.flrTdi (t : State) (p : Nat) : State :=
  if t.tdi p = .locked ∨ t.tdi p = .run
  then State.raise { t with hif := { t.hif with tdi := tput Tdi.unlocked t.hif.tdi p .error } } .hif 0 4 63 else t

theorem State.tdiError_eq (t : State) (p : Nat) : t.tdiError p = t.flrTdi p := by
  unfold State.tdiError State.flrTdi
  cases t.tdi p <;> rfl

theorem State.flrTdi_keeps (t : State) (p : Nat) : (t.flrTdi p).pwr = t.pwr ∧ (t.flrTdi p).parts = t.parts := by
  unfold State.flrTdi
  split
  · obtain ⟨r, e, m, g, h⟩ := State.raise_reports
      { t with hif := { t.hif with tdi := tput Tdi.unlocked t.hif.tdi p .error } } .hif 0 4 63
    rw [h]
    exact ⟨rfl, rfl⟩
  · exact ⟨rfl, rfl⟩

theorem exec_vfFlr {s t u : State} {vf : BitVec 6} (h0 : vf ≠ 0) (hlive : s.partLive = true)
    (ht : { s with
        msixOpen := s.msixOpen.filter fun e => decide (e.1 / 16 ≠ vf.toNat)
        msixPend := s.msixPend.filter fun e => decide (e.1 / 16 ≠ vf.toNat)
        hif := { s.hif with masters := tput false s.hif.masters vf.toNat false } } = t) (hu : t.flrTdi (vf.toNat - 1) = u) :
    exec (.vfFlr vf) s = match (s.part (vf.toNat - 1)).state with
      | .active | .halted => .next (u.resetPart (vf.toNat - 1)).settle
      | .binding | .draining => .next (u.setPart (vf.toNat - 1) { u.part (vf.toNat - 1) with flrDue := true })
      | _ => .next u := by
  obtain ⟨hpwr, hparts⟩ := t.flrTdi_keeps (vf.toNat - 1)
  have hulive : u.partLive = true := by
    rw [← hlive, ← hu, State.partLive, State.partLive, hpwr, ← ht]
  have hupart : u.part (vf.toNat - 1) = s.part (vf.toNat - 1) := by
    rw [← hu, State.part, State.part, hparts, ← ht]
  change execVfFlr vf s = _
  simp only [execVfFlr, if_neg h0, ht, State.tdiError_eq, hu, hulive, Bool.not_true, Bool.false_eq_true, if_false, hupart] <;> rfl

/-- Settles O27: the requests by the checks that they pass, the ends of the sequences each by its own row; a bind that removes no
extent and a release with clean counter blocks always move. -/
theorem partitionCommands : Obligations.PartitionCommands := by
  unfold Obligations.PartitionCommands
  refine ⟨fun s b hlive hfree => ⟨fun hreq => ?failed, fun w hreq => ?checked⟩, fun s => ⟨fun b hb hop hmoved hlive hq href => ?bind,
    fun b hb hop hmoved hlive hd => ?release, fun b => ?moved, fun part hstate hlive hd => ?reset, fun way hw => ?flush,
    fun way => ?flushed, fun cl hleaves hat hbind => ?remove, fun vf h0 hlive => ?flr⟩⟩
  case failed => exact exec_requests (State.bindStart_failed hlive hfree hreq)
  case checked =>
    refine ⟨fun herr => exec_requests (State.bindStart_refused hlive hfree hreq rfl herr), fun herr => ⟨?_, ?_, ?_⟩⟩ <;>
      refine fun hop => exec_requests ((State.bindStart_accepted hlive hfree hreq rfl herr rfl).trans ?_) <;> rw [hop] <;> rfl
  case bind =>
    refine ⟨fun t hm => execBindQuiesced_go hb hop hmoved hlive hq href hm, fun hext => ?_⟩
    obtain ⟨t, hm, -⟩ := bindMoves_completes b.part.toNat hext s trivial
    exact ⟨t, hm, execBindQuiesced_go hb hop hmoved hlive hq href hm⟩
  case release =>
    refine ⟨fun t hm => execReleaseDrained_go hb hop hmoved hlive hd hm, fun hclean => ?_⟩
    obtain ⟨t, hm, -⟩ := releaseMoves_completes b.part.toNat s hclean
    exact ⟨t, hm, execReleaseDrained_go hb hop hmoved hlive hd hm⟩
  case moved => exact ⟨State.movesDone_bind, State.movesDone_release, State.movesDone_waits⟩
  case reset => exact exec_resetDrained hstate hlive hd
  case flush =>
    intro lids
    refine ⟨fun t hwb => exec_caseFlushDone hw hwb, fun hnone => exec_caseFlushDone hw ?_⟩
    change (lids.forM (writeBack Env.quiet) : M Unit) s = _
    rw [hnone]
    rfl
  case flushed => exact State.flushed_spec rfl
  case remove => exact exec_clusterRemove rfl hleaves hat hbind rfl rfl rfl
  case flr =>
    intro p mine t u
    have hrow := exec_vfFlr h0 hlive (t := t) rfl (u := u) rfl
    refine ⟨?_, ?_, ?_⟩ <;> rintro (hstate | hstate) <;> rw [hrow, hstate]

end Sys2Proof.Machine
end

section
/-!
PROOF. Cluster power, slices and debug holds (R67, R68, R382 to R386).
-/

namespace Sys2Proof.Machine

/-! ## Power states of a cluster (R67, R68) -/

/-- A write of FALLOW_REQ through PF0 acts where the page shows. -/
theorem exec_fallowReq {s : State} (cl : BitVec 7) (req : Bool) (hshown : s.pageShown .cl = true) :
    exec (.fallowReq 0 cl req) s = .next (s.fallow cl.toNat req) := by
  have hgate : s.gate 0 .cl cl.toNat true true = .go := by
    simp only [State.gate, if_true, Bool.not_true, Bool.false_eq_true, if_false, State.fnOpen, beq_self_eq_true, Bool.true_or,
      hshown, Bool.or_self]
  change execFallowReq 0 cl req s = _
  simp only [execFallowReq, BitVec.ofNat_eq_ofNat, BitVec.toNat_ofNat, Nat.zero_mod, hgate, ne_eq, not_true_eq_false, if_false]

/-- CL_CTRL with FALLOW_REQ as written. -/
def State.fallowBit (s : State) (c : Nat) (req : Bool) : State :=
  s.setReg 0 .cl c 0x10 0x1401 (s.clCtrl c - 2 * (s.clCtrl c / 2 % 2) + 2 * b2n req)

section
variable {s : State} {c : Nat} {k : Cluster}

theorem State.fallow_enters (hk : s.cluster c = k) (howner : k.owner = 0x3F) (hserves : k.inService = true) (hpwr : k.pwr ≠ .fallow)
    (hclear : k.clear = false) (href : (s.fallowBit c true).isReferee c = false) :
    s.fallow c true = (s.fallowBit c true).setCluster c { k.flash with pwr := .fallow, clear := false, worked := false } := by
  unfold State.fallowBit at href ⊢
  simp only [State.fallow, State.setReg_get_cluster, hk, howner, hserves, hclear, href, ne_eq, not_true_eq_false, Bool.not_true,
    Bool.false_eq_true, or_self, if_false, if_true, hpwr]

theorem State.fallow_wakes (hk : s.cluster c = k) (howner : k.owner = 0x3F) (hserves : k.inService = true) (hpwr : k.pwr = .fallow)
    (hstate : s.pwr.state ≠ .slumber) :
    s.fallow c false = (s.fallowBit c false).setCluster c { k with pwr := .active, clear := true } := by
  unfold State.fallowBit
  simp only [State.fallow, State.setReg_get_cluster, State.setReg_pwr, hk, howner, hserves, hpwr, ne_eq, not_true_eq_false,
    Bool.not_true, Bool.false_eq_true, or_self, if_false, hstate, not_false_eq_true, and_self, if_true]

end

/-- A virtual function reaches the page of a cluster of its partition only. -/
theorem State.gate_unbound {s : State} {fn : BitVec 6} {c : Nat} (h0 : fn ≠ 0) (howner : (s.cluster c).owner = 0x3F) :
    s.gate fn.toNat .cl c true true = .bad := by
  have hne : fn.toNat ≠ 0 := fun h => h0 (BitVec.eq_of_toNat_eq h)
  have hlt : fn.toNat < 64 := fn.isLt
  have hother : ((0x3F : BitVec 6).toNat == fn.toNat - 1) = false := beq_eq_false_iff_ne.mpr (by
    change 63 ≠ _
    omega)
  have hpage : Blk.shared .cl = false ∧ Blk.bound .cl = true := by decide
  simp only [State.gate, if_neg hne, howner, hother, hpage, Bool.and_false, Bool.or_self, Bool.not_false, if_true]

/-- No slot of the cluster belongs to a context that runs or could run. -/
theorem execIdleDelayExpiry_idle {s : State} {cl : BitVec 7} {k : Cluster} (hk : s.cluster cl.toNat = k) (hpwr : k.pwr = .active)
    (hen : (s.clCtrl cl.toNat).testBit 0 = true) (hclear : k.clear = false)
    (hslots : ∀ e ∈ k.slots, ∀ x, e.2 = some x →
      (s.ctx x.ctx.toNat).state ≠ .running ∧ (s.ctx x.ctx.toNat).state ≠ .runnable) :
    exec (.idleDelayExpiry cl) s = .next (s.setCluster cl.toNat { k with pwr := .idle, worked := false }) := by
  change execIdleDelayExpiry cl s = _
  unfold execIdleDelayExpiry
  simp only [hk]
  refine if_pos ⟨hpwr, hen, ?_, by rw [hclear]; rfl⟩
  rw [Bool.not_eq_true', List.any_eq_false]
  rintro ⟨n, x⟩ he
  cases x with
  | none => exact Bool.false_ne_true
  | some x =>
    obtain ⟨hrun, hable⟩ := hslots _ he x rfl
    simp [hrun, hable]

theorem exec_flashClearDone {s t : State} {cl : BitVec 7} (hclear : (s.cluster cl.toNat).clear = true)
    (ht : s.flashDone cl.toNat = t) :
    exec (.flashClearDone cl) s = .next (if (t.cluster cl.toNat).owner = 0x3F ∧ (t.cluster cl.toNat).inService = true ∧
      (t.clCtrl cl.toNat).testBit 1 = true then t.setCluster cl.toNat { t.cluster cl.toNat with pwr := .fallow } else t) := by
  change execFlashClearDone cl s = _
  simp only [execFlashClearDone, hclear, if_true, ht]
  split <;> rfl

/-! ## The slice in time (R382 to R386) -/

/-- A ready context that waits has at least the holder's priority. -/
def State.hasRival (s : State) (p : Nat) (h : BitVec 12) : Prop :=
  ∃ c ∈ (s.part p).queueing, ∃ n, s.readyPrio c.toNat = some n ∧ (s.readyPrio h.toNat).getD 0 ≤ n

theorem State.hasRival_iff (s : State) (p : Nat) (h : BitVec 12) :
    ((s.part p).queueing.any fun c => match s.readyPrio c.toNat with
      | some n => decide ((s.readyPrio h.toNat).getD 0 ≤ n)
      | none => false) = true ↔ s.hasRival p h := by
  rw [List.any_eq_true, State.hasRival]
  refine exists_congr fun c => and_congr_right fun _ => ?_
  cases s.readyPrio c.toNat with
  | none => simp
  | some n => simp

section
variable {s : State} {part : BitVec 6} {us : Nat} {h : BitVec 12}

theorem exec_sliceEnd_rival (hh : (s.part part.toNat).holder = some h) (hkeep : s.dbgKeeps part.toNat = false)
    (hr : s.hasRival part.toNat h) {t : State} (ht : s.chargeTime part.toNat us = t) :
    exec (.sliceEnd part us) s = .next (t.setPart part.toNat { t.part part.toNat with preemptDue := true }).settle := by
  have hany := (s.hasRival_iff part.toNat h).mpr hr
  change execSliceEnd part us s = _
  unfold execSliceEnd
  simp only [hh, hkeep, Bool.false_eq_true, if_false, ht]
  exact if_pos hany

theorem exec_sliceEnd_renews (hh : (s.part part.toNat).holder = some h) (hkeep : s.dbgKeeps part.toNat = false)
    (hr : ¬ s.hasRival part.toNat h) {t : State} (ht : s.chargeTime part.toNat us = t) :
    exec (.sliceEnd part us) s = .next (t.setCtx h.toNat { t.ctx h.toNat with
      owed := (t.ctx h.toNat).owed - t.sliceUs part.toNat h.toNat }).settle := by
  have hany := mt (s.hasRival_iff part.toNat h).mp hr
  change execSliceEnd part us s = _
  unfold execSliceEnd
  simp only [hh, hkeep, Bool.false_eq_true, if_false, ht]
  exact if_neg hany

theorem exec_starveExpiry {c : BitVec 12} (hc : c ∈ (s.part (s.ctx c.toNat).part.toNat).queueing)
    (hready : (s.readyPrio c.toNat).isSome = true) :
    exec (.starveExpiry c) s = .next (s.setCtx c.toNat { s.ctx c.toNat with starved := true }).settle := by
  have hin : (s.part (s.ctx c.toNat).part.toNat).queueing.contains c = true := List.contains_iff_mem.mpr hc
  change execStarveExpiry c s = _
  simp only [execStarveExpiry, hin, hready, and_self, if_true]

section
variable {x : Partition} {overrun : Nat} (hx : s.part part.toNat = x) (hh : x.holder = some h) (hdue : x.preemptDue = true)
  (hat : s.atBoundary h.toNat = true) (hkeep : s.dbgKeeps part.toNat = false)
include hx hh hdue hat hkeep

theorem exec_preemptSwitch_none (hnext : s.nextHolder x.queueing = none) :
    exec (.preemptSwitch part us overrun) s = .next (s.setPart part.toNat { x with preemptDue := false }) := by
  change execPreemptSwitch part us overrun s = _
  simp only [execPreemptSwitch, hx, hh, hdue, hat, hkeep, hnext, Bool.not_true, Bool.or_self, Bool.false_eq_true, if_false]

theorem exec_preemptSwitch_next {c : BitVec 12} (hnext : s.nextHolder x.queueing = some c) {t : State}
    (ht : (s.chargeTime part.toNat us).preempted h overrun = t) :
    exec (.preemptSwitch part us overrun) s =
      .next ((t.setPart part.toNat { t.part part.toNat with queueing := x.queueing ++ [h] }).giveSlice part.toNat c).settle := by
  change execPreemptSwitch part us overrun s = _
  simp only [execPreemptSwitch, hx, hh, hdue, hat, hkeep, hnext, ht, Bool.not_true, Bool.or_self, Bool.false_eq_true, if_false]

end
end

/-! ## Debug holds (R385) -/

theorem State.dbgWrite_confidential {s : State} {v : Nat} (hc : s.confidential = true) (hv : v.testBit 31 = true) :
    s.dbgWrite 0 v = s.badAccess 0 true false 4 (regOff .part 0 0x88) := by
  simp only [State.dbgWrite, hc, hv, Bool.and_self, if_true]

theorem State.dbgWrite_starts {s : State} {v : Nat} (hc : s.confidential = false) (hfree : s.dbg.hold = false)
    (hv : v.testBit 31 = true) : s.dbgWrite 0 v = s.dbgStart (BitVec.ofNat 7 v) := by
  simp only [State.dbgWrite, hc, hfree, hv, Bool.false_and, Bool.false_eq_true, if_false, if_true]

theorem State.dbgWrite_ends {s : State} {v : Nat} (hold : s.dbg.hold = true) (hv : v.testBit 31 = false) :
    s.dbgWrite 0 v = s.dbgEnd.settle := by
  simp only [State.dbgWrite, hold, hv, Bool.and_false, Bool.false_eq_true, if_false, if_true]

/-- A hold names its cluster, and keeps it at once where it stands. -/
theorem State.dbgStart_dbg (s : State) (cl : BitVec 7) :
    (s.dbgStart cl).dbg = { hold := true, held := (s.cluster cl.toNat).stands, cl := cl } := by
  have hcl : ({ s with dbg := { hold := true, held := false, cl := cl } } : State).cluster cl.toNat = s.cluster cl.toNat := rfl
  simp only [State.dbgStart, State.settleHold, hcl, Bool.not_false, true_and]
  split
  · next hst => rw [hst]
  · next hst => rw [Bool.eq_false_iff.mpr hst]

theorem Cluster.stands_free {k : Cluster} (h : k.running = none) : k.stands = true := by
  simp only [Cluster.stands, h, Option.bind_none]

theorem Cluster.stands_running {k : Cluster} {n : Nat} {x : Slot} {p : Prog} (hn : k.running = some n) (hx : k.slot n = some x)
    (hp : x.prog = some p) (hend : x.ended = false) : k.stands = x.boundary := by
  simp only [Cluster.stands, hn, Option.bind_some, hx, hp, hend, Option.isNone_some, Bool.or_false]

/-- Settles O29: the rows of cluster power, of the slice and of debug holds, each by its own equation. -/
theorem clustersAndSlices : Obligations.ClustersAndSlices := by
  unfold Obligations.ClustersAndSlices
  refine ⟨fun s cl => ⟨?fallow, ?vf, ?unbound, ?idle, ?cleared⟩, fun s part => ⟨?slice, ?starve, ?switch, ?hold, ?expiry⟩,
    fun s v => ⟨fun hc hv => State.dbgWrite_confidential hc hv, fun hc hfree hv => ?starts, fun hold hv => State.dbgWrite_ends hold hv⟩⟩
  case fallow =>
    intro req hshown howner hserves v t
    rw [exec_fallowReq cl req hshown]
    refine ⟨fun hreq hpwr hclear href => ?_, fun hreq hpwr hstate => ?_⟩ <;> subst hreq
    · exact congrArg _ (State.fallow_enters rfl howner hserves hpwr hclear href)
    · exact congrArg _ (State.fallow_wakes rfl howner hserves hpwr hstate)
  case vf =>
    intro fn req h0 hgate
    have hne : fn.toNat ≠ 0 := fun h => h0 (BitVec.eq_of_toNat_eq h)
    change execFallowReq fn cl req s = _
    simp only [execFallowReq, hgate, ne_eq, hne, not_false_eq_true, if_true]
  case unbound =>
    intro fn req h0 howner
    change execFallowReq fn cl req s = _
    simp only [execFallowReq, State.gate_unbound h0 howner]
  case idle => exact fun hpwr hen hclear hslots => execIdleDelayExpiry_idle rfl hpwr hen hclear hslots
  case cleared => exact fun hclear => exec_flashClearDone hclear rfl
  case slice =>
    exact fun us h hh hkeep => ⟨fun hr => exec_sliceEnd_rival hh hkeep hr rfl, fun hr => exec_sliceEnd_renews hh hkeep hr rfl⟩
  case starve => exact fun c hc hready => exec_starveExpiry hc hready
  case switch =>
    exact fun us overrun h hh hdue hat hkeep => ⟨exec_preemptSwitch_none rfl hh hdue hat hkeep,
      fun c hnext => exec_preemptSwitch_next rfl hh hdue hat hkeep hnext rfl⟩
  case hold =>
    intro w hfn hgo hlock
    change execPartDbgHold w s = _
    rw [execPartDbgHold, hfn]
    simp only [State.driverWrite, BitVec.ofNat_eq_ofNat, BitVec.toNat_ofNat, Nat.zero_mod, hgo, hlock, Bool.and_false,
      Bool.false_eq_true, if_false]
  case expiry =>
    intro hold
    change execDebugHoldExpiry s = _
    simp only [execDebugHoldExpiry, hold, if_true]
  case starts =>
    rw [State.dbgWrite_starts hc hfree hv, State.dbgStart_dbg]
    exact ⟨rfl, rfl, fun hn => Cluster.stands_free hn, fun n x p hn hx hp hend => Cluster.stands_running hn hx hp hend⟩

end Sys2Proof.Machine
end

section
/-!
PROOF. Accesses to object lines (R217, R230, R249, R253 to R257) and the cipher of a line (R243, R244).
-/

namespace Sys2Proof.Machine

/-! ## The frame of an access -/

section
variable {s : State} {l : LineAcc} {body : M Unit}

theorem State.lineRun_other (hline : l.line.toNat < objectLines) (hlive : s.memLive = true)
    (howner : (s.chan l.ch.toNat).owner ≠ l.part) : s.lineRun l body = .next { s with delivered := none } := by
  simp only [State.lineRun, if_neg (Nat.not_le.mpr hline), hlive, Bool.not_true, Bool.false_eq_true, if_false, if_pos howner]

theorem State.lineRun_ok (hline : l.line.toNat < objectLines) (hlive : s.memLive = true)
    (howner : (s.chan l.ch.toNat).owner = l.part) {t : State} (hb : body { s with delivered := none } = .ok () t) :
    s.lineRun l body = .next t := by
  simp only [State.lineRun, if_neg (Nat.not_le.mpr hline), hlive, Bool.not_true, Bool.false_eq_true, if_false, howner, ne_eq,
    not_true_eq_false, hb]

theorem State.lineRun_part (hline : l.line.toNat < objectLines) (hlive : s.memLive = true)
    (howner : (s.chan l.ch.toNat).owner = l.part) {t : State} {p : Nat}
    (hb : body { s with delivered := none } = .error (.part p) t) : s.lineRun l body = .next (t.partHalt p).settle := by
  simp only [State.lineRun, if_neg (Nat.not_le.mpr hline), hlive, Bool.not_true, Bool.false_eq_true, if_false, howner, ne_eq,
    not_true_eq_false, hb]

end

/-! ## The accesses -/

section
variable {s t : State} {l : LineAcc} (hline : l.line.toNat < objectLines) (hlive : s.memLive = true)
  (howner : (s.chan l.ch.toNat).owner = l.part)
include hline hlive howner

theorem exec_sealLineRead {d : LineData} (hread : readLine l.env (accOf l) { s with delivered := none } = .ok d t) :
    exec (.sealLineRead l) s = .next { t with delivered := some d } := by
  refine State.lineRun_ok hline hlive howner ?_
  simp only [handOver, run_bind, hread, run_upd]

variable (hkey : keyCheck l.kid.toNat l.part.toNat l.agent (l.ch.toNat / 16) { s with delivered := none } = .ok () t)
include hkey

theorem exec_sealLineWrite {u : State} {d : LineData} (hstore : sealStore l.env (accOf l) d t = .ok () u) :
    exec (.sealLineWrite l d) s = .next (u.caseWritten (lidOf l.ch.toNat l.line.toNat) d) := by
  refine State.lineRun_ok hline hlive howner ?_
  simp only [run_bind, hkey, hstore, run_upd]

/-- What a masked write keeps of the line: the Case's data once it is settled, nothing under a full mask, else the verified line. -/
theorem exec_sealPartialWrite {mask : Word64} {d old : LineData} {u w : State}
    (hcase : ∀ c, t.caseLine (lidOf l.ch.toNat l.line.toNat) = some c →
      old = c.data ∧ settleLine (lidOf l.ch.toNat l.line.toNat) t = .ok () u)
    (hread : t.caseLine (lidOf l.ch.toNat l.line.toNat) = none → mask ≠ BitVec.allOnes 64 →
      sealVerified l.env (accOf l) t = .ok old u)
    (hfull : t.caseLine (lidOf l.ch.toNat l.line.toNat) = none → mask = BitVec.allOnes 64 → old = 0 ∧ u = t)
    (hwrite : (if mask ≠ 0 then do
        sealStore l.env (accOf l) (mergeBytes old d mask)
        upd (·.caseWritten (lidOf l.ch.toNat l.line.toNat) (mergeBytes old d mask))
      else pure () : M Unit) u = .ok () w) :
    exec (.sealPartialWrite l mask d) s = .next w := by
  refine State.lineRun_ok hline hlive howner ?_
  simp only [run_bind, hkey, run_look]
  cases h : t.caseLine (lidOf l.ch.toNat l.line.toNat) with
  | some c =>
    obtain ⟨hold, hs⟩ := hcase c h
    subst hold
    simp only [run_bind, hs, run_pure]
    exact hwrite
  | none =>
    by_cases hm : mask = BitVec.allOnes 64
    · obtain ⟨hold, hu⟩ := hfull h hm
      subst hold hu
      simp only [if_pos hm, run_bind, run_pure]
      exact hwrite
    · simp only [if_neg hm, run_bind, hread h hm]
      exact hwrite

/-- A Case access once its words have been looked at. -/
theorem exec_caseLineAccess {w : Option LineData} {ecc : Ecc} {v x : State}
    (hsame : t.caseLine (lidOf l.ch.toNat l.line.toNat) = none ∨ ecc = .ok → v = t)
    (hsingle : (t.caseLine (lidOf l.ch.toNat l.line.toNat)).isSome = true → ecc = .single →
      v = t.ceAt l.ch.toNat l.line.toNat 0)
    (hdouble : ∀ c, t.caseLine (lidOf l.ch.toNat l.line.toNat) = some c → ecc = .double →
      c.dirty = false ∧ v = t.setCaseLine (lidOf l.ch.toNat l.line.toNat) none)
    (hrest : (match w with
      | some d => putLine l.env (accOf l) (BitVec.allOnes 64) d
      | none => do
        let d ← readLine l.env (accOf l)
        handOver d : M Unit) v = .ok () x) :
    exec (.caseLineAccess l w ecc) s = .next x := by
  refine State.lineRun_ok hline hlive howner ?_
  simp only [run_bind, hkey, run_look]
  cases h : t.caseLine (lidOf l.ch.toNat l.line.toNat) with
  | none =>
    have hv := hsame (.inl h)
    subst hv
    exact hrest
  | some c =>
    cases ecc with
    | ok =>
      have hv := hsame (.inr rfl)
      subst hv
      exact hrest
    | single =>
      have hv := hsingle (by rw [h]; rfl) rfl
      subst hv
      exact hrest
    | double =>
      obtain ⟨hclean, hv⟩ := hdouble c h rfl
      subst hv
      simp only [run_bind, run_upd, hclean, Bool.false_eq_true, if_false]
      exact hrest

theorem exec_caseLineAccess_lost {w : Option LineData} {c : CaseLine}
    (hc : t.caseLine (lidOf l.ch.toNat l.line.toNat) = some c) (hdirty : c.dirty = true) :
    exec (.caseLineAccess l w .double) s =
      .next ((t.setCaseLine (lidOf l.ch.toNat l.line.toNat) none).partHalt c.part.toNat).settle := by
  refine State.lineRun_part hline hlive howner ?_
  simp only [run_bind, hkey, run_look, hc, run_upd, hdirty, if_true]
  rfl

end

theorem crypt_crypt (k : BitVec 256) (c lid level : Nat) (d : LineData) : crypt k c lid level (crypt k c lid level d) = d := by
  simp only [crypt, BitVec.xor_assoc, BitVec.xor_self, BitVec.xor_zero]

/-- Settles O31: the four accesses by their frame and their bodies; the key stream cancels itself. -/
theorem lineAccesses : Obligations.LineAccesses := by
  unfold Obligations.LineAccesses
  refine ⟨fun s l hline hlive => ?_, crypt_crypt⟩
  intro s0 a lid key
  refine ⟨fun hother d mask w ecc i hi => ?other, fun howner => ⟨fun d t hread => exec_sealLineRead hline hlive howner hread,
    fun d t u hkey hstore => exec_sealLineWrite hline hlive howner hkey hstore, fun mask d t old u hkey hcase hread hfull => ?masked,
    fun t hkey => ⟨fun ecc v hsame hsingle hdouble => ⟨fun d u hread => ?read, fun d u hput => ?write⟩,
      fun c w hc hdirty => exec_caseLineAccess_lost hline hlive howner hkey hc hdirty⟩⟩⟩
  case other =>
    simp only [List.mem_cons, List.not_mem_nil, or_false] at hi
    rcases hi with rfl | rfl | rfl | rfl <;> exact State.lineRun_other hline hlive hother
  case masked =>
    refine ⟨fun hm => ?_, fun v hm hstore => ?_⟩ <;> refine exec_sealPartialWrite hline hlive howner hkey hcase hread hfull ?_
    · rw [if_neg (not_not_intro hm), run_pure]
    · rw [if_pos hm, run_bind, hstore]
      rfl
  case read =>
    refine exec_caseLineAccess hline hlive howner hkey hsame hsingle hdouble ?_
    have hdata : readLine l.env (accOf l) v = .ok d u := hread
    simp only [handOver, run_bind, hdata, run_upd]
  case write => exact exec_caseLineAccess hline hlive howner hkey hsame hsingle hdouble hput

end Sys2Proof.Machine
end

section
/-!
PROOF. The rows of the Seal engine and of Harrow (R225, R234 to R236, R242, R252 to R254, R265), and what forms entries at the egress
gate (R258, R259, R263).
-/

namespace Sys2Proof.Machine

/-! ## Verification (R253, R254, R265) -/

section
variable {s : State} {q : BitVec 2} {n : Nat} {r : PendRead} {rest : List PendRead}
  (hr : takeFirst (fun (r : PendRead) => r.q == q) s.reads = some (r, rest))
include hr

theorem exec_sealVerifyDone_late (hlate : s.verifyLimit r.stack.toNat < n) :
    exec (.sealVerifyDone q n) s = .next (s.sealHaltNow r.late) := by
  change execSealVerifyDone q n s = _
  simp only [execSealVerifyDone, hr, if_pos hlate]

theorem exec_sealVerifyDone_good (htime : n ≤ s.verifyLimit r.stack.toNat) (hgood : r.bad = none) :
    exec (.sealVerifyDone q n) s =
      .next ((({ s with reads := rest } : State).readDone r).latency r.stack.toNat n).lateDone := by
  change execSealVerifyDone q n s = _
  simp only [execSealVerifyDone, hr, if_neg (Nat.not_lt.mpr htime), hgood]

theorem exec_sealVerifyDone_bad {h : HaltAt} (htime : n ≤ s.verifyLimit r.stack.toNat) (hbad : r.bad = some h) :
    exec (.sealVerifyDone q n) s = .next (s.sealHaltNow h) := by
  change execSealVerifyDone q n s = _
  simp only [execSealVerifyDone, hr, if_neg (Nat.not_lt.mpr htime), hbad]

end

theorem exec_verifyTimeout {s : State} {q : BitVec 2} {r : PendRead} (hr : (s.reads.find? fun r => r.q == q) = some r) :
    exec (.verifyTimeout q) s = .next (s.sealHaltNow r.late) := by
  change execVerifyTimeout q s = _
  simp only [execVerifyTimeout, hr]

/-! ## The Seal caches (R242, R252) -/

theorem exec_counterEvict {s t : State} {ch : BitVec 9} {level : BitVec 2} {blk : BitVec 18} (hlive : s.memLive = true)
    (hlevel : level ≠ 0) (hin : (s.ctr ch.toNat level.toNat blk.toNat).isSome = true)
    (hflush : flushCtr Env.quiet ch.toNat level.toNat blk.toNat s = .ok () t) :
    exec (.counterEvict ch level blk) s = .next (t.setCtr ch.toNat level.toNat blk.toNat none) := by
  have hne : level.toNat ≠ 0 := fun h => hlevel (BitVec.eq_of_toNat_eq h)
  have hsome : (s.ctr ch.toNat level.toNat blk.toNat).isNone = false := by
    rw [← Option.not_isSome, hin]
    rfl
  change execCounterEvict ch level blk s = _
  simp only [execCounterEvict, hne, hlive, hsome, hflush, Bool.not_true, Bool.false_eq_true, or_self, if_false]

/-- A clean block needs no write. -/
theorem flushCtr_clean {env : Env} {s : State} {ch lvl b : Nat} {x : CtrBlk} (hx : s.ctr ch lvl b = some x)
    (hclean : x.dirty = false) : flushCtr env ch lvl b s = .ok () s := by
  simp only [flushCtr, run_bind, run_look, hx, hclean, Bool.false_eq_true, if_false, run_pure]

theorem exec_keyCacheFill {s t : State} {kid : BitVec 16} (hlive : s.memLive = true) (hkeyed : (s.kid kid.toNat).state = .keyed)
    (hmiss : (s.kid kid.toNat).cached = false) (hfill : fillKey kid.toNat s = .ok () t) :
    exec (.keyCacheFill kid) s = .next t := by
  change execKeyCacheFill kid s = _
  simp only [execKeyCacheFill, hkeyed, hmiss, hlive, hfill, ne_eq, not_true_eq_false, Bool.not_true, Bool.false_eq_true, or_self,
    if_false]

/-! ## Harrow (R225, R234 to R236) -/

/-- What a patrol read does once the line has been read. -/
theorem exec_harrowPatrolRead {s t : State} {ch : BitVec 9} {line : BitVec 24} {err : BitVec 640} {r : Option Line}
    (hlive : s.memLive = true) (hline : line.toNat < channelLines)
    (hon : (s.reg 0 .mc (ch.toNat / 16) 0x10 0x180421).testBit 0 = true)
    (hread : s.mcRead ch.toNat line.toNat (Env.onLine (lidOf ch.toNat line.toNat) err) = (r, t)) :
    exec (.harrowPatrolRead ch line err) s = if r.isSome then .next t
      else if treeLevel line.toNat = 0 then
        .next ((t.errBit .mc (ch.toNat / 16) 2 (t.chan ch.toNat).owner.toNat).raise .mc (ch.toNat / 16) 2
          (t.chan ch.toNat).owner.toNat)
      else if (t.chan ch.toNat).owner.toNat = 63 then .next t
      else .next (t.sealHaltNow (haltAt .treeUE ch.toNat (treeLevel line.toNat) line.toNat)) := by
  change execHarrowPatrolRead ch line err s = _
  simp only [execHarrowPatrolRead, if_neg (Nat.not_le.mpr hline), hlive, hon, hread, Bool.not_true, Bool.true_eq_false,
    Bool.false_eq_true, or_self, if_false]
  cases r <;> rfl

/-- The line of an erase pass: one that is EMPTY of this ERA, or sealed in it, stays. -/
theorem State.eraseLine_spec {s t : State} {ch line : Nat} {env : Env} {r : Option Line} (hread : s.mcRead ch line env = (r, t)) :
    s.eraseLine ch line env = if (∃ l, r = some l ∧ l.state.toNat % 2 ^ 14 = (s.chan ch).era.toNat) then t
      else t.setLine (lidOf ch line) (Line.make 0 0 0 (s.chan ch).era.toNat) := by
  simp only [State.eraseLine, hread, Option.map_eq_some_iff]

theorem exec_harrowEraseLine {s t : State} {ch : BitVec 9} {err : BitVec 640} {n : BitVec 24} (hlive : s.memLive = true)
    (hfront : (s.chan ch.toNat).front = some n)
    (ht : s.eraseLine ch.toNat n.toNat (Env.onLine (lidOf ch.toNat n.toNat) err) = t) :
    exec (.harrowEraseLine ch err) s = .next (if n.toNat + 1 = objectLines then t.eraseDone ch.toNat
      else t.setChan ch.toNat { t.chan ch.toNat with front := some (n + 1) }) := by
  change execHarrowEraseLine ch err s = _
  simp only [execHarrowEraseLine, hfront, hlive, Bool.not_true, Bool.false_eq_true, if_false, ht]
  split <;> rfl

/-- Settles O33: verification by the read's check and its time, evictions and fills by what they write, Harrow's passes by the
line that they read. -/
theorem sealRows : Obligations.SealRows := by
  unfold Obligations.SealRows
  refine ⟨fun s q => ⟨fun n r rest hr => ?verify, fun r hr => exec_verifyTimeout hr, fun h => rfl⟩, fun s hlive => ⟨?evict,
    ?evictClean, fun kid t hkeyed hmiss hfill => exec_keyCacheFill hlive hkeyed hmiss hfill⟩, fun s ch err hlive => ?harrow⟩
  case verify =>
    exact ⟨fun hlate => exec_sealVerifyDone_late hr hlate, fun htime hgood => exec_sealVerifyDone_good hr htime hgood,
      fun h htime hbad => exec_sealVerifyDone_bad hr htime hbad⟩
  case evict => exact fun ch level blk t hlevel hin hflush => exec_counterEvict hlive hlevel hin hflush
  case evictClean =>
    exact fun ch level blk x hlevel hx hclean => exec_counterEvict hlive hlevel (by rw [hx]; rfl) (flushCtr_clean hx hclean)
  case harrow =>
    intro c k
    refine ⟨fun line r t hline hon hread => ?_, fun n r t hfront hread => ?_⟩
    · have hrow := exec_harrowPatrolRead hlive hline hon hread
      refine ⟨fun hr => ?_, fun hr hlevel => ?_, fun hr hlevel hp => ?_, fun hr hlevel hp => ?_⟩
      · rw [hrow, if_pos hr]
      · subst hr
        exact hrow.trans (if_pos hlevel)
      · subst hr
        exact hrow.trans ((if_neg hlevel).trans (if_pos hp))
      · subst hr
        exact hrow.trans ((if_neg hlevel).trans (if_neg hp))
    · refine ⟨fun hkept => ?_, fun hkept => ?_⟩ <;>
        refine exec_harrowEraseLine hlive hfront ((State.eraseLine_spec hread).trans ?_)
      · exact if_pos hkept
      · exact if_neg hkept

/-! ## Epochs, samples and entries of the gate (R258, R259, R263) -/

/-- A sample stamps an entry that has no stamp and needs one. -/
theorem sampled_eq {now : List Word64} :
    (fun (e : Egress) => if e.stamp.isNone && !e.free then { e with stamp := some now } else e) =
      fun (e : Egress) => if e.stamp = none ∧ e.free = false then { e with stamp := some now } else e := by
  funext e
  simp only [Bool.and_eq_true, Option.isNone_iff_eq_none, Bool.not_eq_true']

/-- Settles O35: the three rows, each by its own equation. -/
theorem egressGate : Obligations.EgressGate := by
  unfold Obligations.EgressGate
  refine fun s => ⟨fun q hstate => ?epoch, fun p => ?sample, fun p stamped d hroom hhalt => ?enqueue⟩
  case epoch =>
    change execEpochAdvance q s = _
    rw [execEpochAdvance, if_neg hstate]
  case sample =>
    intro now
    change execEgressSample p s = _
    simp only [execEgressSample, sampled_eq]
    rfl
  case enqueue =>
    have hgo : ¬ ((gateBuffer p).2 < s.gateUsed (gateBuffer p).1 + d.length ∨ (stamped = true ∧ s.pwr.state = .halted)) := by
      rintro (hfull | ⟨hst, hhalted⟩)
      · exact absurd hroom (Nat.not_le.mpr hfull)
      · exact hhalt hst hhalted
    change execEgressEnqueue p stamped d s = _
    exact if_neg hgo

end Sys2Proof.Machine
end

section
/-!
PROOF. The CXL link and its events, configuration writes and the SPDM responder (R298 to R302, R311 to R314).
-/

namespace Sys2Proof.Machine

/-! ## TDIs on their way to ERROR (R314) -/

/-- Between the two states TDIs have moved, which is reported, and nothing else has happened. -/
def TdisMove (s t : State) : Prop :=
  ∃ x r e m g, t = { s with hif := { s.hif with tdi := x }, regs := r, egress := e, msixPend := m, mgt := g }

namespace TdisMove

theorem refl (s : State) : TdisMove s s := ⟨_, _, _, _, _, rfl⟩

theorem trans {s t u : State} (h : TdisMove s t) (k : TdisMove t u) : TdisMove s u := by
  obtain ⟨x, r, e, m, g, rfl⟩ := h
  obtain ⟨x', r', e', m', g', rfl⟩ := k
  exact ⟨x', r', e', m', g', rfl⟩

end TdisMove

/-- One TDI that is LOCKED or runs enters ERROR; the others stay. -/
theorem State.tdiError_spec (s : State) (p : Nat) :
    TdisMove s (s.tdiError p) ∧ ∀ q, (s.tdiError p).tdi q =
      if q = p ∧ (s.tdi q = .locked ∨ s.tdi q = .run) then .error else s.tdi q := by
  rw [State.tdiError_eq, State.flrTdi]
  by_cases h : s.tdi p = .locked ∨ s.tdi p = .run
  · obtain ⟨r, e, m, g, hr⟩ := State.raise_reports
      { s with hif := { s.hif with tdi := tput Tdi.unlocked s.hif.tdi p .error } } .hif 0 4 63
    rw [if_pos h, hr]
    refine ⟨⟨_, _, _, _, _, rfl⟩, fun q => ?_⟩
    by_cases hq : q = p
    · subst hq
      rw [if_pos ⟨rfl, h⟩]
      exact tget_tput_same Tdi.unlocked s.hif.tdi q .error
    · rw [if_neg fun hc => hq hc.1]
      exact tget_tput_ne Tdi.unlocked s.hif.tdi hq .error
  · rw [if_neg h]
    refine ⟨.refl s, fun q => (if_neg ?_).symm⟩
    rintro ⟨rfl, hq⟩
    exact h hq

/-- What a list of TDIs that are to leave LOCKED and RUN does to each TDI. -/
theorem State.tdiErrors_spec (c : Nat → Prop) [DecidablePred c] (s : State) (n : Nat) :
    TdisMove s ((List.range n).foldl (fun (t : State) p => if c p then t.tdiError p else t) s) ∧
      ∀ q, ((List.range n).foldl (fun (t : State) p => if c p then t.tdiError p else t) s).tdi q =
        if q < n ∧ c q ∧ (s.tdi q = .locked ∨ s.tdi q = .run) then .error else s.tdi q := by
  induction n with
  | zero => exact ⟨.refl s, fun q => (if_neg fun h => absurd h.1 (Nat.not_lt_zero q)).symm⟩
  | succ n ih =>
    obtain ⟨hmove, htdi⟩ := ih
    rw [List.range_succ, List.foldl_append, List.foldl_cons, List.foldl_nil]
    by_cases hc : c n
    · rw [if_pos hc]
      obtain ⟨hstep, hq⟩ := State.tdiError_spec _ n
      refine ⟨hmove.trans hstep, fun q => ?_⟩
      rw [hq, htdi]
      by_cases hqn : q = n
      · subst hqn
        simp [hc]
      · have hlt : q < n + 1 ↔ q < n := by omega
        simp only [hqn, false_and, if_false, hlt]
    · rw [if_neg hc]
      refine ⟨hmove, fun q => ?_⟩
      rw [htdi]
      by_cases hqn : q = n
      · subst hqn
        simp [hc]
      · have hlt : q < n + 1 ↔ q < n := by omega
        simp only [hlt]

/-! ## The link (R298 to R300, R312) -/

/-- The link goes down: the streams are Insecure and the HIF cache unused, and TDIs leave LOCKED and RUN; the rest of the device
stays. -/
theorem State.cxlDown_spec {s : State} (hup : s.hif.up = true) :
    (∃ x r e m g, s.cxlDown = { s with
      hif := { s.hif with up := false, rate := 0, width := 0, ide := 0, cacheOn := false, tdi := x }
      regs := r, egress := e, msixPend := m, mgt := g }) ∧
    ∀ p, p < 63 → s.cxlDown.tdi p = if s.tdi p = .locked ∨ s.tdi p = .run then .error else s.tdi p := by
  obtain ⟨r, e, m, g, hr⟩ := State.raise_reports (State.bumpHalf { s with hif := { s.hif with
    up := false, rate := 0, width := 0, ide := 0, cacheOn := false } } .hif 0 0x40 false) .hif 0 0 63
  have hdown : s.cxlDown = (List.range 63).foldl (fun (t : State) p => if True then t.tdiError p else t)
      (State.raise (State.bumpHalf { s with hif := { s.hif with
        up := false, rate := 0, width := 0, ide := 0, cacheOn := false } } .hif 0 0x40 false) .hif 0 0 63) := by
    simp only [State.cxlDown, hup, Bool.not_true, Bool.false_eq_true, if_false, if_true]
  rw [hr] at hdown
  obtain ⟨⟨x, r', e', m', g', hmove⟩, htdi⟩ := State.tdiErrors_spec (fun _ => True) _ 63
  refine ⟨⟨x, r', e', m', g', hdown.trans hmove⟩, fun p hp => ?_⟩
  rw [hdown]
  refine (htdi p).trans ?_
  simp only [hp, true_and]
  rfl

/-- A rate and a width that a link can have (R298). -/
theorem rateWidth_good {rate : BitVec 3} {width : BitVec 5} (h1 : 1 ≤ rate.toNat) (h4 : rate.toNat ≤ 4)
    (hw : width.toNat ∈ [4, 8, 16]) :
    (decide (1 ≤ rate.toNat ∧ rate.toNat ≤ 4) && [4, 8, 16].contains width.toNat) = true := by
  rw [Bool.and_eq_true]
  exact ⟨decide_eq_true ⟨h1, h4⟩, List.contains_iff_mem.mpr hw⟩

/-! ## Configuration writes (R301, R303, R314, R523) -/

/-- Through a virtual function a write reaches its Bus Master Enable and its AER status only. -/
theorem State.cfgWrite_vf {s : State} {fn : Nat} {w : CfgWrite} (h0 : fn ≠ 0) (hm : ∀ on, w ≠ .busMaster on)
    (ha : ∀ m, w ≠ .aerClear m) : s.cfgWrite fn w = s := by
  cases w with
  | busMaster on => exact absurd rfl (hm on)
  | aerClear m => exact absurd rfl (ha m)
  | vfEnable on n => exact if_pos h0
  | hdmRange base => exact if_pos h0
  | other => rfl

/-- Through a virtual function no write moves a TDI by itself. -/
theorem State.cfgWrite_vf_tdi {s : State} {fn : Nat} (w : CfgWrite) (h0 : fn ≠ 0) (p : Nat) : (s.cfgWrite fn w).tdi p = s.tdi p := by
  cases w with
  | busMaster on => rfl
  | aerClear m => rfl
  | vfEnable on n => rw [State.cfgWrite_vf h0 (fun _ => CfgWrite.noConfusion) (fun _ => CfgWrite.noConfusion)]
  | hdmRange base => rw [State.cfgWrite_vf h0 (fun _ => CfgWrite.noConfusion) (fun _ => CfgWrite.noConfusion)]
  | other => rfl

/-- A configuration write that is no clearing of an error status moves the TDI of its VF to ERROR. -/
theorem exec_tdiConfigChange {s : State} {fn : BitVec 6} {w : CfgWrite} (ha : ∀ m, w ≠ .aerClear m) :
    exec (.tdiConfigChange ⟨fn, w⟩) s =
      .next (if fn = 0 then s.cfgWrite fn.toNat w else (s.cfgWrite fn.toNat w).tdiError (fn.toNat - 1)) := by
  change execTdiConfigChange ⟨fn, w⟩ s = _
  cases w with
  | aerClear m => exact absurd rfl (ha m)
  | busMaster on => rfl
  | vfEnable on n => rfl
  | hdmRange base => rfl
  | other => rfl

theorem exec_tdiConfigChange_pf {s : State} (w : CfgWrite) :
    exec (.tdiConfigChange ⟨0, w⟩) s = .next (s.cfgWrite 0 w) := by
  by_cases ha : ∀ m, w ≠ .aerClear m
  · exact exec_tdiConfigChange ha
  · obtain ⟨m, hm⟩ := not_forall.mp ha
    rw [not_not.mp hm]
    rfl

/-- VF Enable: the VFs that it leaves without a function leave LOCKED and RUN. -/
theorem State.cfgWrite_vfEnable (s : State) (on : Bool) (n : BitVec 6) {k : BitVec 6} (hk : (if on then n else 0) = k) :
    (s.cfgWrite 0 (.vfEnable on n)).hif.numVfs = k ∧
    ∀ q, q < 63 → (s.cfgWrite 0 (.vfEnable on n)).tdi q =
      if k.toNat ≤ q ∧ (s.tdi q = .locked ∨ s.tdi q = .run) then .error else s.tdi q := by
  have hw : s.cfgWrite 0 (.vfEnable on n) = (List.range 63).foldl (fun (t : State) p => if k.toNat ≤ p then t.tdiError p else t)
      { s with hif := { s.hif with numVfs := k } } := by
    rw [← hk]
    rfl
  obtain ⟨⟨x, r, e, m, g, hmove⟩, htdi⟩ :=
    State.tdiErrors_spec (fun p => k.toNat ≤ p) { s with hif := { s.hif with numVfs := k } } 63
  rw [hw]
  refine ⟨by rw [hmove], fun q hq => (htdi q).trans ?_⟩
  simp only [hq, true_and]
  rfl

/-! ## The SPDM responder (R311, R313, R314) -/

section
variable {s : State} {c : Byte}

theorem State.spdmStandard_unknown (hc : c.toNat ∉ spdmCodes) : s.spdmStandard c = s.spdmErr 0x07 := by
  have hin : spdmCodes.contains c.toNat = false := by
    rw [Bool.eq_false_iff]
    exact fun h => hc (List.contains_iff_mem.mp h)
  simp only [State.spdmStandard, hin, Bool.not_false, if_true]

/-- A request that moves no session is answered with its data. -/
theorem State.spdmStandard_plain (hc : c.toNat ∈ spdmCodes) (h4 : c ≠ 0xE4) (h5 : c ≠ 0xE5) (h12 : c ≠ 0xEC) :
    s.spdmStandard c = (s.spdmData c).2.say (.spdm true (BitVec.ofNat 8 (c.toNat - 0x80)) (s.spdmData c).1) := by
  have hin : spdmCodes.contains c.toNat = true := List.contains_iff_mem.mpr hc
  simp only [State.spdmStandard, hin, Bool.not_true, Bool.false_eq_true, if_false, h4, h5, h12, false_and, State.spdmOk]

theorem State.spdmStandard_keyExchange {t : State} (ht : (s.spdmData 0xE4).2 = t) :
    s.spdmStandard 0xE4 = State.say { t with hif := { t.hif with keyEx := true } } (.spdm true 0x64 (s.spdmData 0xE4).1) := by
  have hin : spdmCodes.contains (0xE4 : Byte).toNat = true := by decide
  have h45 : (0xE4 : Byte) ≠ 0xE5 := by decide
  simp only [State.spdmStandard, hin, Bool.not_true, Bool.false_eq_true, if_false, if_true, h45, false_and, ht, State.spdmOk]
  rfl

theorem State.spdmStandard_finish (hkey : s.hif.keyEx = true) :
    s.spdmStandard 0xE5 = State.say { s with hif := { s.hif with session := true, keyEx := false } } (.spdm true 0x65 .none) := by
  have hin : spdmCodes.contains (0xE5 : Byte).toNat = true := by decide
  have h54 : (0xE5 : Byte) ≠ 0xE4 := by decide
  have hdata : s.spdmData 0xE5 = (.none, s) := rfl
  simp only [State.spdmStandard, hin, hkey, Bool.not_true, Bool.false_eq_true, if_false, if_true, and_false, h54, hdata, State.spdmOk]
  rfl

theorem State.spdmStandard_unexpected (hkey : s.hif.keyEx = false) : s.spdmStandard 0xE5 = s.spdmErr 0x04 := by
  have hin : spdmCodes.contains (0xE5 : Byte).toNat = true := by decide
  simp only [State.spdmStandard, hin, hkey, Bool.not_true, Bool.not_false, Bool.false_eq_true, if_false, if_true, and_self]

theorem State.spdmStandard_end :
    s.spdmStandard 0xEC = State.say { s with hif := { s.hif with session := false } } (.spdm true 0x6C .none) := by
  have hin : spdmCodes.contains (0xEC : Byte).toNat = true := by decide
  have hne : (0xEC : Byte) ≠ 0xE4 ∧ (0xEC : Byte) ≠ 0xE5 := by decide
  have hdata : s.spdmData 0xEC = (.none, s) := rfl
  simp only [State.spdmStandard, hin, Bool.not_true, Bool.false_eq_true, if_false, if_true, hne.1, hne.2, false_and, hdata, State.spdmOk]
  rfl

theorem State.tdiMove_closed {vf : Nat} {a b : Tdi} (hsession : s.hif.session = false) : s.tdiMove vf a b = s.spdmErr 0x0B := by
  simp only [State.tdiMove, hsession, Bool.not_false, if_true]

/-- A TDI of an enabled VF that is in the state that the message names moves. -/
theorem State.tdiMove_moves {vf : BitVec 6} {a b : Tdi} (hsession : s.hif.session = true)
    (hhere : vf ≠ 0 ∧ vf.toNat ≤ s.hif.numVfs.toNat) (hstate : s.tdi (vf.toNat - 1) = a) :
    s.tdiMove vf.toNat a b = State.say { s with hif := { s.hif with tdi := tput Tdi.unlocked s.hif.tdi (vf.toNat - 1) b } }
      (.spdm true 0x7E .none) := by
  have hne : vf.toNat ≠ 0 := fun h => hhere.1 (BitVec.eq_of_toNat_eq h)
  simp only [State.tdiMove, hsession, Bool.not_true, Bool.false_eq_true, if_false, hne, Nat.not_lt.mpr hhere.2, hstate, ne_eq,
    not_true_eq_false, or_self, State.spdmOk]
  rfl

theorem State.tdiMove_leaves {vf : BitVec 6} {a b : Tdi} (hsession : s.hif.session = true)
    (hno : ¬ (vf ≠ 0 ∧ vf.toNat ≤ s.hif.numVfs.toNat) ∨ s.tdi (vf.toNat - 1) ≠ a) :
    s.tdiMove vf.toNat a b = s.spdmErr 0x04 := by
  have hbad : vf.toNat = 0 ∨ s.hif.numVfs.toNat < vf.toNat ∨ s.tdi (vf.toNat - 1) ≠ a := by
    rcases hno with hout | hother
    · by_cases h0 : vf = 0
      · exact .inl (by rw [h0]; rfl)
      · exact .inr (.inl (Nat.lt_of_not_le fun h => hout ⟨h0, h⟩))
    · exact .inr (.inr hother)
  simp only [State.tdiMove, hsession, Bool.not_true, Bool.false_eq_true, if_false, if_pos hbad]

theorem State.ideKm_closed {n : Nat} {on : Bool} (hsession : s.hif.session = false) : s.ideKm n on = s.spdmErr 0x0B := by
  simp only [State.ideKm, hsession, Bool.not_false, if_true]

theorem State.ideKm_sets {n : Nat} {on : Bool} (hsession : s.hif.session = true) (hn : n < 6) :
    s.ideKm n on = (s.setIde n on).say (.spdm true 0x7E .none) := by
  simp only [State.ideKm, hsession, Bool.not_true, Bool.false_eq_true, if_false, if_neg (Nat.not_le.mpr hn), State.spdmOk]
  rfl

theorem State.ideKm_unknown {n : Nat} {on : Bool} (hsession : s.hif.session = true) (hn : 6 ≤ n) : s.ideKm n on = s.spdmErr 0x01 := by
  simp only [State.ideKm, hsession, Bool.not_true, Bool.false_eq_true, if_false, if_pos hn]

end

/-- The outcome of a row that settles what it did. -/
def settled (t : State) : Host.Outcome State Fault Refusal := .next t.settle

/-- Settles O39: the rows of the link and of configuration writes by their equations, a lost link and a VF Enable by the TDIs that
they move, the responder by its requests. -/
theorem hostLink : Obligations.HostLink := by
  unfold Obligations.HostLink
  refine ⟨fun s => ⟨fun rate width h1 h4 hw => ⟨fun hdown hfree hheld href => ?up, fun hup => ?retrain⟩, fun hdown hfree hheld => ?fail,
    fun hup => ?down, fun hheld => ?flr, fun n hn hon => ?ide, fun hconf hopen => ?grace⟩, fun s vf => ⟨exec_tdiConfigChange_pf, ?change,
    fun m => rfl, fun fn on => rfl, fun fn w h0 hm ha => State.cfgWrite_vf h0 hm ha, fun base => rfl,
    fun on n => s.cfgWrite_vfEnable on n rfl, fun h0 => if_neg h0⟩, fun s hup => ?spdm⟩
  case up =>
    change execCxlLinkUp rate width s = _
    simp only [execCxlLinkUp, hdown, hfree, hheld, href, rateWidth_good h1 h4 hw, Bool.not_true, Bool.false_eq_true, or_self, if_false]
  case retrain =>
    change execCxlRetrain rate width s = _
    simp only [execCxlRetrain, hup, rateWidth_good h1 h4 hw, Bool.not_true, Bool.false_eq_true, or_self, if_false]
  case fail =>
    change execLinkTrainFail s = _
    simp only [execLinkTrainFail, hdown, hfree, hheld, Bool.false_eq_true, or_self, if_false, Nat.reduceLeDiff]
  case down =>
    obtain ⟨⟨x, r, e, m, g, hdown⟩, htdi⟩ := State.cxlDown_spec hup
    exact ⟨rfl, by rw [hdown], by rw [hdown], by rw [hdown], by rw [hdown], by rw [hdown], by rw [hdown], by rw [hdown], by rw [hdown],
      by rw [hdown], htdi⟩
  case flr =>
    change execPf0Flr s = _
    simp only [execPf0Flr, hheld, Bool.false_eq_true, if_false]
  case ide =>
    change execIdeRxFail n s = _
    simp only [execIdeRxFail, hn, hon, and_self, if_true]
  case grace =>
    change execIdeGraceExpiry s = _
    simp only [execIdeGraceExpiry, hconf, hopen, Bool.not_false, Bool.and_self, if_true]
  case change =>
    intro h0 w ha t
    have hrow : exec (.tdiConfigChange ⟨vf, w⟩) s = .next (t.flrTdi (vf.toNat - 1)) := by
      rw [exec_tdiConfigChange ha, if_neg h0, State.tdiError_eq]
    have htdi : t.tdi (vf.toNat - 1) = s.tdi (vf.toNat - 1) :=
      State.cfgWrite_vf_tdi w (fun h => h0 (BitVec.eq_of_toNat_eq h)) _
    rw [hrow, State.flrTdi, htdi]
    refine ⟨fun h => by rw [if_pos h], fun h => ?_⟩
    rw [if_neg]
    rcases h with h | h <;> simp [h]
  case spdm =>
    have hlive : ¬ (!s.hif.up) = true := by simp [hup]
    refine ⟨fun i => ⟨fun hi => ?object, fun hi => ?noObject⟩,
    fun c hc => ?unknown, fun c hc h4 h5 h12 => ?plain, ?keyExchange, fun hkey => ?finish, fun hkey => ?unexpected, ?ends, ?closed,
      fun hsession vf => ?tdi, fun hsession n => ?keys⟩
    case object => exact (if_neg hlive).trans (congrArg Host.Outcome.next (if_neg (Nat.not_lt.mpr hi)))
    case noObject => exact (if_neg hlive).trans (congrArg Host.Outcome.next (if_pos hi))
    case unknown => exact (if_neg hlive).trans (congrArg Host.Outcome.next (State.spdmStandard_unknown hc))
    case plain => exact (if_neg hlive).trans (congrArg Host.Outcome.next (State.spdmStandard_plain hc h4 h5 h12))
    case keyExchange => exact (if_neg hlive).trans (congrArg Host.Outcome.next (State.spdmStandard_keyExchange rfl))
    case finish => exact (if_neg hlive).trans (congrArg Host.Outcome.next (State.spdmStandard_finish hkey))
    case unexpected => exact (if_neg hlive).trans (congrArg Host.Outcome.next (State.spdmStandard_unexpected hkey))
    case ends =>
      intro r hr
      simp only [List.mem_cons, List.not_mem_nil, or_false] at hr
      rcases hr with rfl | rfl
      · exact if_neg hlive
      · exact (if_neg hlive).trans (congrArg Host.Outcome.next State.spdmStandard_end)
    case closed =>
      exact fun hsession n vf => ⟨(if_neg hlive).trans (congrArg Host.Outcome.next (State.tdiMove_closed hsession)),
        (if_neg hlive).trans (congrArg settled (State.tdiMove_closed hsession)),
        (if_neg hlive).trans (congrArg settled (State.ideKm_closed hsession)),
        (if_neg hlive).trans (congrArg settled (State.ideKm_closed hsession))⟩
    case tdi =>
      exact ⟨fun hhere hstate => (if_neg hlive).trans (congrArg Host.Outcome.next (State.tdiMove_moves hsession hhere hstate)),
        fun hhere hstate => (if_neg hlive).trans (congrArg settled (State.tdiMove_moves hsession hhere hstate)),
        fun hno => (if_neg hlive).trans (congrArg Host.Outcome.next (State.tdiMove_leaves hsession hno)),
        fun hno => (if_neg hlive).trans (congrArg settled (State.tdiMove_leaves hsession hno))⟩
    case keys =>
      exact ⟨fun hn => ⟨(if_neg hlive).trans (congrArg settled (State.ideKm_sets hsession hn)),
          (if_neg hlive).trans (congrArg settled (State.ideKm_sets hsession hn))⟩,
        fun hn => ⟨(if_neg hlive).trans (congrArg settled (State.ideKm_unknown hsession hn)),
          (if_neg hlive).trans (congrArg settled (State.ideKm_unknown hsession hn))⟩⟩

end Sys2Proof.Machine
end

section
/-!
PROOF. CXL.mem (R303, R306 to R308, R315), snoops, host errors and staging windows (R304, R305, R310, R316, R523).
-/

namespace Sys2Proof.Machine

/-! ## Where an access lies (R303, R306, R307) -/

/-- The HDM range: 64 GiB from its base. -/
theorem State.hdmOff_isSome {s : State} {addr base : Word64} (hb : s.hif.hdm = some base) :
    (s.hdmOff addr).isSome = decide (base.toNat ≤ addr.toNat ∧ addr.toNat < base.toNat + 2 ^ 36) := by
  simp only [State.hdmOff, hb]
  by_cases h : base.toNat ≤ addr.toNat ∧ addr.toNat < base.toNat + 2 ^ 36
  · rw [if_pos h, decide_eq_true h]
    rfl
  · rw [if_neg h, decide_eq_false h]
    rfl

/-- What AER reports moves no window. -/
theorem State.aerReport_windowAt (s : State) (fn bit : Nat) (off : BitVec 36) : (s.aerReport fn bit).windowAt off = s.windowAt off := rfl

theorem Reports.lines {s t : State} (h : Reports s t) : t.lines = s.lines := by
  obtain ⟨r, e, m, g, rfl⟩ := h
  rfl

theorem Reports.hif {s t : State} (h : Reports s t) : t.hif = s.hif := by
  obtain ⟨r, e, m, g, rfl⟩ := h
  rfl

/-- A rejected access is counted, and the first since the count was read is recorded; no line changes. -/
theorem State.memRej_spec (s : State) (w : Bool) (c : Nat) (off : BitVec 36) :
    (s.memRej w c off).lines = s.lines ∧
      (s.hif.rejInfo = none → (s.memRej w c off).hif.rejInfo =
        some (w, BitVec.ofNat 3 c, BitVec.ofNat 8 (off.toNat / 2 ^ 28), off &&& 0xFFFFFFFC0)) ∧
      (s.hif.rejInfo ≠ none → (s.memRej w c off).hif.rejInfo = s.hif.rejInfo) := by
  have hcount := (s.bump_reports 0 .hif 0 0x64 1).trans (State.errBit_reports _ .hif 0 0 63)
  unfold State.memRej
  simp only [(State.raise_reports ..).lines, (State.raise_reports ..).hif, hcount.hif]
  cases hi : s.hif.rejInfo with
  | none => simp [hcount.lines]
  | some x => simp [hcount.lines, hcount.hif, hi]

/-! ## CXL.mem (R306 to R308, R315) -/

section
variable {s : State} {addr : Word64} {env : Env} {off : BitVec 36}

theorem exec_cxlMem_outside (hoff : s.hdmOff addr = none) (mask : Word64) (d : LineData) (poison : Bool) :
    exec (.cxlMemRead addr env) s = .next s ∧ exec (.cxlMemWrite addr mask d poison env) s = .next s := by
  refine ⟨?_, ?_⟩
  · change execCxlMemRead addr env s = _
    simp only [execCxlMemRead, hoff]
  · change execCxlMemWrite addr mask d poison env s = _
    simp only [execCxlMemWrite, hoff]

variable (hoff : s.hdmOff addr = some off) (hup : s.hif.up = true)
include hoff hup

section
variable {c : Nat} (hw : s.windowAt off = .inl c)
include hw

theorem exec_cxlMemRead_rejected :
    exec (.cxlMemRead addr env) s = .next ((s.memRej false c off).say (.memRead (BitVec.allOnes 512))) := by
  change execCxlMemRead addr env s = _
  simp only [execCxlMemRead, hoff, hup, hw, Bool.not_true, Bool.false_eq_true, if_false, allOnesLine]

theorem exec_cxlMemWrite_rejected (mask : Word64) (d : LineData) :
    exec (.cxlMemWrite addr mask d false env) s = .next ((s.memRej true c off).say .memCmp) := by
  change execCxlMemWrite addr mask d false env s = _
  simp only [execCxlMemWrite, hoff, hup, hw, Bool.not_true, Bool.false_eq_true, if_false]

theorem exec_cxlMemWrite_rejected_poison (mask : Word64) (d : LineData) :
    exec (.cxlMemWrite addr mask d true env) s = .next (((s.aerReport 0 12).memRej true c off).say .memCmp) := by
  change execCxlMemWrite addr mask d true env s = _
  simp only [execCxlMemWrite, hoff, hup, State.aerReport_windowAt, hw, Bool.not_true, Bool.false_eq_true, if_false, if_true]

end

variable {a : Acc} (hw : s.windowAt off = .inr a)
include hw

theorem exec_cxlMemWrite_poison (mask : Word64) (d : LineData) :
    exec (.cxlMemWrite addr mask d true env) s = .next ((s.aerReport 0 12).say .memCmp) := by
  change execCxlMemWrite addr mask d true env s = _
  simp only [execCxlMemWrite, hoff, hup, State.aerReport_windowAt, hw, Bool.not_true, Bool.false_eq_true, if_false, if_true,
    Bool.or_true]

theorem exec_cxlMem_stopped (hlive : s.memLive = false) (mask : Word64) (d : LineData) :
    exec (.cxlMemRead addr env) s = .next (s.say (.memRead (BitVec.allOnes 512))) ∧
      exec (.cxlMemWrite addr mask d false env) s = .next (s.say .memCmp) := by
  refine ⟨?_, ?_⟩
  · change execCxlMemRead addr env s = _
    simp only [execCxlMemRead, hoff, hup, hw, hlive, Bool.not_true, Bool.not_false, Bool.false_eq_true, if_false, if_true, allOnesLine]
  · change execCxlMemWrite addr mask d false env s = _
    simp only [execCxlMemWrite, hoff, hup, hw, hlive, Bool.not_true, Bool.not_false, Bool.false_eq_true, if_false, if_true,
      Bool.true_or]

variable (hlive : s.memLive = true)
include hlive

theorem exec_cxlMemRead_ok {d : LineData} {t : State} (hread : memReadBody env a s = .ok d t) :
    exec (.cxlMemRead addr env) s = .next (t.say (.memRead d)) := by
  change execCxlMemRead addr env s = _
  simp only [execCxlMemRead, hoff, hup, hw, hlive, hread, Bool.not_true, Bool.false_eq_true, if_false]

theorem exec_cxlMemRead_halt {h : HaltAt} {t : State} (hread : memReadBody env a s = .error (.halt h) t) :
    exec (.cxlMemRead addr env) s = .next ((t.sealHaltNow h).say (.memRead (BitVec.allOnes 512))) := by
  change execCxlMemRead addr env s = _
  simp only [execCxlMemRead, hoff, hup, hw, hlive, hread, Bool.not_true, Bool.false_eq_true, if_false, allOnesLine]

theorem exec_cxlMemWrite_ok {mask : Word64} {d : LineData} {t : State}
    (hwrite : writeLine env a mask d (s.touchWindow off mask) = .ok () t) :
    exec (.cxlMemWrite addr mask d false env) s = .next (t.say .memCmp) := by
  change execCxlMemWrite addr mask d false env s = _
  simp only [execCxlMemWrite, hoff, hup, hw, hlive, hwrite, Bool.not_true, Bool.false_eq_true, if_false, Bool.or_self]

end

/-- Settles O40: outside the range, rejected, stopped, poisoned and served accesses, each by its own equation. -/
theorem hostMemory : Obligations.HostMemory := by
  unfold Obligations.HostMemory
  refine fun s addr env => ⟨fun hoff mask d poison => exec_cxlMem_outside hoff mask d poison, fun base hb => State.hdmOff_isSome hb,
    fun off hoff hup => ⟨fun c hw => ?rejected, fun a hw => ?reached⟩⟩
  case rejected =>
    exact ⟨exec_cxlMemRead_rejected hoff hup hw, exec_cxlMemWrite_rejected hoff hup hw, exec_cxlMemWrite_rejected_poison hoff hup hw,
      fun w => s.memRej_spec w c off⟩
  case reached =>
    refine ⟨exec_cxlMemWrite_poison hoff hup hw, fun hlive => ⟨(exec_cxlMem_stopped hoff hup hw hlive 0 0).1,
      fun mask d => (exec_cxlMem_stopped hoff hup hw hlive mask d).2⟩, fun hlive => ⟨fun d t hread => ?_, fun h t hread => ?_,
      fun mask d t hwrite => ?_⟩⟩
    · exact exec_cxlMemRead_ok hoff hup hw hlive hread
    · exact exec_cxlMemRead_halt hoff hup hw hlive hread
    · exact exec_cxlMemWrite_ok hoff hup hw hlive hwrite

/-! ## Snoops and host errors (R305, R315, R523) -/

/-- A snoop of a line that the HIF cache holds. -/
theorem exec_hostSnoop_held {s : State} {addr : Nat} {l : HostLine} (k : Snoop) (hup : s.hif.up = true)
    (hl : tget none s.hif.hostCache (addr / 64) = some l) : ∃ t, exec (.hostSnoop k addr) s = .next t ∧
      t.out = s.out ++ [.snoop (if l.modified = true then some l.data else none)] ∧
      tget none t.hif.hostCache (addr / 64) = match k with
        | .inv => none
        | .data => some { l with modified := false }
        | .cur => some l := by
  change ∃ t, execHostSnoop k addr s = .next t ∧ _
  simp only [execHostSnoop, hup, hl, Bool.not_true, Bool.false_eq_true, if_false]
  exact ⟨_, rfl, rfl, tget_tput_same none s.hif.hostCache (addr / 64) _⟩

theorem exec_hostReadError_ring {s : State} {q : QSrc} {e : HostErr} (hf : s.wouldFetch q = true) :
    exec (.hostReadError q e true) s = match q with
      | .mgmt m => .next ((s.aerReport (fnOf (s.partOf q)) (hostErrBit e)).mqStop m.toNat 2).settle
      | .ctx c _ => .next ((s.aerReport (fnOf (s.partOf q)) (hostErrBit e)).failCtx c.toNat 0x1A07).settle := by
  change execHostReadError q e true s = _
  simp only [execHostReadError, hf, if_true, Bool.not_true, Bool.false_eq_true, if_false]
  cases q <;> rfl

theorem exec_hostReadError_cmd {s : State} {q : QSrc} {e : HostErr} {c : Cmd} (hc : s.cmdOf q = some c) (hst : c.started = true) :
    exec (.hostReadError q e false) s =
      .next ((s.aerReport (fnOf (s.partOf q)) (hostErrBit e)).fail q (hostErrCode e) 0 0).settle := by
  change execHostReadError q e false s = _
  simp only [execHostReadError, hc, hst, if_true, Bool.false_eq_true, if_false]

/-- What a refused write reports ends no command. -/
theorem State.refused_cmdOf (s : State) (fn : Nat) (q : QSrc) :
    ((s.errBit .hif 0 4 63).aerReport fn 20).cmdOf q = s.cmdOf q := by
  obtain ⟨r, h⟩ := s.errBit_keeps .hif 0 4 63
  rw [h]
  rfl

/-! ## Staging windows (R306, R310) -/

section
variable {s : State} {v n : Nat} (hn : s.reg 0 .hif 0 0x44 0 % 256 = n)
include hn

theorem State.stgWrite_maps (hvalid : v.testBit 31 = true)
    (hcheck : s.stgCheck n (v % 64) (s.reg (64 + n) .hif 0 0x48 0) (s.reg (64 + n) .hif 0 0x4C 0) = 0) :
    s.stgWrite v = (s.addHold (s.reg (64 + n) .hif 0 0x48 0 % 2 ^ 20) 1).setStg n
      { mapped := true, part := BitVec.ofNat 6 (v % 64), handle := BitVec.ofNat 32 (s.reg (64 + n) .hif 0 0x48 0),
        off4k := s.reg (64 + n) .hif 0 0x4C 0, err := 0 } := by
  simp only [State.stgWrite, hn, hvalid, if_true, hcheck]

theorem State.stgWrite_refused (hvalid : v.testBit 31 = true) {e : Nat}
    (he : s.stgCheck n (v % 64) (s.reg (64 + n) .hif 0 0x48 0) (s.reg (64 + n) .hif 0 0x4C 0) = e) (hne : e ≠ 0) :
    s.stgWrite v = s.setStg n { s.stg n with
      err := BitVec.ofNat 3 e, part := if (s.stg n).mapped then (s.stg n).part else BitVec.ofNat 6 (v % 64) } := by
  simp only [State.stgWrite, hn, hvalid, if_true, he, if_neg hne]

theorem State.stgWrite_unmaps (hvalid : v.testBit 31 = false) (hmapped : (s.stg n).mapped = true) :
    s.stgWrite v = (s.dropHold ((s.stg n).handle.toNat % 2 ^ 20)).setStg n
      { mapped := false, part := BitVec.ofNat 6 (v % 64), handle := 0, off4k := 0, err := 0 } := by
  simp only [State.stgWrite, hn, hvalid, hmapped, if_true, Bool.false_eq_true, if_false]

end

/-- Settles O41: snoops by the line that the HIF cache holds, host errors by what they stop, staging slots by the write of
HIF_STG_MAP. -/
theorem hostEvents : Obligations.HostEvents := by
  unfold Obligations.HostEvents
  refine fun s => ⟨fun hup addr => ⟨fun hnone k => ?miss, fun l hl k => ?held⟩, fun q e => ⟨fun hf => ?ring, fun c hc hst => ?read⟩,
    ⟨fun q c hc => ?forCmd, fun q hc => ?noCmd, fun m => rfl, fun c n => rfl, fun fn => rfl, rfl⟩, fun w hfn hgo hlock => ?staging⟩
  case miss =>
    change execHostSnoop k addr s = _
    simp only [execHostSnoop, hup, hnone, Bool.not_true, Bool.false_eq_true, if_false]
  case held =>
    obtain ⟨t, hrow, hout, hline⟩ := exec_hostSnoop_held k hup hl
    refine ⟨t, hrow, hout, ?_, ?_, ?_⟩ <;> rintro rfl <;> exact hline
  case ring =>
    refine ⟨fun m hq => ?_, fun c n hq => ?_⟩ <;> subst hq <;> exact exec_hostReadError_ring hf
  case read => exact exec_hostReadError_cmd hc hst
  case forCmd =>
    exact congrArg (fun t : State => Host.Outcome.next t.settle) (if_pos (by rw [State.refused_cmdOf, hc]; rfl))
  case noCmd =>
    exact congrArg (fun t : State => Host.Outcome.next t.settle) (if_neg (by rw [State.refused_cmdOf, hc]; exact Bool.false_ne_true))
  case staging =>
    intro v n h o
    have hact : ∀ f : State → State, s.driverWrite w.fn.toNat .hif 0 0x50 true f = f s := by
      rw [hfn]
      exact fun f => State.driverWrite_go hgo fun _ => hlock
    refine ⟨fun hvalid => ⟨fun hcheck => ?_, fun hcheck => ?_⟩, fun hvalid hmapped => ?_⟩
    · exact (if_pos hvalid).trans (congrArg _ ((hact _).trans (State.stgWrite_maps rfl hvalid hcheck)))
    · have hwrite := (hact fun t => t.stgWrite v).trans (State.stgWrite_refused rfl hvalid rfl hcheck)
      exact ⟨_, (if_pos hvalid).trans (congrArg Host.Outcome.next hwrite), by rw [State.setStg_same], by rw [State.setStg_same], rfl⟩
    · have hno : ¬ w.value.toNat.testBit 31 = true := by
        rw [Bool.not_eq_true]
        exact hvalid
      exact (if_neg hno).trans (congrArg _ ((hact _).trans (congrArg State.settle (State.stgWrite_unmaps rfl hvalid hmapped))))

end Sys2Proof.Machine
end

section
/-!
PROOF. The states of a fabric port and who its partner is (R393, R395, R397, R414, R417, R418, R441, R470).
-/

namespace Sys2Proof.Machine

/-! ## The states of a port (R393, R414, R417, R418, R470) -/

section
variable {s : State} {port : BitVec 3} {x : Port} (hx : s.port port.toNat = x)
include hx

theorem exec_trainingTimeout (hstate : x.state = .training) (hfirst : x.retrain = false) :
    exec (.trainingTimeout port) s = .next ((s.errBit .ctn port.toNat 1 63).portDown port.toNat 2).settle := by
  change execTrainingTimeout port s = _
  simp only [execTrainingTimeout, hx, hstate, hfirst, Bool.not_false, and_self, if_true]

theorem exec_retrainTimeout (hstate : x.state = .training) (hagain : x.retrain = true) :
    exec (.retrainTimeout port) s = .next ((s.errBit .ctn port.toNat 1 63).portDown port.toNat 2).settle := by
  change execRetrainTimeout port s = _
  simp only [execRetrainTimeout, hx, hstate, hagain, and_self, if_true]

variable (hup : x.state = .up)
include hup

theorem not_notUp : ¬ (s.port port.toNat).state ≠ .up := by
  rw [hx]
  exact not_not_intro hup

theorem exec_portRetrain_lane : exec (.portRetrain port false) s =
    .next (((s.setPort port.toNat { x with retrain := true, idOk := false }).portMove port.toNat .training 0).raise .ctn
      port.toNat 4 63).settle := by
  subst hx
  exact if_neg (not_notUp rfl hup)

theorem exec_portRetrain_burst {u : State}
    (hu : ((s.bump 0 .ctn port.toNat 0x64 64).errBit .ctn port.toNat 2 63).raise .ctn port.toNat 3 63 = u) :
    exec (.portRetrain port true) s = .next (((u.setPort port.toNat { u.port port.toNat with retrain := true, idOk := false }).portMove
      port.toNat .training 0).raise .ctn port.toNat 4 63).settle := by
  subst hu
  exact if_neg (not_notUp hx hup)

theorem exec_hopRekey_due (hsession : x.session ≠ none) (hdue : 2 ^ 31 ≤ x.txSeq.toNat ∨ 2 ^ 31 ≤ x.rxSeq.toNat) (ok : Bool) :
    exec (.hopRekey port ok) s = if ok then .next (s.draw.2.setPort port.toNat
      { x with session := some (s.draw.1 ++ Config.trng s.freeCtr), txSeq := 0, rxSeq := 0 })
      else .next (s.hopAuth port.toNat).settle := by
  have hsome : x.session.isNone = false := by
    rw [Bool.eq_false_iff]
    exact fun h => hsession (Option.isNone_iff_eq_none.mp h)
  change execHopRekey port ok s = _
  simp only [execHopRekey, hx, hup, hsome, decide_eq_true hdue, ne_eq, not_true_eq_false, Bool.not_true, Bool.false_eq_true, or_self,
    if_false]

end

/-! ## Identity (R395) -/

/-- The version of an identity record: 2 before 1. -/
theorem versionBits (v : Nat) : (v % 8 / 2 * 2).testBit 2 = v.testBit 2 ∧ (v % 8 / 2 * 2).testBit 1 = v.testBit 1 := by
  simp only [Nat.testBit_eq_decide_div_mod_eq, decide_eq_decide]
  omega

/-- The version that an identity record offers. -/
def offered (r : Nat) : Nat := if (field r 4 1).testBit 2 then 2 else if (field r 4 1).testBit 1 then 1 else 0

section
variable {s t : State} {port : BitVec 3} {x : Port} {rec : BitVec 512} {lanes : BitVec 8} (hx : s.port port.toNat = x)
  (hstate : x.state = .training)
include hx hstate

omit hx hstate in
theorem exec_identityRecord_unknown (hd : field rec.toNat 0 4 ≠ 0x44394C49) (hs : field rec.toNat 0 4 ≠ 0x53394C49) :
    exec (.identityRecord port rec lanes) s = .next s := if_pos (.inr (.inl ⟨hd, hs⟩))

/-- What an identity record of a known kind on lanes that fit leads to. -/
theorem exec_identityRecord_known
    (hfits : lanes = 0xFF ∨ ((s.ctnCtrl port.toNat).testBit 3 = true ∧ (lanes = 0x0F ∨ lanes = 0xF0)))
    (hmagic : field rec.toNat 0 4 = 0x44394C49 ∨ field rec.toNat 0 4 = 0x53394C49)
    (ht : s.setPort port.toNat (x.identified rec.toNat (offered rec.toNat) lanes) = t) :
    exec (.identityRecord port rec lanes) s =
      if offered rec.toNat = 0 then .next ((t.errBit .ctn port.toNat 1 63).portDown port.toNat 3).settle
      else if offered rec.toNat = 1 then
        .next (((t.dropSession port.toNat).errBit .ctn port.toNat 1 63).portMove port.toNat .fenced 3).settle
      else if decide (field rec.toNat 0 4 = 0x53394C49) ≠ decide (6 ≤ port.toNat) then
        .next ((t.dropSession port.toNat).portMove port.toNat .fenced 6).settle
      else if decide (field rec.toNat 0 4 = 0x53394C49) then .next (t.place' port.toNat).settle
      else if x.retrain ∧ x.session.isSome ∧ x.serial.toNat = field rec.toNat 8 8 then .next (t.place' port.toNat).settle
      else .next ((t.dropSession port.toNat).portMove port.toNat .attesting 0).settle := by
  obtain ⟨h2, h1⟩ := versionBits (field rec.toNat 4 1)
  have hlanes : (lanes == 0xFF || ((s.ctnCtrl port.toNat).testBit 3 && (lanes == 0x0F || lanes == 0xF0))) = true := by
    simpa only [Bool.or_eq_true, Bool.and_eq_true, beq_iff_eq] using hfits
  have hno : ¬ (x.state ≠ .training ∨ (field rec.toNat 0 4 ≠ 0x44394C49 ∧ field rec.toNat 0 4 ≠ 0x53394C49) ∨
      (!(lanes == 0xFF || ((s.ctnCtrl port.toNat).testBit 3 && (lanes == 0x0F || lanes == 0xF0)))) = true) := by
    rw [hlanes]
    rintro (h | h | h)
    · exact h hstate
    · exact hmagic.elim h.1 h.2
    · exact Bool.false_ne_true h
  unfold offered at ht ⊢
  change execIdentityRecord port rec lanes s = _
  simp only [execIdentityRecord, hx, if_neg hno, h1, h2, ht, State.fence']

section
variable (hfits : lanes = 0xFF ∨ ((s.ctnCtrl port.toNat).testBit 3 = true ∧ (lanes = 0x0F ∨ lanes = 0xF0)))
  (hmagic : field rec.toNat 0 4 = 0x44394C49 ∨ field rec.toNat 0 4 = 0x53394C49)
  (ht : s.setPort port.toNat (x.identified rec.toNat (offered rec.toNat) lanes) = t) (hv : offered rec.toNat = 2)
include hfits hmagic ht hv

/-- A switch of version 2: the plan check on an uplink, FENCED on a torus port. -/
theorem exec_identityRecord_switch (hm : field rec.toNat 0 4 = 0x53394C49) : exec (.identityRecord port rec lanes) s =
    .next (if port.toNat < 6 then (t.dropSession port.toNat).portMove port.toNat .fenced 6 else t.place' port.toNat).settle := by
  rw [exec_identityRecord_known hx hstate hfits hmagic ht, hv, if_neg (by decide), if_neg (by decide), decide_eq_true hm]
  by_cases hp : port.toNat < 6
  · rw [if_pos hp, decide_eq_false (Nat.not_le.mpr hp), if_pos (by decide)]
  · rw [if_neg hp, decide_eq_true (Nat.not_lt.mp hp), if_neg (by decide), if_pos rfl]

/-- A device of version 2: attestation on a torus port, FENCED on an uplink. -/
theorem exec_identityRecord_device (hm : field rec.toNat 0 4 = 0x44394C49) : exec (.identityRecord port rec lanes) s =
    if 6 ≤ port.toNat then .next ((t.dropSession port.toNat).portMove port.toNat .fenced 6).settle
    else if x.retrain ∧ x.session.isSome ∧ x.serial.toNat = field rec.toNat 8 8 then .next (t.place' port.toNat).settle
    else .next ((t.dropSession port.toNat).portMove port.toNat .attesting 0).settle := by
  have hkind : decide (field rec.toNat 0 4 = 0x53394C49) = false := by
    rw [hm]
    decide
  rw [exec_identityRecord_known hx hstate hfits hmagic ht, hv, if_neg (by decide), if_neg (by decide), hkind]
  by_cases hp : 6 ≤ port.toNat
  · rw [if_pos hp, decide_eq_true hp, if_pos (by decide)]
  · rw [if_neg hp, decide_eq_false hp, if_neg (by decide), if_neg Bool.false_ne_true]

end

end

theorem evidencePasses_iff (ev : PeerEvidence) : evidencePasses ev = true ↔
    ev.verifies = true ∧ ev.confidential = true ∧ (ev.lifecycle = 2 ∨ ev.lifecycle = 3) ∧ ev.nonceOk = true := by
  simp only [evidencePasses, Bool.and_eq_true, Bool.or_eq_true, beq_iff_eq, and_assoc]

theorem exec_attestationEvidence {s : State} {port : BitVec 3} {x : Port} {ev : PeerEvidence} (hx : s.port port.toNat = x)
    (hstate : x.state = .attesting) : exec (.attestationEvidence port ev) s =
      if evidencePasses ev && ev.serial == x.serial then
        .next ((s.draw.2.setPort port.toNat { x with attested := true, meas := ev.meas
                                                     session := some (Config.sessionKeys s.draw.1 ev), txSeq := 0
                                                     rxSeq := 0 }).place' port.toNat).settle
      else .next (s.attestFail port.toNat).settle := by
  change execAttestationEvidence port ev s = _
  simp only [execAttestationEvidence, hx, hstate, ne_eq, not_true_eq_false, if_false]

/-- Settles O42: the rows of a port each by its own equation, an identity record by its version and kind, evidence by its checks. -/
theorem fabricPorts : Obligations.FabricPorts := by
  unfold Obligations.FabricPorts
  refine ⟨fun s port => ⟨fun hgate => ⟨fun on hlock => ?enable, ?reset⟩, rfl, fun hstate hfirst => exec_trainingTimeout rfl hstate hfirst,
    fun hstate hagain => exec_retrainTimeout rfl hstate hagain, fun hup => ⟨exec_portRetrain_lane rfl hup,
    exec_portRetrain_burst rfl hup rfl, if_neg (not_notUp rfl hup), if_neg (not_notUp rfl hup), fun hsession hdue => ?rekey⟩, rfl⟩,
    fun s port => ⟨fun rec lanes hstate => ?identity, fun hstate ev => ?evidence, fun hstate => ?timeout⟩⟩
  case enable => exact congrArg Host.Outcome.next (State.driverWrite_go hgate fun _ => hlock)
  case reset => exact congrArg Host.Outcome.next (State.driverWrite_go hgate fun h => nomatch h)
  case rekey =>
    exact ⟨⟨_, _, exec_hopRekey_due rfl hup hsession hdue true⟩, exec_hopRekey_due rfl hup hsession hdue false⟩
  case identity =>
    intro r magic version t fits
    refine ⟨fun hd hs => exec_identityRecord_unknown hd hs, fun hfits hmagic => ?_⟩
    have hrow := exec_identityRecord_known (t := t) rfl hstate hfits hmagic rfl
    refine ⟨fun hv => ?_, fun hv => ?_, fun hv hm => ?_, fun hv hm => ⟨fun hp => ?_, fun hp hfirst => ?_⟩⟩
    · exact hrow.trans (if_pos hv)
    · have h0 : ¬ offered rec.toNat = 0 := fun h => absurd (hv.symm.trans h) (by decide)
      exact hrow.trans ((if_neg h0).trans (if_pos hv))
    · exact exec_identityRecord_switch rfl hstate hfits hmagic rfl hv hm
    · exact (exec_identityRecord_device rfl hstate hfits hmagic rfl hv hm).trans (if_pos hp)
    · refine (exec_identityRecord_device rfl hstate hfits hmagic rfl hv hm).trans ((if_neg (Nat.not_le.mpr hp)).trans (if_neg ?_))
      rw [hfirst]
      exact fun h => Bool.false_ne_true h.1
  case evidence =>
    intro passes
    have hpass : (evidencePasses ev && ev.serial == (s.port port.toNat).serial) = true ↔ passes := by
      rw [Bool.and_eq_true, evidencePasses_iff, beq_iff_eq]
      simp only [passes, and_assoc]
    refine ⟨fun h => ⟨_, _, (exec_attestationEvidence rfl hstate).trans (if_pos (hpass.mpr h))⟩,
      fun h => (exec_attestationEvidence rfl hstate).trans (if_neg (mt hpass.mp h))⟩
  case timeout =>
    change execAttestTimeout port s = _
    simp only [execAttestTimeout, hstate, if_true]
    rfl

end Sys2Proof.Machine
end

section
/-!
PROOF. Packets and pair sessions of the fabric (R404, R406, R407, R409 to R415).
-/

namespace Sys2Proof.Machine

/-! ## Packets (R404, R406, R411 to R414) -/

theorem exec_vc0CreditTimeout {s : State} {port : BitVec 3} {k : Pkt} {rest : List Pkt}
    (hk : takeFirst (fun (k : Pkt) => pktVc k.data == 0) (s.port port.toNat).txq = some (k, rest)) :
    exec (.vc0CreditTimeout port) s = .next ((s.setPort port.toNat { s.port port.toNat with txq := rest }).discard
      (some port.toNat) k 0).settle := by
  change execVc0CreditTimeout port s = _
  simp only [execVc0CreditTimeout, hk]

theorem exec_packetInject {s : State} {w : InjectIn} {c : Cmd} (hc : s.cmdOf w.src = some c) (hst : c.started = true)
    (hlen : w.payload.length ≤ 1024) :
    exec (.packetInject w) s = .next ((s.inject w).elim (fun code => s.fail w.src code 0 0) id).settle := by
  change execPacketInject w s = _
  simp only [execPacketInject, hc, hst, Bool.not_true, Bool.false_eq_true, false_or, if_neg (Nat.not_lt.mpr hlen)]
  cases s.inject w <;> rfl

section
variable {s : State} {w : PacketIn} {x : Port} {d : List Byte} (hx : s.port w.port.toNat = x)
  (hd : leBytes 16 w.header.toNat ++ w.payload = d) (hup : x.state = .up)
  (hlen : w.payload.length = pktLen d + (if pktMgmt d = true then 0 else 16))
include hx hd hup hlen

theorem exec_packetReceive_bad (hhop : w.hopOk = false) : exec (.packetReceive w) s = .next (s.bump 0 .ctn w.port.toNat 0x6C 1) := by
  subst hx hd
  change execPacketReceive w s = _
  simp only [execPacketReceive, hup, hlen, hhop, ne_eq, not_true_eq_false, or_self, if_false, Bool.not_false, if_true, State.hopFailed]

/-- A torus port takes packets in order. -/
theorem exec_packetReceive_torus (hhop : w.hopOk = true) (hp : w.port.toNat < 6) :
    exec (.packetReceive w) s = if w.hopSeq ≠ x.rxSeq then .next s
      else .next ((s.setPort w.port.toNat { x with rxSeq := x.rxSeq + 1 }).takePacket w.port.toNat d w.jobOk).settle := by
  subst hx hd
  change execPacketReceive w s = _
  simp only [execPacketReceive, hup, hlen, hhop, hp, ne_eq, not_true_eq_false, or_self, if_false, Bool.not_true, Bool.false_eq_true,
    if_true]

end

theorem Reports.cmdOf {s t : State} (h : Reports s t) (q : QSrc) : t.cmdOf q = s.cmdOf q := by
  obtain ⟨r, e, m, g, rfl⟩ := h
  rfl

theorem Reports.partOf {s t : State} (h : Reports s t) (q : QSrc) : t.partOf q = s.partOf q := by
  obtain ⟨r, e, m, g, rfl⟩ := h
  cases q <;> rfl

theorem exec_lossPacket {s : State} {l : LossIn} {p : Nat} {c : Cmd} (hp : s.sliceOwner l.slice.toNat = some p)
    (hc : s.cmdOf l.src = some c) (hpart : s.partOf l.src = p) :
    exec (.lossPacket l) s = .next (((s.bump2 p .frt 0 0x68 1).raise .frt 0 4 p).fail l.src 0x2901 0 0).settle := by
  have hrep : Reports s ((s.bump2 p .frt 0 0x68 1).raise .frt 0 4 p) := (s.bump2_reports ..).trans (State.raise_reports ..)
  change execLossPacket l s = _
  simp only [execLossPacket, hp, hrep.cmdOf, hc, hrep.partOf, hpart, if_true]

/-- A report enters the group's map in the place of an older one of its device. -/
theorem exec_linkReport {s : State} {r : LinkRep} (hplan : s.frt.plan ≠ none) (hself : r.dev.toNat ≠ s.devNum)
    (hdev : s.devExists r.dev.toNat = true) (hgroup : s.sameGroup s.devNum r.dev.toNat = true) :
    ∃ t, exec (.linkReport r) s = .next t ∧ t.frt.map = r :: s.frt.map.filter fun x => x.dev != r.dev := by
  have hsome : s.frt.plan.isNone = false := by
    rw [Bool.eq_false_iff]
    exact fun h => hplan (Option.isNone_iff_eq_none.mp h)
  change ∃ t, execLinkReport r s = .next t ∧ _
  simp only [execLinkReport, hsome, hself, hdev, hgroup, Bool.not_true, Bool.false_eq_true, or_self, if_false]
  refine ⟨_, rfl, ?_⟩
  obtain ⟨r', e, m, g, h⟩ := State.raise_reports { s with frt := { s.frt with
    map := r :: s.frt.map.filter fun x => x.dev != r.dev, twoMeas := _ } } .frt 0 2 63
  rw [h]

/-! ## Pair sessions (R409, R410) -/

section
variable {s : State} {dev : BitVec 10} {ev : PeerEvidence}

theorem exec_pairAttest_open {x : Pair} (hpeer : s.pairPeer dev.toNat = true) (hx : s.pair dev.toNat = some x)
    (hev : evidencePasses ev = true) : exec (.pairAttest dev ev) s = .next ((s.draw.2.setPair dev.toNat
      { x with up := true, keys := Config.sessionKeys s.draw.1 ev, rxSeq := none, closing := false, used := s.pairUse }).pairGo
        dev.toNat).settle := by
  change execPairAttest dev ev s = _
  simp only [execPairAttest, hpeer, hx, hev, Bool.not_true, Bool.false_eq_true, if_false]

theorem exec_pairAttest_dead {x : Pair} (hpeer : s.pairPeer dev.toNat = true) (hx : s.pair dev.toNat = some x)
    (hev : evidencePasses ev = false) (hnew : x.up = false) :
    exec (.pairAttest dev ev) s = .next (s.pairDead dev.toNat).settle := by
  change execPairAttest dev ev s = _
  simp only [execPairAttest, hpeer, hx, hev, hnew, Bool.not_true, Bool.not_false, Bool.false_eq_true, if_false, if_true]

theorem exec_pairAttest_new (hpeer : s.pairPeer dev.toNat = true) (hx : s.pair dev.toNat = none) (hev : evidencePasses ev = true)
    (hroom : s.frt.pairs.length < 1024) : exec (.pairAttest dev ev) s = .next ((s.draw.2.setPair dev.toNat
      { up := true, keys := Config.sessionKeys s.draw.1 ev, waiting := [], closing := false, used := s.pairUse,
        rxSeq := none }).mgmtPacket dev.toNat 3 []) := by
  change execPairAttest dev ev s = _
  simp only [execPairAttest, hpeer, hx, hev, Bool.not_true, Bool.false_eq_true, if_false, false_or, if_neg (Nat.not_le.mpr hroom)]

theorem exec_pairAttestTimeout {x : Pair} (hx : s.pair dev.toNat = some x) (hnew : x.up = false) :
    exec (.pairAttestTimeout dev) s = .next (s.pairDead dev.toNat).settle := by
  change execPairAttestTimeout dev s = _
  simp only [execPairAttestTimeout, hx, hnew, Bool.false_eq_true, if_false]

section
variable {x : Pair} {gone : State}
  (hgone : { s with frt := { s.frt with pairs := s.frt.pairs.filter fun e => e.1 != dev } } = gone)
  (hx : s.pair dev.toNat = some x)
include hgone hx

theorem exec_pairClose_ack (hclosing : x.closing = true) : exec (.pairClose dev true) s = .next gone := by
  change execPairClose dev true s = _
  simp only [execPairClose, hx, hclosing, hgone, if_true]

theorem exec_pairClose_idle (hbusy : s.pairBusy dev.toNat = false) :
    exec (.pairClose dev false) s = .next (gone.mgmtPacket dev.toNat 3 [2]) := by
  change execPairClose dev false s = _
  simp only [execPairClose, hx, hbusy, hgone, Bool.false_eq_true, if_false]

end

theorem exec_pairClose_busy {x : Pair} (hx : s.pair dev.toNat = some x) (hbusy : s.pairBusy dev.toNat = true) :
    exec (.pairClose dev false) s = .next s := by
  change execPairClose dev false s = _
  simp only [execPairClose, hx, hbusy, Bool.false_eq_true, if_false, if_true]

end

/-- Settles O44: packets and pair sessions, each row by its own equation. -/
theorem fabricPackets : Obligations.FabricPackets := by
  unfold Obligations.FabricPackets
  refine ⟨fun s => ⟨?credit, fun port k rest hk => exec_vc0CreditTimeout hk, fun w c hc hst hlen => ?inject, ?receive,
    fun l p c hp hc hpart => exec_lossPacket hp hc hpart, fun r hplan hself hdev hgroup => ?report⟩, fun s dev => ?pairs⟩
  case credit => exact fun port vc cls units hup => if_neg (not_not_intro hup)
  case inject =>
    have hrow := exec_packetInject hc hst hlen
    refine ⟨fun code hcode => ?_, fun t ht => ?_⟩
    · rw [hrow, hcode]
      rfl
    · rw [hrow, ht]
      rfl
  case receive =>
    intro w p x d hup hlen
    refine ⟨fun hhop => exec_packetReceive_bad rfl rfl hup hlen hhop, fun hhop hp => ⟨fun hseq => ?_, fun hseq => ?_⟩⟩
    · exact (exec_packetReceive_torus rfl rfl hup hlen hhop hp).trans (if_pos hseq)
    · exact (exec_packetReceive_torus rfl rfl hup hlen hhop hp).trans (if_neg (not_not_intro hseq))
  case report =>
    obtain ⟨t, hrow, hmap⟩ := exec_linkReport hplan hself hdev hgroup
    refine ⟨t, hrow, by rw [hmap]; exact List.mem_cons_self, fun y hy hdev => ?_⟩
    rw [hmap] at hy
    rcases List.mem_cons.mp hy with rfl | hold
    · rfl
    · simp [hdev] at hold
  case pairs =>
    intro d gone
    refine ⟨fun hpeer ev => ⟨fun x hx => ⟨fun hev => ⟨_, _, exec_pairAttest_open hpeer hx hev⟩,
      fun hev hnew => exec_pairAttest_dead hpeer hx hev hnew⟩, fun hx hev hroom => ⟨_, _, exec_pairAttest_new hpeer hx hev hroom⟩⟩,
      fun x hx hnew => exec_pairAttestTimeout hx hnew, fun x hx => ⟨fun hclosing => exec_pairClose_ack rfl hx hclosing,
      fun hbusy => exec_pairClose_idle rfl hx hbusy, fun hbusy => exec_pairClose_busy hx hbusy⟩⟩

end Sys2Proof.Machine
end

section
/-!
PROOF. Loading a plan, and open mode (R399, R404).
-/

namespace Sys2Proof.Machine

section
variable {s : State} (hgate : s.gate 0 .frt 0 true false = .go) (hlive : s.partLive = true)
include hgate hlive

/-- A load that fails leaves the plan and names what failed. -/
theorem exec_planLoad_fails {plan : Option (List Byte)} {err : Nat} (hne : err ≠ 0)
    (herr : (match plan with
      | none => 1
      | some l => s.planCheck l) = err) :
    exec (.planLoad 0 plan) s =
      .next ((State.raise { s with frt := { s.frt with planErr := BitVec.ofNat 4 err } } .frt 0 0 63).settle) := by
  have hno : ¬ (!s.partLive) = true := by simp [hlive]
  subst herr
  refine congrArg Host.Outcome.next ((State.driverWrite_go (lockable := false) hgate fun h => nomatch h).trans ((if_neg hno).trans ?_))
  exact congrArg (fun t : State => (t.raise .frt 0 0 63).settle) (if_pos hne)

/-- A plan that passes is the device's plan; what the map holds of devices outside the new group goes. -/
theorem exec_planLoad_loads {l : List Byte} (hpass : s.planCheck l = 0) {u v : State}
    (hu : { s with frt := { s.frt with planErr := 0, plan := some l } } = u)
    (hv : { u with frt := { u.frt with
      map := s.frt.map.filter fun r => u.devExists r.dev.toNat && u.sameGroup u.devNum r.dev.toNat && r.dev.toNat != u.devNum
      twoMeas := s.frt.twoMeas.filter fun d => u.devExists d.toNat && u.sameGroup u.devNum d.toNat && d.toNat != u.devNum } } = v) :
    exec (.planLoad 0 (some l)) s = .next (((State.replanned s v).raise .frt 0 0 63).settle) := by
  have hno : ¬ (!s.partLive) = true := by simp [hlive]
  subst hv hu
  refine congrArg Host.Outcome.next ((State.driverWrite_go (lockable := false) hgate fun h => nomatch h).trans ((if_neg hno).trans ?_))
  refine (congrArg (fun t : State => (t.raise .frt 0 0 63).settle) (if_neg (not_not_intro hpass))).trans ?_
  simp only [hpass]
  rfl

end

/-- Settles O45: a load by the outcome of its checks, OPEN by the slices that partitions hold. -/
theorem fabricPlan : Obligations.FabricPlan := by
  unfold Obligations.FabricPlan
  refine fun s hgate => ⟨fun hlive => ⟨exec_planLoad_fails hgate hlive (by decide) rfl, fun l => ⟨fun hne => ?fails, fun hpass => ?loads⟩⟩,
    fun hlock w hfn => ?opens⟩
  case fails => exact exec_planLoad_fails hgate hlive hne rfl
  case loads => exact exec_planLoad_loads hgate hlive hpass rfl rfl
  case opens =>
    intro free on t
    have hfree : (¬ (s.parts.any fun e => e.2.slice.isSome) = true) ↔ free := by
      simp only [free, List.any_eq_true, not_exists, not_and, Bool.not_eq_true, Option.isSome_eq_false_iff, Option.isNone_iff_eq_none]
    have hwrite : s.frtWrite w.value.toNat = if t.openMode = s.openMode then t else (State.replanned s t).settle := by
      have hopen : (w.value.toNat % 2 = 1 ∧ (!s.parts.any fun e => e.2.slice.isSome) = true) ↔ on := by
        rw [Bool.not_eq_true', ← Bool.not_eq_true]
        exact and_congr_right fun _ => hfree
      have hset : s.setReg 0 .frt 0 0x10 0 (if w.value.toNat % 2 = 1 ∧ (!s.parts.any fun e => e.2.slice.isSome) = true then 1 else 0) = t :=
        congrArg (s.setReg 0 .frt 0 0x10 0) (if_congr hopen rfl rfl)
      simp only [State.frtWrite, hset]
    change execFrtOpen w s = _
    rw [execFrtOpen, hfn]
    exact congrArg Host.Outcome.next ((State.driverWrite_go hgate fun _ => hlock).trans hwrite)

end Sys2Proof.Machine
end

section
/-!
PROOF. Moves of the life cycle (R425, R428, R429, R508), on what burning does to the life-cycle word.
-/

namespace Sys2Proof.Machine

/-- A move of R428 goes forward, to a state of the table, and from none to another in SCRAP. -/
theorem State.lifeMove_forward {s : State} {target : Nat} {y : Bool × Bool} (h : s.lifeMove target = some y) :
    s.lifecycle < target ∧ target ≤ 5 := by
  unfold State.lifeMove at h
  split at h
  case h_9 => exact nomatch h
  all_goals
    next hlife => omega

/-- A device whose state is not SCRAP holds three copies of its life-cycle word. -/
theorem State.copies_of_lifecycle {s : State} (h : s.lifecycle ≠ 5) : ∃ a b c, s.sec.lc = [a, b, c] := by
  by_contra hno
  exact h (State.lifecycle_of_no_copies fun a b c hlc => hno ⟨a, b, c, hlc⟩)

/-- Burning the word of a state leads a device that is not SCRAP to the later of the two. -/
theorem State.lifecycle_burnLife {s : State} {code : Nat} (h : s.lifecycle ≠ 5) (hc : code ≤ 5) :
    (s.burnLife code).lifecycle = max s.lifecycle code := by
  obtain ⟨a, b, c, hlc⟩ := State.copies_of_lifecycle h
  have hlife := State.lifecycle_of_copies hlc
  have hmax : majority a b c ||| lifeWord code = lifeWord (max (lifeCode (majority a b c)) code) := by
    rw [← lifeWord_or (lifeCode_le _) hc, lifeWord_lifeCode (hlife ▸ h)]
  rw [State.lifecycle_burnLife_of_copies code hlc, hmax, lifeCode_lifeWord (max_le (lifeCode_le _) hc), hlife]

/-- Entry to RETURN burns its word. -/
theorem State.lifecycle_returnEntry (s : State) : s.returnEntry.lifecycle = (s.burnLife 4).lifecycle := rfl

/-- Settles O49: moves and the entry to RETURN by the word that they burn, DUS by the state that the station finds. -/
theorem lifeCycle : Obligations.LifeCycle := by
  unfold Obligations.LifeCycle
  refine ⟨fun s target y h hreturn => ?move, fun s h => ?entry, fun s target h => ?scrap, fun s v => ⟨fun h => if_pos h, fun h => if_neg h, rfl⟩⟩
  case move =>
    obtain ⟨hlt, hle⟩ := State.lifeMove_forward h
    rw [State.lifecycle_burnLife (by omega) hle, max_eq_right hlt.le]
  case entry =>
    rw [State.lifecycle_returnEntry, State.lifecycle_burnLife (by omega) (by decide), max_eq_right (by omega)]
  case scrap =>
    cases hm : s.lifeMove target with
    | none => rfl
    | some y =>
      obtain ⟨hlt, hle⟩ := State.lifeMove_forward hm
      omega

end Sys2Proof.Machine
end

section
/-!
PROOF. KEY_LOAD and the mailbox (R434, R438, R440, R445, R450, R451).
-/

namespace Sys2Proof.Machine

/-! ## KEY_LOAD (R438, R445) -/

/-- SEC_KEY_FAULT records a fault of KEY_LOAD. -/
def State.keyFaulted (s : State) (q : QSrc) (code : Nat) : State :=
  (State.errBit { s with sec := { s.sec with keyFault := (BitVec.ofNat 12 (ctxOf q), BitVec.ofNat 16 code) } } .sec 0 2 63).raise
    .sec 0 1 63

theorem keyFlt_run {α : Type} (q : QSrc) (code : Nat) (s : State) :
    (keyFlt q code : M α) s = .error (.fault code 0 0) (s.keyFaulted q code) := rfl

/-- A KeyID that is BOUND to the partition passes check 4 of R438. -/
theorem kidFits {k : KeyId} {p : Nat} (hbound : k.state = .bound) (howner : k.owner.toNat = p) :
    (k.state != .bound || k.owner.toNat != p) = false := by
  rw [hbound, howner, bne_self_eq_false, bne_self_eq_false, Bool.or_self]

section
variable {t u : State} {q : CmdIn} {d : Nat} {b : List Byte} (hlen : field d 24 4 = 128)
  (hread : vread { src := q.src, env := q.env } .copy 0x1901 (field d 16 8) 128 t = .ok b u) (hform : blobForm b = true)
include hlen hread hform

theorem keyLoad_otherBoot (hboot : leAt b 8 8 ≠ u.bootId) :
    keyLoadBody q d t = .error (.fault 0x0402 0 0) (u.keyFaulted q.src 0x0402) := by
  simp only [keyLoadBody, run_bind, run_look, hlen, Nat.min_self, hread, hform, ne_eq, not_true_eq_false, Bool.not_true,
    Bool.false_eq_true, or_self, if_false, hboot, not_false_eq_true, if_true, keyFlt_run]

variable (hboot : leAt b 8 8 = u.bootId)
include hboot

theorem keyLoad_noUnwrap (hun : u.unwrap b = none) :
    keyLoadBody q d t = .error (.fault 0x0401 0 0) (u.keyFaulted q.src 0x0401) := by
  simp only [keyLoadBody, run_bind, run_look, hlen, Nat.min_self, hread, hform, ne_eq, not_true_eq_false, Bool.not_true,
    Bool.false_eq_true, or_self, if_false, hboot, hun, keyFlt_run]

variable {secret : List Byte} (hun : u.unwrap b = some secret) {kid p : Nat} (hkid : field d 8 2 = kid) (hp : t.partOf q.src = p)
include hun hkid hp

/-! ### A key for memory -/

section
variable (htype : leAt b 6 1 = 1)
include htype

theorem keyLoad_mem_other (hother : leAt b 16 1 ≠ p ∨ leAt b 18 2 ≠ kid) :
    keyLoadBody q d t = .error (.fault 0x0403 0 0) (u.keyFaulted q.src 0x0403) := by
  simp only [keyLoadBody, run_bind, run_look, hlen, Nat.min_self, hread, hform, hboot, hun, htype, hkid, hp, ne_eq, not_true_eq_false,
    Bool.not_true, Bool.false_eq_true, or_self, if_false, Nat.reduceBEq]
  rw [if_pos hother]
  simp only [run_bind, keyFlt_run]

variable (hpart : leAt b 16 1 = p) (hmine : leAt b 18 2 = kid)
include hpart hmine

theorem keyLoad_mem_unbound (hk : (u.kid kid).state ≠ .bound ∨ (u.kid kid).owner.toNat ≠ p) :
    keyLoadBody q d t = .error (.fault 0x0404 0 0) (u.keyFaulted q.src 0x0404) := by
  have hbad : ((u.kid kid).state != .bound || (u.kid kid).owner.toNat != p) = true := by
    simpa only [Bool.or_eq_true, bne_iff_ne] using hk
  simp only [keyLoadBody, run_bind, run_look, hlen, Nat.min_self, hread, hform, hboot, hun, htype, hkid, hp, hpart, hmine, ne_eq,
    not_true_eq_false, Bool.not_true, Bool.false_eq_true, or_self, if_false, Nat.reduceBEq, hbad, if_true, keyFlt_run]

variable (hbound : (u.kid kid).state = .bound) (howner : (u.kid kid).owner.toNat = p)
include hbound howner

theorem keyLoad_mem_masked (hmask : (leAt b 20 4).testBit (23 + u.lifecycle) = false) :
    keyLoadBody q d t = .error (.fault 0x0405 0 0) (u.keyFaulted q.src 0x0405) := by
  have hgood := kidFits hbound howner
  simp only [keyLoadBody, run_bind, run_look, hlen, Nat.min_self, hread, hform, hboot, hun, htype, hkid, hp, hpart, hmine, ne_eq,
    not_true_eq_false, Bool.not_true, Bool.false_eq_true, or_self, if_false, Nat.reduceBEq, hgood, hmask, Bool.and_false,
    Bool.not_false, if_true, keyFlt_run]

theorem keyLoad_mem_keyed (hlo : 1 ≤ u.lifecycle) (hhi : u.lifecycle ≤ 4)
    (hmask : (leAt b 20 4).testBit (23 + u.lifecycle) = true) :
    keyLoadBody q d t = .ok (.done 0 0 0 0)
      (u.setKid kid { u.kid kid with state := .keyed, blob := BitVec.ofNat 1024 (ofLe b) }) := by
  have hgood := kidFits hbound howner
  have hlife : decide (1 ≤ u.lifecycle ∧ u.lifecycle ≤ 4) = true := decide_eq_true ⟨hlo, hhi⟩
  simp only [keyLoadBody, run_bind, run_look, run_upd, run_pure, hlen, Nat.min_self, hread, hform, hboot, hun, htype, hkid, hp, hpart,
    hmine, ne_eq, not_true_eq_false, Bool.not_true, Bool.false_eq_true, or_self, if_false, Nat.reduceBEq, hgood, hmask, hlife,
    Bool.and_self, ok]

end

/-! ### A job's key -/

theorem keyLoad_job {r : BitVec 256 × List Byte} (htype : leAt b 6 1 = 2) (hpart : leAt b 16 1 = p) (hzero : kid = 0)
    (hfree : (u.part p).job = none) (hr : (u.sec.jobRecs.find? fun r => (r.1.setWidth 224).toNat == leAt b 36 28) = some r)
    (hmeas : jobMeas r.2 = u.sec.m4) (hslice : ∀ n, jobSlice r.2 = some n → ((u.part p).slice.map (·.toNat)) = some n) :
    keyLoadBody q d t = .ok (.done 0 0 0 0) (u.installJob p r.1 (BitVec.ofNat 256 (ofLe secret)) r.2) := by
  simp only [keyLoadBody, run_bind, run_look, hlen, Nat.min_self, hread, hform, hboot, hun, htype, hkid, hp, hpart, hzero, hfree, hr,
    hmeas, ne_eq, not_true_eq_false, Bool.not_true, Bool.false_eq_true, or_self, if_false, beq_self_eq_true, if_true,
    Option.isSome_none, ok]
  cases hs : jobSlice r.2 with
  | none => simp only [Bool.not_true, Bool.false_eq_true, or_self, if_false, run_bind, run_upd, run_pure]
  | some n =>
    simp only [hslice n hs, beq_self_eq_true, Bool.not_true, Bool.false_eq_true, or_self, if_false, run_bind, run_upd, run_pure]

end

/-! ## The mailbox (R450) -/

/-- An operation that ends answers its STATUS and the length of its response, and BUSY is 0. -/
theorem State.mbEnd_sec (s : State) (n len : Nat) : (s.mbEnd n len).sec.busy = false ∧
    (s.mbEnd n len).sec.status = BitVec.ofNat 4 n ∧ (s.mbEnd n len).sec.respLen = BitVec.ofNat 17 len := by
  unfold State.mbEnd
  obtain ⟨r, e, m, g, h⟩ := State.raise_reports
    { (if n = 2 then s.errBit .sec 0 0 63 else if n = 7 then s.errBit .sec 0 1 63 else s) with
      sec := { (if n = 2 then s.errBit .sec 0 0 63 else if n = 7 then s.errBit .sec 0 1 63 else s).sec with
        busy := false, status := BitVec.ofNat 4 n, respLen := BitVec.ofNat 17 len } } .sec 0 0 63
  rw [h]
  exact ⟨rfl, rfl, rfl⟩

section
variable {s v : State} {op : Nat} {m : MbIn} {body : State → List Byte → MbEnd} (hv : s.setReg 0 .sec 0 0x40 0 op = v)
include hv

theorem State.mbPerform_failed (hreq : m.req = none) : s.mbPerform op m body = v.mbEnd 7 0 := by
  subst hv
  simp only [State.mbPerform, hreq]

theorem State.mbPerform_refused {l : List Byte} {n : Nat} (hreq : m.req = some l) (hb : body v l = .refuse n) :
    s.mbPerform op m body = v.mbEnd n 0 := by
  subst hv
  simp only [State.mbPerform, hreq, hb]

/-- A performed operation answers where its buffer takes the response. -/
theorem State.mbPerform_done {l r : List Byte} {n : Nat} {u : State} (hreq : m.req = some l) (hb : body v l = .done n r u) :
    s.mbPerform op m body = if v.mbBuf < r.length then v.mbEnd 1 0
      else (if r.isEmpty then u else u.hostPost 0 .mailbox none none v.mbAddr r).mbEnd n r.length := by
  subst hv
  simp only [State.mbPerform, hreq, hb]

/-- However it ends, an operation leaves BUSY 0. -/
theorem State.mbPerform_busy : (s.mbPerform op m body).sec.busy = false := by
  cases hreq : m.req with
  | none => rw [State.mbPerform_failed hv hreq, (State.mbEnd_sec ..).1]
  | some l =>
    cases hb : body v l with
    | refuse n => rw [State.mbPerform_refused hv hreq hb, (State.mbEnd_sec ..).1]
    | done n r u =>
      rw [State.mbPerform_done hv hreq hb]
      split <;> rw [(State.mbEnd_sec ..).1]

end

section
variable {s : State} {op : Nat} {m : MbIn} {body : State → List Byte → MbEnd}

theorem State.mailbox_busy (hbusy : s.sec.busy = true) : s.mailbox op m body = s := by
  simp only [State.mailbox, hbusy, Bool.or_true, if_true]

theorem State.mailbox_starts (hlive : s.mbLive = true) (hfree : s.sec.busy = false) : s.mailbox op m body = s.mbPerform op m body := by
  simp only [State.mailbox, hlive, hfree, Bool.not_true, Bool.or_self, Bool.false_eq_true, if_false]

end

theorem exec_getEvidence {s : State} {m : MbIn} (hlive : s.mbLive = true) :
    exec (.getEvidence m) s = .next (s.mbPerform 1 m evidenceOp) := by
  have hboot : s.pwr.state ≠ .boot := by
    rw [State.mbLive, Bool.and_eq_true, decide_eq_true_eq] at hlive
    exact hlive.1
  change execGetEvidence m s = _
  simp only [execGetEvidence, if_neg hboot, hlive, Bool.not_true, Bool.false_eq_true, if_false]

theorem exec_lcAdvance {s t : State} {m : MbIn} (hlive : s.mbLive = true) (hfree : s.sec.busy = false)
    (ht : s.mbPerform 6 m lcAdvanceOp = t) :
    exec (.lcAdvance m) s = .next (if t.sec.lc = s.sec.lc then t else t.warm .lcAdvance) := by
  change execLcAdvance m s = _
  simp only [execLcAdvance, State.mailbox_starts hlive hfree, ht]
  split <;> rfl

theorem exec_secMbReservedOpcode {s : State} {op : Byte} {m : MbIn} (hlive : s.mbLive = true) (hfree : s.sec.busy = false)
    (hwf : (Instr.secMbReservedOpcode op m).wellFormed = true) :
    exec (.secMbReservedOpcode op m) s = .next (s.mbPerform op.toNat m fun _ _ => .refuse 1) := by
  change execSecMbReservedOpcode op m s = _
  rw [execSecMbReservedOpcode, if_pos hwf, State.mailbox_starts hlive hfree]

/-- Settles O46: KEY_LOAD by the first check that fails, or by what it installs; the mailbox by how an operation ends. -/
theorem keysAndMailbox : Obligations.KeysAndMailbox := by
  unfold Obligations.KeysAndMailbox
  refine ⟨fun s q t h => ?keyLoad, fun s m hlive => ⟨fun hbusy i hi => ?ignored, fun hfree => ?starts, exec_getEvidence hlive,
    fun op body => ?ends⟩⟩
  case keyLoad =>
    intro d kid p b u hlen hread hform faulted
    refine ⟨fun hboot => descriptor_faults h (keyLoad_otherBoot hlen hread hform hboot), fun hboot => ⟨fun hun =>
      descriptor_faults h (keyLoad_noUnwrap hlen hread hform hboot hun), fun secret hun => ⟨fun htype => ⟨fun hother =>
      descriptor_faults h (keyLoad_mem_other hlen hread hform hboot hun rfl rfl htype hother), fun hpart hmine => ?mem⟩,
      fun htype hpart hzero hfree r hr hmeas hslice => ?job⟩⟩⟩
    case mem =>
      refine ⟨fun hk => ?_, fun hbound howner hlo hhi => ⟨fun hmask => ?_, fun hmask => ?_⟩⟩
      · exact descriptor_faults h (keyLoad_mem_unbound hlen hread hform hboot hun rfl rfl htype hpart hmine hk)
      · exact descriptor_faults h (keyLoad_mem_masked hlen hread hform hboot hun rfl rfl htype hpart hmine hbound howner hmask)
      · exact descriptor_done h (keyLoad_mem_keyed hlen hread hform hboot hun rfl rfl htype hpart hmine hbound howner hlo hhi hmask)
    case job => exact descriptor_done h (keyLoad_job hlen hread hform hboot hun rfl rfl htype hpart hzero hfree hr hmeas hslice)
  case ignored =>
    simp only [List.mem_cons, List.not_mem_nil, or_false] at hi
    rcases hi with rfl | rfl | rfl | rfl | rfl <;> exact congrArg Host.Outcome.next (State.mailbox_busy hbusy)
  case starts =>
    exact ⟨congrArg Host.Outcome.next (State.mailbox_starts hlive hfree), congrArg Host.Outcome.next (State.mailbox_starts hlive hfree),
      congrArg Host.Outcome.next (State.mailbox_starts hlive hfree), congrArg Host.Outcome.next (State.mailbox_starts hlive hfree),
      congrArg Host.Outcome.next (State.mailbox_starts hlive hfree), exec_lcAdvance hlive hfree rfl,
      fun op hwf => exec_secMbReservedOpcode hlive hfree hwf⟩
  case ends =>
    intro v t
    refine ⟨State.mbPerform_busy rfl, fun hreq => ?_, fun l n hreq hb => State.mbPerform_refused rfl hreq hb,
      fun l n r u hreq hb => ⟨fun hfull => ?_, fun hfits hr => ?_⟩⟩
    · have ht : t = v.mbEnd 7 0 := State.mbPerform_failed rfl hreq
      rw [ht]
      exact ⟨(v.mbEnd_sec 7 0).2.1, (v.mbEnd_sec 7 0).2.2⟩
    · exact (State.mbPerform_done rfl hreq hb).trans (if_pos hfull)
    · have hne : ¬ r.isEmpty = true := fun he => hr (List.isEmpty_iff.mp he)
      refine (State.mbPerform_done rfl hreq hb).trans ((if_neg (Nat.not_lt.mpr hfits)).trans ?_)
      rw [if_neg hne]

end Sys2Proof.Machine
end

section
/-!
PROOF. PWR_OK, the end of BOOT, the supply and the clocks (R455, R459 to R463, R468 to R471, R489, R502, R504).
-/

namespace Sys2Proof.Machine

theorem exec_pwrOkRise {s : State} (m : Bool) (hoff : s.pwr.pwrOk = false) (href : s.pwr.refAon = true) :
    exec (.pwrOkRise m) s = .next (State.powerOn { s with pwr := { s.pwr with pwrOk := true, sbSmbus := m } } .pwrOk) := by
  change execPwrOkRise m s = _
  simp only [execPwrOkRise, hoff, href, Bool.false_eq_true, if_false, if_true]

/-- The fall of PWR_OK stops the device, and a HOURS record is queued. -/
theorem exec_pwrOkFall {s : State} (hon : s.pwr.pwrOk = true) : ∃ t, exec .pwrOkFall s = .next t ∧ t.pwr.pwrOk = false ∧
    t.pwr.haltN = true ∧ t.dispatches = false := by
  obtain ⟨r, e, m, g, h⟩ := State.journal_reports { s with pwr := { s.pwr with pwrOk := false, offHold := true, haltN := true } }
    .hours 0 (leBytes 8 s.mgt.hours)
  change ∃ t, execPwrOkFall s = .next t ∧ _
  simp only [execPwrOkFall, hon, Bool.not_true, Bool.false_eq_true, if_false, h]
  exact ⟨_, rfl, rfl, rfl, by simp only [State.dispatches, Bool.not_true, Bool.and_false]⟩

/-! ## The end of BOOT (R431, R455, R489) -/

section
variable {s : State} (hb : s.booting = true)
include hb

theorem exec_bootDone (hok : s.slotOk s.mgt.running = true) : exec .bootDone s = .next s.bootEnd.settle := by
  change execBootDone s = _
  simp only [execBootDone, hb, hok, Bool.and_self, if_true]

theorem exec_bootImageFail {b : Bool} {t : State} (hrun : s.mgt.running = b)
    (ht : State.event { s with mgt := s.mgt.setSlot b { s.mgt.slot b with valid := false } } evBoot 0 (b2n b) = t) :
    exec .bootImageFail s = if s.mgt.tryUsed then .next t.trialFail else .next { t with
      pwr := { t.pwr with bootFail := true }, mgt := { t.mgt with recovery := !t.slotOk (!b) } } := by
  subst hrun ht
  change execBootImageFail s = _
  simp only [execBootImageFail, hb, Bool.not_true, Bool.false_eq_true, if_false]

theorem exec_activationTimeout (htry : s.mgt.tryUsed = true) : exec .activationTimeout s = .next s.trialFail := by
  simp only [State.booting, Bool.and_eq_true] at hb
  obtain ⟨⟨⟨⟨⟨hboot, hfail⟩, hheld⟩, hoff⟩, himage⟩, hstore⟩ := hb
  change execActivationTimeout s = _
  simp only [execActivationTimeout, hboot, htry, hfail, hoff, Bool.and_self, if_true]

end

/-! ## The supply monitor (R459 to R463, R502) -/

section
variable {s : State} {rail : Rail} {mv : BitVec 16} {warn : Nat} (hw : uvWarnMv rail.toNat = some warn)
include hw

theorem exec_uvWarn_braced (hlow : mv.toNat < warn) (hstate : s.pwr.state = .service ∨ s.pwr.state = .evacuate) {t : State}
    (ht : s.sense rail.toNat mv.toNat (fun _ => true) = t) : exec (.uvWarn rail mv) s =
      .next ((State.errBit { t with pwr := { t.pwr with state := .braced } } .pwr 0 0 63).raise .pwr 0 0 63) := by
  subst ht
  change execUvWarn rail mv s = _
  rcases hstate with hs | hs <;> simp only [execUvWarn, hw, if_neg (Nat.not_le.mpr hlow), hs]

theorem exec_uvWarn_above (hok : warn ≤ mv.toNat) : exec (.uvWarn rail mv) s = .next (s.sense rail.toNat mv.toNat id) := by
  change execUvWarn rail mv s = _
  simp only [execUvWarn, hw, if_pos hok]

theorem exec_railRecovered_low (hlow : mv.toNat < warn + 15) :
    exec (.railRecovered rail mv) s = .next (s.sense rail.toNat mv.toNat id) := by
  change execRailRecovered rail mv s = _
  simp only [execRailRecovered, hw, if_pos hlow]

theorem exec_railRecovered_braced (hok : warn + 15 ≤ mv.toNat) (hstate : s.pwr.state = .braced) {t : State}
    (ht : s.sense rail.toNat mv.toNat (fun _ => false) = t) :
    exec (.railRecovered rail mv) s = .next (if t.pwr.rails.any (·.2.2) = true then t else t.unbrace) := by
  change execRailRecovered rail mv s = _
  simp only [execRailRecovered, hw, if_neg (Nat.not_lt.mpr hok), ht, hstate, Pwr.low]
  split <;> rfl

end

theorem exec_rail_unknown {s : State} {rail : Rail} (mv : BitVec 16) (hw : uvWarnMv rail.toNat = none) :
    exec (.uvWarn rail mv) s = .fault .noSuchRail ∧ exec (.railRecovered rail mv) s = .fault .noSuchRail := by
  refine ⟨?_, ?_⟩
  · change execUvWarn rail mv s = _
    simp only [execUvWarn, hw]
  · change execRailRecovered rail mv s = _
    simp only [execRailRecovered, hw]

theorem exec_uvReset {s : State} {rail : Rail} {mv low : Nat} {b : Bool} (hr : s.pwr.rails[rail.toNat]? = some (mv, low, b))
    (hon : s.pwr.pwrOk = true) (href : s.pwr.refAon = true) (hk : rail.toNat ≤ 5) :
    exec (.uvReset rail) s = .next (State.powerOn { s with pwr := { s.pwr with
      rails := s.pwr.rails.set rail.toNat (mv, low, decide (rail.toNat < 5)) } } (.uv rail)) := by
  change execUvReset rail s = _
  simp only [execUvReset, if_neg (Nat.not_lt.mpr hk), hr, hon, href, and_self, if_true]

/-- Settles O50: PWR_OK, BOOT, the rails and the clocks, each row by its own equation. -/
theorem powerEvents : Obligations.PowerEvents := by
  unfold Obligations.PowerEvents
  refine fun s => ⟨fun hoff href m => exec_pwrOkRise m hoff href, exec_pwrOkFall, fun hb => ⟨exec_bootDone hb, ?imageFail,
    exec_activationTimeout hb⟩, fun rail mv warn hw => ⟨fun hlow hstate => exec_uvWarn_braced hw hlow hstate rfl,
    exec_uvWarn_above hw, exec_railRecovered_low hw, fun hok hstate => exec_railRecovered_braced hw hok hstate rfl⟩,
    fun rail mv hw => exec_rail_unknown mv hw, fun rail mv low b hr hon href hk => exec_uvReset hr hon href hk,
    fun hstate hheld => ?brace, fun hgate => ?warm, rfl, rfl, rfl, rfl, fun hlost hon => ?aon, fun hfab => ?fab⟩
  case imageFail =>
    intro b t
    refine ⟨fun htry => ?_, fun htry => ?_⟩
    · exact (exec_bootImageFail hb rfl rfl).trans (if_pos htry)
    · exact (exec_bootImageFail hb rfl rfl).trans (if_neg (by rw [htry]; exact Bool.false_ne_true))
  case brace =>
    change execBraceMaxExpiry s = _
    simp only [execBraceMaxExpiry, hstate, hheld, Bool.not_false, and_self, if_true]
  case warm =>
    refine congrArg Host.Outcome.next ((State.driverWrite_go (lockable := false) hgate fun h => nomatch h).trans ?_)
    simp only [State.warmAsk, Bool.or_eq_true]
  case aon =>
    change execRefclkReturn .aon s = _
    simp only [execRefclkReturn, hlost, hon, Bool.false_eq_true, if_false, if_true]
  case fab =>
    change execRefclkReturn .fab s = _
    simp only [execRefclkReturn, hfab, if_true]

end Sys2Proof.Machine
end

section
/-!
PROOF. The governors, thermal trips and SLUMBER (R457, R464 to R467).
-/

namespace Sys2Proof.Machine

/-! ## The governors (R457, R464) -/

/-- A junction sensor reads above T_THROT. -/
def State.hotJunction (t : State) : Prop := ∃ k, k < 32 ∧ t.throt < t.temp k

/-- All junction sensors read more than 3 °C below T_THROT. -/
def State.coolJunctions (t : State) : Prop := ∀ k, k < 32 → t.temp k + 3 < t.throt

theorem State.hotJunction_iff (t : State) :
    (((List.range 32).map t.temp).any fun x => decide (t.throt < x)) = true ↔ t.hotJunction := by
  simp only [List.any_map, List.any_eq_true, List.mem_range, Function.comp_apply, decide_eq_true_eq, State.hotJunction]

theorem State.coolJunctions_iff (t : State) :
    (((List.range 32).map t.temp).all fun x => decide (x + 3 < t.throt)) = true ↔ t.coolJunctions := by
  simp only [List.all_map, List.all_eq_true, List.mem_range, Function.comp_apply, decide_eq_true_eq, State.coolJunctions]

section
variable {s t : State} {l : List (BitVec 6 × BitVec 8)} (ht : s.read l = t)
include ht

theorem exec_thermalGovernorTick_hot (hot : t.hotJunction) :
    exec (.thermalGovernorTick l) s = .next (t.setTherm (max 8 (s.pwr.nTherm - 1))) := by
  subst ht
  exact if_pos ((State.hotJunction_iff _).mpr hot)

theorem exec_thermalGovernorTick_cool (hot : ¬ t.hotJunction) (cool : t.coolJunctions) :
    exec (.thermalGovernorTick l) s = .next (t.setTherm (min 16 (s.pwr.nTherm + 1))) := by
  subst ht
  exact (if_neg (mt (State.hotJunction_iff _).mp hot)).trans (if_pos ((State.coolJunctions_iff _).mpr cool))

theorem exec_thermalGovernorTick_between (hot : ¬ t.hotJunction) (cool : ¬ t.coolJunctions) :
    exec (.thermalGovernorTick l) s = .next t := by
  subst ht
  exact (if_neg (mt (State.hotJunction_iff _).mp hot)).trans (if_neg (mt (State.coolJunctions_iff _).mp cool))

end

/-- The power-cap governor's N after a tick. -/
def capNext (cap w n : Nat) : Nat :=
  if cap = 0 then 16 else if cap < w then max 8 (n - 1) else if w + 40 < cap then min 16 (n + 1) else n

theorem capNext_spec (cap w n : Nat) :
    (cap ≠ 0 → cap < w → capNext cap w n = max 8 (n - 1)) ∧ (w + 40 < cap → capNext cap w n = min 16 (n + 1)) ∧
      (cap ≠ 0 → cap ≤ w + 40 → w ≤ cap → capNext cap w n = n) := by
  unfold capNext
  refine ⟨fun h0 hw => by rw [if_neg h0, if_pos hw], fun hw => ?_, fun h0 hlo hhi => ?_⟩
  · rw [if_neg (by omega), if_neg (by omega), if_pos hw]
  · rw [if_neg h0, if_neg (by omega), if_neg (by omega)]

/-- The refresh rate of a stack doubles or returns, and no other's does. -/
theorem dramHot_spec (x : BitVec 32) (k : BitVec 5) (on : Bool) (j : Nat) (hj : j < 32) :
    (if on then x ||| 1#32 <<< k.toNat else x &&& ~~~ (1#32 <<< k.toNat)).getLsbD j = if j = k.toNat then on else x.getLsbD j := by
  have hbit : (1#32 <<< k.toNat).getLsbD j = decide (j = k.toNat) := by
    rw [BitVec.getLsbD_shiftLeft, BitVec.getLsbD_one]
    simp only [decide_eq_true hj, Bool.true_and]
    by_cases h : j = k.toNat
    · simp [h]
    · by_cases hlt : j < k.toNat
      · simp [hlt, h]
      · have hne : j - k.toNat ≠ 0 := by omega
        simp [hlt, h, hne]
  cases on
  · simp only [Bool.false_eq_true, if_false, BitVec.getLsbD_and, BitVec.getLsbD_not, hbit, decide_eq_true hj, Bool.true_and]
    by_cases h : j = k.toNat <;> simp [h]
  · simp only [if_true, BitVec.getLsbD_or, hbit]
    by_cases h : j = k.toNat <;> simp [h]

/-- PWR_STAT.N is the smallest of what limits it. -/
theorem State.coreN_le (s : State) : s.coreN ≤ s.pwr.nTherm ∧ (s.pwr.state = .braced → s.coreN ≤ 8) ∧
    (s.capWatts ≠ 0 → s.coreN ≤ s.pwr.nCap) := by
  unfold State.coreN
  refine ⟨?_, fun hb => ?_, fun hc => ?_⟩
  · dsimp only
    split <;> omega
  · rw [if_pos hb]
    exact min_le_right _ _
  · rw [if_neg hc]
    dsimp only
    split <;> omega

/-! ## Thermal trips (R465) -/

theorem Reports.pwr {s t : State} (h : Reports s t) : t.pwr = s.pwr := by
  obtain ⟨r, e, m, g, rfl⟩ := h
  rfl

theorem Reports.inflight {s t : State} (h : Reports s t) : t.inflight = s.inflight := by
  obtain ⟨r, e, m, g, rfl⟩ := h
  rfl

/-- The power state of a device that a trip stops. -/
def State.tripping (s : State) (k : BitVec 6) (v : BitVec 8) : State :=
  { s with pwr := { s.pwr with state := .halted, thermN := true, haltN := true, slumWait := false, trip := some (k, v) } }

/-- The device as a trip stops it, before the trip is reported. -/
def State.tripped (s : State) (k : BitVec 6) (v : BitVec 8) : State := ((s.tripping k v).portsDown 13).stopAndClear

theorem exec_thermalTrip {s : State} {k : BitVec 6} {v : BitVec 8} (hstate : s.pwr.state ≠ .halted)
    (hhot : (if k.toNat < 32 then 110 else 105) ≤ v.toNat) :
    ∃ t, exec (.thermalTrip k v) s = .next t ∧ Reports ((s.read [(k, v)]).tripped k v) t := by
  have hrow : execThermalTrip k v s = .next (((((s.read [(k, v)]).tripped k v).errBit .pwr 0 2 63).raise .pwr 0 3 63).event evHalt 0
      (k.toNat * 256 + v.toNat)) := by
    simp only [execThermalTrip, if_neg (Nat.not_lt.mpr hhot), if_neg hstate, State.tripped, State.tripping]
  exact ⟨_, hrow, ((State.errBit_reports ..).trans (State.raise_reports ..)).trans (State.event_reports ..)⟩

theorem State.stopAndClear_pwr (s : State) : s.stopAndClear.pwr = s.pwr := rfl

theorem State.stopAndClear_inflight (s : State) : s.stopAndClear.inflight = [] := rfl

theorem State.tripped_spec (s : State) (k : BitVec 6) (v : BitVec 8) :
    (s.tripped k v).pwr = (s.tripping k v).pwr ∧ (s.tripped k v).inflight = [] := by
  rw [State.tripped, State.stopAndClear_pwr, State.stopAndClear_inflight, State.portsDown_pwr]
  exact ⟨rfl, rfl⟩

/-! ## SLUMBER (R466, R467) -/

/-- A partition is on its way from one state to another. -/
def State.moving (s : State) : Prop := ∃ e ∈ s.parts, e.2.state = .binding ∨ e.2.state = .draining ∨ e.2.state = .resetting

theorem State.moving_iff (s : State) : (s.parts.any fun e =>
    decide (e.2.state = .binding) || decide (e.2.state = .draining) || decide (e.2.state = .resetting)) = true ↔ s.moving := by
  simp only [List.any_eq_true, Bool.or_eq_true, decide_eq_true_eq, or_assoc, State.moving]

/-- A request for SLUMBER: refused outside SERVICE and while a partition changes, and else dispatch stops. -/
theorem State.slumberAsk_spec {s : State} (hidle : s.pwr.slumWait = false) :
    (s.pwr.state ≠ .service → s.slumberAsk.pwr.slumWait = false ∧ s.slumberAsk.pwr.slumErr = 1) ∧
    (s.pwr.state = .service → s.moving → s.slumberAsk.pwr.slumWait = false ∧ s.slumberAsk.pwr.slumErr = 2) ∧
    (s.pwr.state = .service → ¬ s.moving →
      s.slumberAsk.pwr.slumWait = true ∧ s.slumberAsk.pwr.slumErr = 0 ∧ s.slumberAsk.dispatches = false) := by
  have hask : s.slumberAsk = let err := if s.pwr.state ≠ .service then 1 else if s.parts.any (fun e =>
        decide (e.2.state = .binding) || decide (e.2.state = .draining) || decide (e.2.state = .resetting)) then 2 else 0
      let t := s.setSlumReq true
      { t with pwr := { s.pwr with slumErr := BitVec.ofNat 2 err, slumWait := decide (err = 0) } } :=
    if_neg (by exact Bool.eq_false_iff.mp hidle)
  rw [← s.moving_iff]
  refine ⟨fun hstate => ?_, fun hstate hmove => ?_, fun hstate hmove => ?_⟩
  · rw [hask, if_pos hstate]
    exact ⟨rfl, rfl⟩
  · rw [hask, if_neg (not_not_intro hstate), if_pos hmove]
    exact ⟨rfl, rfl⟩
  · rw [State.dispatches, hask, if_neg (not_not_intro hstate), if_neg hmove]
    exact ⟨rfl, rfl, by simp only [decide_true, Bool.not_true, Bool.and_false, Bool.false_and]⟩

/-! ### The caches (R466) -/

/-- An action that changes nothing at each element changes nothing over a list. -/
theorem forM_same {α : Type} {f : α → M Unit} {s : State} (l : List α) (h : ∀ x, f x s = .ok () s) : l.forM f s = .ok () s := by
  induction l with
  | nil => rfl
  | cons x l ih =>
    change (f x >>= fun _ => l.forM f) s = _
    rw [run_bind, h x]
    exact ih

theorem mem_of_tget_some {α : Type} {t : Tab (Option α)} {k : Nat} {x : α} (h : tget none t k = some x) : (k, some x) ∈ t := by
  induction t with
  | nil => exact nomatch h
  | cons e t ih =>
    rw [tget] at h
    split at h
    · next hk => exact List.mem_cons.mpr (.inl (by rw [← hk, ← h]))
    · exact List.mem_cons_of_mem _ (ih h)

/-- A Case without dirty lines writes nothing back. -/
theorem writeBack_clean {s : State} (h : ∀ e ∈ s.cases, ∀ c, e.2 = some c → c.dirty = false) (env : Env) (lid : Nat) :
    writeBack env lid s = .ok () s := by
  simp only [writeBack, run_bind, run_look]
  cases hc : s.caseLine lid with
  | none => rfl
  | some c =>
    have hclean : c.dirty = false := h (lid, some c) (mem_of_tget_some hc) c rfl
    simp only [hclean, Bool.false_eq_true, if_false, run_pure]

theorem flushAll_clean {s : State} (hcases : ∀ e ∈ s.cases, ∀ c, e.2 = some c → c.dirty = false) (hctrs : CtrsClean s) :
    ∃ u, flushAll s = .ok () u := by
  have hempty : CtrsClean { s with cases := [] } := hctrs
  simp only [flushAll, run_bind, run_look, forM_same _ (writeBack_clean hcases Env.quiet), run_upd,
    forM_same _ (flushChannel_clean hempty Env.quiet)]
  exact ⟨_, rfl⟩

theorem exec_slumberEnter {s u : State} (hwait : s.pwr.slumWait = true) (hstate : s.pwr.state = .service)
    (hheld : s.pwr.offHold = false) (hidle : ∀ c ∈ s.inflight, c.started = false) (hgate : s.egress = [])
    (hflush : flushAll s = .ok () u) : exec .slumberEnter s = .next u.slumberDown := by
  have hany : s.inflight.any (·.started) = false := List.any_eq_false.mpr fun c hc => by simp [hidle c hc]
  change execSlumberEnter s = _
  simp only [execSlumberEnter, hwait, hstate, hheld, hany, hgate, hflush, List.isEmpty_nil, Bool.not_true, Bool.false_eq_true, if_false,
    reduceCtorEq, ne_eq, not_true_eq_false, or_self]

/-! ### In SLUMBER -/

/-- The end of a job in a partition leaves ports and KeyIDs. -/
theorem State.removeJob_keeps (s : State) (p : Nat) : (s.removeJob p).ports = s.ports ∧ (s.removeJob p).kids = s.kids := by
  unfold State.removeJob
  dsimp only
  split <;> exact ⟨rfl, rfl⟩

theorem State.removeJobs_keeps (s : State) (l : List (Nat × Partition)) :
    (l.foldl (fun (t : State) e => t.removeJob e.1) s).ports = s.ports ∧
      (l.foldl (fun (t : State) e => t.removeJob e.1) s).kids = s.kids :=
  ⟨foldl_keeps State.ports (fun t e => (t.removeJob_keeps e.1).1) l s, foldl_keeps State.kids (fun t e => (t.removeJob_keeps e.1).2) l s⟩

/-- A table that lists f of each of its keys answers f. -/
theorem tget_map_of_mem {α : Type} (d : α) (f : Nat → α) {l : List Nat} {c : Nat} (hc : c ∈ l) :
    tget d (l.map fun c => (c, f c)) c = f c := by
  induction l with
  | nil => exact nomatch hc
  | cons x l ih =>
    rw [List.map_cons, tget]
    by_cases hx : x = c
    · rw [if_pos hx, hx]
    · rw [if_neg hx]
      exact ih ((List.mem_cons.mp hc).resolve_left (Ne.symm hx))

theorem KeyId.slumber_spec (k : KeyId) : k.slumber.cached = false ∧ k.slumber.seed = 0 := by
  unfold KeyId.slumber
  dsimp only
  split <;> exact ⟨rfl, rfl⟩

/-- The device with its KeyIDs in SLUMBER. -/
def State.kidsAsleep (s : State) : State := { s with kids := s.kids.map fun (e : Nat × KeyId) => (e.1, e.2.slumber) }

/-- The device after the end of every partition's job. -/
def State.jobless (s : State) : State := s.parts.foldl (fun (t : State) e => t.removeJob e.1) s

theorem State.jobless_spec (s : State) : s.jobless.ports = s.ports ∧ s.jobless.kids = s.kids := s.removeJobs_keeps _

/-- A cluster in SLUMBER. -/
def State.sleeper (s : State) (c : Nat) : Cluster := { (s.cluster c).flash with pwr := .fallow, clear := false, worked := false }

/-- The device with its clusters in SLUMBER. -/
def State.clustersAsleep (s : State) : State := { s with clusters := (List.range 128).map fun c => (c, s.sleeper c) }

theorem State.clustersAsleep_cluster (s : State) {c : Nat} (hc : c < 128) : s.clustersAsleep.cluster c = s.sleeper c :=
  tget_map_of_mem Cluster.reset s.sleeper (List.mem_range.mpr hc)

/-- The device in SLUMBER, before that is reported. -/
def State.asleep (s : State) : State := { s with pwr := { s.pwr with state := .slumber, slumWait := false } }

theorem State.slumberDown_eq (s : State) :
    s.slumberDown = (s.portsDown 13).kidsAsleep.jobless.clustersAsleep.asleep.raise .pwr 0 4 63 := by
  simp only [State.slumberDown, State.kidsAsleep, State.jobless, State.clustersAsleep, State.sleeper, State.asleep]

theorem State.slumberDown_spec (s : State) :
    s.slumberDown.pwr.state = .slumber ∧ (∀ p, p < 8 → (s.slumberDown.port p).state = .down) ∧
      (∀ c, c < 128 → (s.slumberDown.cluster c).pwr = .fallow) ∧ ∀ e ∈ s.slumberDown.kids, e.2.cached = false ∧ e.2.seed = 0 := by
  rw [State.slumberDown_eq]
  have hdown : ∀ p, p < 8 → ((s.portsDown 13).port p).state = .down := fun p hp => s.portsDown_down 13 hp
  generalize s.portsDown 13 = t at hdown
  obtain ⟨hports, hkids⟩ := t.kidsAsleep.jobless_spec
  generalize t.kidsAsleep.jobless = u at hports hkids
  obtain ⟨r, e, m, g, hraise⟩ := u.clustersAsleep.asleep.raise_reports .pwr 0 4 63
  rw [hraise]
  refine ⟨rfl, fun p hp => ?_, fun c hc => ?_, fun k hk => ?_⟩
  · have hport : u.port p = t.port p := congrArg (tget Port.reset · p) hports
    exact (congrArg Port.state hport).trans (hdown p hp)
  · exact congrArg Cluster.pwr (u.clustersAsleep_cluster hc)
  · obtain ⟨k', _, rfl⟩ := List.mem_map.mp (hkids ▸ hk : k ∈ t.kidsAsleep.kids)
    exact k'.2.slumber_spec

/-! ## The obligation -/

theorem exec_powerCapTick (w : BitVec 11) (s : State) : exec (.powerCapTick w) s =
    .next { s with pwr := { s.pwr with watts := w, nCap := capNext s.capWatts w.toNat s.pwr.nCap } } := rfl

theorem exec_dramTHot (k : BitVec 5) (on : Bool) (s : State) : exec (.dramTHot k on) s = .next { s with pwr := { s.pwr with
    dramHot := if on then s.pwr.dramHot ||| 1#32 <<< k.toNat else s.pwr.dramHot &&& ~~~ (1#32 <<< k.toNat) } } := rfl

/-- Settles O51: each governor tick, trip and step of SLUMBER by its own lemma. -/
theorem governorsAndSlumber : Obligations.GovernorsAndSlumber := by
  refine ⟨fun s => ⟨fun l => ⟨exec_thermalGovernorTick_hot rfl, exec_thermalGovernorTick_cool rfl, exec_thermalGovernorTick_between rfl⟩,
      fun w => ⟨_, exec_powerCapTick w s, rfl, rfl, capNext_spec ..⟩, fun k v hstate hhot => ?_, fun k on => ?_, s.coreN_le⟩,
    fun s => ⟨fun hgate hlock => ⟨?_, ?_⟩, State.slumberAsk_spec, fun hwait hstate hheld hidle hgate =>
      ⟨fun u hflush => ?_, fun hcases hctrs => ?_⟩, s.slumberDown_spec⟩⟩
  · obtain ⟨t, hrow, hrep⟩ := exec_thermalTrip hstate hhot
    obtain ⟨hpwr, hinfl⟩ := (s.read [(k, v)]).tripped_spec k v
    have htp : t.pwr = ((s.read [(k, v)]).tripping k v).pwr := hrep.pwr.trans hpwr
    refine ⟨t, hrow, ?_⟩
    rw [htp, hrep.inflight, hinfl]
    exact ⟨rfl, rfl, rfl, rfl, rfl, rfl⟩
  · refine ⟨_, exec_dramTHot k on s, ?_, fun j hj hne => ?_⟩
    · exact (dramHot_spec _ k on k.toNat k.isLt).trans (if_pos rfl)
    · exact (dramHot_spec _ k on j hj).trans (if_neg hne)
  · exact congrArg Host.Outcome.next (State.driverWrite_go hgate fun _ => hlock)
  · exact congrArg Host.Outcome.next (State.driverWrite_go hgate fun _ => hlock)
  · exact exec_slumberEnter hwait hstate hheld hidle hgate hflush
  · obtain ⟨u, hflush⟩ := flushAll_clean hcases hctrs
    exact ⟨u, hflush, exec_slumberEnter hwait hstate hheld hidle hgate hflush⟩

end Sys2Proof.Machine
end

section
/-!
PROOF. The sideband (R474 to R477).
-/

namespace Sys2Proof.Machine

/-! ## What R448 coarsens -/

theorem State.coarse_spec (s : State) (v : Nat) :
    ∃ x n, s.coarse v = (x, { s with freeCtr := n }) ∧ (s.confidential = false → n = s.freeCtr) := by
  unfold State.coarse
  split
  · next h => exact ⟨_, _, rfl, fun hc => nomatch h.symm.trans hc⟩
  · exact ⟨v, s.freeCtr, rfl, fun _ => rfl⟩

theorem State.coarse_open {s : State} (h : s.confidential = false) (v : Nat) : s.coarse v = (v, s) :=
  if_neg (Bool.eq_false_iff.mp h)

theorem State.coarseWatts_spec (s : State) :
    ∃ x n, s.coarseWatts = (x, { s with freeCtr := n }) ∧ (s.confidential = false → n = s.freeCtr) := by
  unfold State.coarseWatts
  split
  · next h => exact ⟨_, _, rfl, fun hc => nomatch h.symm.trans hc⟩
  · exact ⟨_, s.freeCtr, rfl, fun _ => rfl⟩

/-! ## The commands -/

/-- What the sideband's commands share: they act while it answers. -/
theorem sideband_on {α : Type} {s : State} (h : s.sideband = true) (a b : α) : (if (!s.sideband) = true then a else b) = b :=
  if_neg (by rw [h]; exact Bool.false_ne_true)

/-- The bytes of GET_STATUS. -/
def State.statusBytes (s : State) (w j : Nat) : List Byte :=
  leBytes 2 s.devState ++ leBytes 8 Config.serial.toNat ++ [BitVec.ofNat 8 s.maint, BitVec.ofNat 8 s.coreN] ++ leBytes 2 w
    ++ [BitVec.ofNat 8 j, 0]

theorem State.statusBytes_length (s : State) (w j : Nat) : (s.statusBytes w j).length = 16 := by
  simp only [State.statusBytes, List.length_append, leBytes_length, List.length_cons, List.length_nil]

theorem exec_getStatus {s : State} (h : s.sideband = true) :
    ∃ d n, exec .getStatus s = .next (State.sbAck { s with freeCtr := n } d) ∧ d.length = 16 ∧
      (s.confidential = false → n = s.freeCtr) := by
  obtain ⟨w, n, hw, hn⟩ := s.coarseWatts_spec
  obtain ⟨j, m, hj, hm⟩ := State.coarse_spec { s with freeCtr := n }
    ((List.range 32).foldl (fun m k => max m (s.temp k)) 0)
  have hrow : execGetStatus s = .next (State.sbAck { s with freeCtr := m } (s.statusBytes w j)) := by
    simp only [execGetStatus, h, hw, hj, Bool.not_true, Bool.false_eq_true, if_false, State.statusBytes]
  exact ⟨_, m, hrow, State.statusBytes_length .., fun hc => (hm hc).trans (hn hc)⟩

theorem exec_getSensor_missing {s : State} (h : s.sideband = true) {k : BitVec 8} (hk : 63 < k.toNat) :
    exec (.getSensor k) s = .next s.sbNack := (sideband_on h _ _).trans (if_pos hk)

theorem exec_getSensor {s : State} (h : s.sideband = true) {k : BitVec 8} (hk : k.toNat ≤ 63) (hopen : s.confidential = false)
    {v a b : Nat} (hv : tget (0, 0, 0) s.pwr.temps k.toNat = (v, a, b)) :
    exec (.getSensor k) s = .next (State.sbAck { s with pwr := { s.pwr with
      temps := tput (0, 0, 0) s.pwr.temps k.toNat (v, a, v) } } [BitVec.ofNat 8 v, BitVec.ofNat 8 b]) := by
  have hcoarse := State.coarse_open (s := { s with pwr := { s.pwr with temps := tput (0, 0, 0) s.pwr.temps k.toNat (v, a, v) } }) hopen
  change execGetSensor k s = _
  simp only [execGetSensor, h, hv, hcoarse, if_neg (Nat.not_lt.mpr hk), Bool.not_true, Bool.false_eq_true, if_false]

/-- The record of the least SEQ so far. -/
def leastSeq (b : Option Rec) (r : Rec) : Option Rec :=
  match b with
  | none => some r
  | some x => if r.seq.toNat < x.seq.toNat then some r else b

/-- A step of the search keeps what it has found, and finds what is least. -/
theorem leastSeq_keeps {r y : Rec} (hy : y = r ∨ r.seq.toNat < y.seq.toNat) : leastSeq (some r) y = some r := by
  obtain rfl | hy := hy
  · exact ite_self _
  · exact if_neg (Nat.lt_asymm hy)

theorem leastSeq_finds {r : Rec} {b : Option Rec} (hb : ∀ x, b = some x → x = r ∨ r.seq.toNat < x.seq.toNat) :
    leastSeq b r = some r := by
  cases b with
  | none => rfl
  | some x =>
    obtain rfl | hx := hb x rfl
    · exact ite_self _
    · exact if_pos hx

theorem leastSeq_mem {b : Option Rec} {y x : Rec} (h : leastSeq b y = some x) : x = y ∨ b = some x := by
  cases b with
  | none => exact .inl (Option.some.inj h).symm
  | some z =>
    rw [leastSeq] at h
    split at h
    · exact .inl (Option.some.inj h).symm
    · exact .inr h

/-- A list whose other records have higher SEQs than r has r as its least. -/
theorem foldl_leastSeq {r : Rec} {l : List Rec} (hl : ∀ x ∈ l, x = r ∨ r.seq.toNat < x.seq.toNat) {b : Option Rec}
    (hb : ∀ x, b = some x → x = r ∨ r.seq.toNat < x.seq.toNat) (hr : r ∈ l ∨ b = some r) : l.foldl leastSeq b = some r := by
  induction l generalizing b with
  | nil => exact hr.resolve_left List.not_mem_nil
  | cons y l ih =>
    obtain ⟨hy, hl⟩ := List.forall_mem_cons.mp hl
    refine ih hl (fun x hx => ?_) ?_
    · obtain rfl | hx := leastSeq_mem hx
      · exact hy
      · exact hb x hx
    · obtain hr | rfl := hr
      · obtain rfl | hr := List.mem_cons.mp hr
        · exact .inr (leastSeq_finds hb)
        · exact .inl hr
      · exact .inr (leastSeq_keeps hy)

/-- The records of a SEQ or above that READ_JOURNAL looks through. -/
def State.journalFrom (s : State) (n : Word64) : List Rec :=
  if s.mgt.store = 2 then [] else s.mgt.good.filter fun r => decide (n.toNat ≤ r.seq.toNat)

theorem exec_readJournal_eq {s : State} (h : s.sideband = true) (n : Word64) :
    exec (.readJournal n) s = .next (s.sbAck ((((s.journalFrom n).foldl leastSeq none).map Rec.bytes).getD [])) :=
  sideband_on h _ _

theorem State.mem_journalFrom {s : State} (hstore : s.mgt.store ≠ 2) {n : Word64} {r : Rec} :
    r ∈ s.journalFrom n ↔ r ∈ s.mgt.good ∧ n.toNat ≤ r.seq.toNat := by
  rw [State.journalFrom, if_neg hstore, List.mem_filter, decide_eq_true_eq]

theorem exec_readJournal_none {s : State} (h : s.sideband = true) (hstore : s.mgt.store ≠ 2) {n : Word64}
    (hn : ∀ r ∈ s.mgt.good, r.seq.toNat < n.toNat) : exec (.readJournal n) s = .next (s.sbAck []) := by
  have hnil : s.journalFrom n = [] := List.eq_nil_iff_forall_not_mem.mpr fun r hr => by
    obtain ⟨hgood, hle⟩ := (State.mem_journalFrom hstore).mp hr
    exact Nat.not_le.mpr (hn r hgood) hle
  rw [exec_readJournal_eq h, hnil]
  rfl

theorem exec_readJournal {s : State} (h : s.sideband = true) (hstore : s.mgt.store ≠ 2) {n : Word64} {r : Rec} (hr : r ∈ s.mgt.good)
    (hle : n.toNat ≤ r.seq.toNat) (hleast : ∀ x ∈ s.mgt.good, n.toNat ≤ x.seq.toNat → x = r ∨ r.seq.toNat < x.seq.toNat) :
    exec (.readJournal n) s = .next (s.sbAck r.bytes) := by
  have hfound : (s.journalFrom n).foldl leastSeq none = some r :=
    foldl_leastSeq (fun x hx => hleast x ((State.mem_journalFrom hstore).mp hx).1 ((State.mem_journalFrom hstore).mp hx).2)
      (fun _ hx => nomatch hx) (.inl ((State.mem_journalFrom hstore).mpr ⟨hr, hle⟩))
  rw [exec_readJournal_eq h, hfound]
  rfl

theorem exec_sbLcAdvance_bad {s : State} (h : s.sideband = true) {token : BitVec 1040} (ht : s.sbLife token = none) :
    exec (.sbLcAdvance token) s = .next s.sbNack := by
  refine (sideband_on h _ _).trans ?_
  rw [ht]

theorem exec_sbLcAdvance {s t : State} (h : s.sideband = true) {token : BitVec 1040} (ht : s.sbLife token = some t) :
    exec (.sbLcAdvance token) s = .next ((t.sbAck []).warm .lcAdvance) := by
  refine (sideband_on h _ _).trans ?_
  rw [ht]

theorem exec_warmReset {s : State} (h : s.sideband = true) (hheld : s.pwr.offHold = false) :
    exec .warmReset s = .next ((s.sbAck []).warm .sideband) :=
  if_neg (by rw [h, hheld]; exact Bool.false_ne_true)

theorem exec_linkRetry {s : State} (h : s.sideband = true) :
    ∃ t, exec .linkRetry s = .next t ∧ t.hif.tries = 0 ∧ t.hif.stuck = false ∧ t.hif.up = s.hif.up := by
  refine ⟨_, sideband_on h _ _, ?_⟩
  dsimp only
  split <;> exact ⟨rfl, rfl, rfl⟩

/-- Settles O52: each sideband command by its own lemma. -/
theorem sidebandCommands : Obligations.SidebandCommands := by
  intro s h
  refine ⟨exec_getStatus h, fun k => ⟨exec_getSensor_missing h, fun hk hopen => exec_getSensor h hk hopen rfl⟩,
    fun n hstore => ⟨exec_readJournal_none h hstore, fun r hr => exec_readJournal h hstore hr⟩,
    fun token => ⟨exec_sbLcAdvance_bad h, fun t => exec_sbLcAdvance h⟩, exec_warmReset h, exec_linkRetry h, sideband_on h _ _,
    fun c => sideband_on h _ _⟩

end Sys2Proof.Machine
end

section
/-!
PROOF. The journal store (R481, R485, R486) and firmware (R488 to R491).
-/

namespace Sys2Proof.Machine

/-! ## The journal store -/

@[simp] theorem Mgt.sector_setSector (m : Mgt) (i : Nat) (x : Sector) : (m.setSector i x).sector i = x := tget_tput_same ..

/-- A committed record stands last in its sector, under the next SEQ. -/
theorem Mgt.commit_spec (m : Mgt) (i : Nat) (r : Rec) : (m.commit i r).nextSeq = m.nextSeq + 1 ∧
    ((m.commit i r).sector i).recs = (m.sector i).recs ++ [{ r with seq := m.nextSeq }] := by
  refine ⟨rfl, ?_⟩
  have hseq : BitVec.ofNat 64 m.nextSeq.toNat = m.nextSeq := (BitVec.ofNat_toNat ..).trans (BitVec.setWidth_eq _)
  have hsector : (m.commit i r).sector i = _ := Mgt.sector_setSector ..
  rw [hsector, hseq]

section
variable {s : State} (hon : s.pwr.refAon = true) (hstore : s.mgt.store = 0)
include hon hstore

theorem exec_journalWrite {r : Rec} {i : Nat} {m : Mgt} (hr : s.nextRecord = some r) (hroom : s.mgt.room r.size = some (i, m)) :
    exec (.journalWrite { ok := true }) s = .next { s with mgt := { m.commit i r with queue := m.queue.erase r } } ∧
      exec (.journalWrite { ok := false }) s =
        .next (State.retireSector { s with mgt := m.setSector i { m.sector i with state := .sealedS } } i) := by
  have hstands : (!s.aonRuns || decide (s.mgt.store ≠ 0)) = false := by
    simp only [State.aonRuns, hon, hstore, Bool.not_true, ne_eq, not_true_eq_false, decide_false, Bool.or_self]
  constructor
  · change execJournalWrite _ s = _
    simp only [execJournalWrite, hstands, hr, hroom, Bool.false_eq_true, if_false, if_true]
  · change execJournalWrite _ s = _
    simp only [execJournalWrite, hstands, hr, hroom, Bool.false_eq_true, if_false]

theorem exec_journalCompaction {i : Nat} {n : Mgt} {recs keep : List Rec} {t : State} {erases : Nat} (hfew : s.mgt.erased.length < 8)
    (hold : s.mgt.oldest = some i) (hrecs : (s.mgt.sector i).recs.filter (·.ok) = recs)
    (hkeep : (recs.filter fun r => decide (r.type = .spare) || (r.type.isState && s.mgt.current r)) = keep)
    (hnew : s.mgt.rewrite keep = some n)
    (ht : s.bump 0 .mgt 0 0x50 (recs.filter fun r => decide (r.type = .event)).length = t)
    (herases : (s.mgt.sector i).erases + 1 = erases) :
    (erases < 90000 → exec (.journalCompaction { ok := true }) s =
        .next { t with mgt := n.setSector i { Sector.reset with erases := erases } }) ∧
      exec (.journalCompaction { ok := false }) s =
        .next (State.retireSector { t with mgt := n.setSector i { n.sector i with state := .stale } } i) := by
  have hstands : (!s.aonRuns || decide (s.mgt.store ≠ 0) || decide (8 ≤ s.mgt.erased.length)) = false := by
    simp only [State.aonRuns, hon, hstore, Nat.not_le.mpr hfew, Bool.not_true, ne_eq, not_true_eq_false, decide_false, Bool.or_self]
  subst hrecs hkeep ht herases
  constructor
  · intro hlow
    change execJournalCompaction _ s = _
    simp only [execJournalCompaction, hstands, hold, hnew, Nat.not_le.mpr hlow, Bool.false_eq_true, if_false, if_true]
  · change execJournalCompaction _ s = _
    simp only [execJournalCompaction, hstands, hold, hnew, Bool.false_eq_true, if_false]

end

/-! ### The hour count -/

/-- A change of every entry that leaves the default changes what the table answers. -/
theorem tget_map {α : Type} {d : α} {f : α → α} (hf : f d = d) (t : Tab α) (k : Nat) :
    tget d (t.map fun e => (e.1, f e.2)) k = f (tget d t k) := by
  induction t with
  | nil => exact hf.symm
  | cons e t ih =>
    rw [List.map_cons, tget, tget]
    split
    · rfl
    · exact ih

/-- A cluster an hour on. -/
def Cluster.hourOn (c : Cluster) : Cluster := if c.hours = 0xFFFF then c else { c with hours := c.hours + 1 }

theorem Cluster.hourOn_reset : Cluster.reset.hourOn = Cluster.reset := if_pos rfl

/-- The device an hour on, before that is journaled. -/
def State.hourOn (s : State) : State :=
  { s with mgt := { s.mgt with hours := s.mgt.hours + 1 }, clusters := s.clusters.map fun e => (e.1, e.2.hourOn) }

theorem State.hourOn_cluster (s : State) (c : Nat) : s.hourOn.cluster c = (s.cluster c).hourOn :=
  tget_map Cluster.hourOn_reset s.clusters c

theorem State.maintRise_mgt (old s : State) : (State.maintRise old s).mgt = s.mgt := by
  have hraise : ∀ (t : State) b i n p, (t.raise b i n p).mgt = t.mgt := fun t b i n p => by
    obtain ⟨r, e, m, h⟩ := t.raise_keeps b i n p
    rw [h]
  unfold State.maintRise
  dsimp only
  split <;> split <;> simp only [hraise]

theorem exec_hoursTick {s : State} (hon : s.pwr.refAon = true) :
    ∃ t, exec .hoursTick s = .next t ∧ t.mgt.hours = s.mgt.hours + 1 ∧
      ∀ c, (s.cluster c).hours ≠ 0xFFFF → (t.cluster c).hours = (s.cluster c).hours + 1 := by
  have hruns : ¬ (!s.aonRuns) = true := by
    rw [State.aonRuns, hon]
    exact Bool.false_ne_true
  have hrow : execHoursTick s = .next ((State.maintRise s s.hourOn).journal .hours 0 (leBytes 8 s.hourOn.mgt.hours)) := if_neg hruns
  obtain ⟨q, hq⟩ := (State.maintRise s s.hourOn).journal_keeps .hours 0 (leBytes 8 s.hourOn.mgt.hours)
  refine ⟨_, hrow, ?_, fun c hc => ?_⟩
  · rw [hq]
    exact congrArg Mgt.hours (State.maintRise_mgt s s.hourOn)
  · have hcluster : (State.maintRise s s.hourOn).cluster c = (s.cluster c).hourOn := by
      obtain ⟨r, e, m, g, h⟩ := State.maintRise_reports s s.hourOn
      rw [h]
      exact s.hourOn_cluster c
    rw [hq]
    exact (congrArg Cluster.hours hcluster).trans (congrArg Cluster.hours (if_neg hc))

/-! ## Firmware -/

@[simp] theorem Mgt.slot_setSlot (m : Mgt) (b : Bool) (x : FwSlot) : (m.setSlot b x).slot b = x := by
  cases b <;> rfl

@[simp] theorem Mgt.slot_setSlot_other (m : Mgt) (b : Bool) (x : FwSlot) : (m.setSlot b x).slot (!b) = m.slot (!b) := by
  cases b <;> rfl

/-- The end of a firmware operation is in the unit's own state, and what else it does is to report. -/
theorem State.fwEnd_keeps (s : State) (err : Nat) : ∃ r e m, s.fwEnd err = { s with
    regs := r, egress := e, msixPend := m, mgt := { s.mgt with fwBusy := false, fwErr := BitVec.ofNat 4 err } } := by
  obtain ⟨r, e, m, h⟩ := State.raise_keeps { s with mgt := { s.mgt with fwBusy := false, fwErr := BitVec.ofNat 4 err } } .mgt 0 4 63
  unfold State.fwEnd
  dsimp only
  rw [h]
  split
  · exact ⟨r, e, m, rfl⟩
  · obtain ⟨r', h'⟩ := State.errBit_keeps { s with
      regs := r, egress := e, msixPend := m, mgt := { s.mgt with fwBusy := false, fwErr := BitVec.ofNat 4 err } } .mgt 0 3 63
    exact ⟨r', e, m, h'⟩

/-- A firmware operation's end and the journaling of the image state change the unit's ERR, BUSY and queue. -/
theorem State.fwEnd_journalImage_keeps (s : State) (err : Nat) : ∃ r e m q, (s.fwEnd err).journalImage = { s with
    regs := r, egress := e, msixPend := m
    mgt := { s.mgt with fwBusy := false, fwErr := BitVec.ofNat 4 err, queue := q } } := by
  obtain ⟨r, e, m, h⟩ := s.fwEnd_keeps err
  obtain ⟨q, hq⟩ := (s.fwEnd err).journal_keeps .image 0 (s.fwEnd err).mgt.imagePayload
  exact ⟨r, e, m, q, hq.trans (by rw [h])⟩

theorem State.fwEnd_journalImage_sec (s : State) (err : Nat) : (s.fwEnd err).journalImage.sec = s.sec := by
  obtain ⟨r, e, m, q, h⟩ := s.fwEnd_journalImage_keeps err
  rw [h]

theorem State.fwTrigger_go {s : State} (hgate : s.gate 0 .mgt 0 true false = .go) (hidle : s.mgt.fwBusy = false) (f : State → State) :
    s.fwTrigger 0 f = f s :=
  (State.driverWrite_go (lockable := false) hgate fun h => nomatch h).trans (if_neg (Bool.eq_false_iff.mp hidle))

theorem State.fwActivate_staged {s : State} {b : Bool} (hb : s.mgt.stagedB = some b) (hstore : s.mgt.store = 0)
    (hheld : s.pwr.offHold = false) : s.fwActivate =
      (State.journalImage { s with mgt := { s.mgt with tryB := some b, tryUsed := false, fwErr := 0 } }).warm .sideband := by
  simp only [State.fwActivate, hb, hstore, hheld, Option.isNone_some, Bool.false_eq_true, if_false, ne_eq, not_true_eq_false]

theorem State.fwDiscard_staged {s : State} {b : Bool} (hb : s.mgt.stagedB = some b) :
    s.fwDiscard = (State.fwEnd { s with mgt := { s.mgt with stagedB := none } } 0).journalImage :=
  if_neg (by rw [hb]; exact Bool.false_ne_true)

theorem State.fwStage_spec (s : State) :
    let len := s.reg 0 .mgt 0 0x5C 0
    (s.bootsImages = true → s.mgt.store = 0 → (len < 64 ∨ 16777216 < len) → s.fwStage = s.fwEnd 2) ∧
      (s.bootsImages = true → s.mgt.store = 0 → 64 ≤ len → len ≤ 16777216 →
        s.fwStage = { s with mgt := { s.mgt with fwBusy := true, fwErr := 0, fwLen := len } }) := by
  have hcheck : s.bootsImages = true → s.mgt.store = 0 → s.fwStage =
      if s.reg 0 .mgt 0 0x5C 0 < 64 ∨ 16777216 < s.reg 0 .mgt 0 0x5C 0 then s.fwEnd 2
      else { s with mgt := { s.mgt with fwBusy := true, fwErr := 0, fwLen := s.reg 0 .mgt 0 0x5C 0 } } := fun hboots hstore =>
    (if_neg (by rw [hboots]; exact Bool.false_ne_true)).trans (if_neg (not_not_intro hstore))
  exact ⟨fun hboots hstore hlen => (hcheck hboots hstore).trans (if_pos hlen),
    fun hboots hstore hlo hhi => (hcheck hboots hstore).trans (if_neg (by omega))⟩

/-- The higher of two numbers. -/
theorem toNat_higher {w : Nat} (a b : BitVec w) : (if a.toNat < b.toNat then b else a).toNat = max a.toNat b.toNat := by
  split <;> omega

theorem State.fwCommit_floor {s : State} (hstate : s.pwr.state = .service ∨ s.pwr.state = .evacuate) :
    s.fwCommit.sec.floor.toNat = max s.sec.floor.toNat (s.mgt.slot s.mgt.running).svn.toNat := by
  have hserves : ¬ (s.pwr.state ≠ .service ∧ s.pwr.state ≠ .evacuate) := fun ⟨h, k⟩ => hstate.elim h k
  unfold State.fwCommit
  rw [if_neg hserves]
  dsimp only
  rw [State.fwEnd_journalImage_sec]
  exact toNat_higher ..

/-! ### The end of staging -/

/-- STAGE_DONE's ERR. -/
def State.stageErr (s : State) (b : BundleIn) : Nat :=
  if !b.hostOk then 1 else if !b.valid then 3 else if s.confidential && decide (b.svn.toNat < s.sec.floor.toNat) then 4 else 0

/-- The device after STAGE_DONE with an ERR other than 1. -/
def State.staged (s : State) (b : BundleIn) (err : Nat) : State :=
  { s with mgt := { s.mgt.setSlot s.mgt.target { valid := decide (err = 0), svn := b.svn, meas := b.meas } with
      stagedB := if err = 0 then some s.mgt.target else none } }

section
variable {s : State} {b : BundleIn} (hbusy : s.mgt.fwBusy = true) (hon : s.pwr.refAon = true)
include hbusy hon

theorem exec_stageDone : exec (.stageDone b) s =
    if s.stageErr b = 1 then .next ((State.fwEnd { s with mgt := { s.mgt with stagedB := none } } 1).journalImage)
    else .next (if s.stageErr b = 0 ∧ s.mgt.stagedB.isNone then
      (((s.staged b (s.stageErr b)).fwEnd (s.stageErr b)).journalImage).raise .sec 0 2 63
      else ((s.staged b (s.stageErr b)).fwEnd (s.stageErr b)).journalImage) :=
  if_neg (by rw [State.aonRuns, hbusy, hon]; exact fun h => h.elim Bool.false_ne_true Bool.false_ne_true)

/-- What STAGE_DONE leaves where the bundle was read. -/
theorem exec_stageDone_read (herr : s.stageErr b ≠ 1) : ∃ t q, exec (.stageDone b) s = .next t ∧
    t.mgt = { (s.staged b (s.stageErr b)).mgt with fwBusy := false, fwErr := BitVec.ofNat 4 (s.stageErr b), queue := q } := by
  obtain ⟨r, e, m, q, h⟩ := (s.staged b (s.stageErr b)).fwEnd_journalImage_keeps (s.stageErr b)
  refine ⟨_, q, (exec_stageDone hbusy hon).trans (if_neg herr), ?_⟩
  rw [h]
  split
  · obtain ⟨r', e', m', h'⟩ := State.raise_keeps { s.staged b (s.stageErr b) with
      regs := r, egress := e, msixPend := m
      mgt := { (s.staged b (s.stageErr b)).mgt with fwBusy := false, fwErr := BitVec.ofNat 4 (s.stageErr b), queue := q } } .sec 0 2 63
    rw [h']
  · rfl

end

/-- Settles O53: each row of the journal store and of firmware by its own lemma. -/
theorem journalAndFirmware : Obligations.JournalAndFirmware := by
  refine ⟨fun s hon => ⟨fun hstore r i m hr hroom => exec_journalWrite hon hstore hr hroom, Mgt.commit_spec,
      fun hstore hfew i n hold hnew => exec_journalCompaction hon hstore hfew hold rfl rfl hnew rfl rfl,
      exec_hoursTick hon⟩,
    fun s => ⟨fun hgate hidle => ?trigger, s.fwStage_spec, fun hbusy hon b => ⟨fun hhost => ?unread, fun hhost hvalid hsvn => ?good,
      fun hhost hvalid => ?bad⟩⟩⟩
  case trigger =>
    have hgo : ∀ f, Host.Outcome.next (s.fwTrigger 0 f) = (.next (f s) : Host.Outcome State Fault Refusal) := fun f =>
      congrArg Host.Outcome.next (State.fwTrigger_go hgate hidle f)
    refine ⟨hgo _, fun hnone => ?_, fun b hb => ⟨fun hstore hheld => ?_, ?_⟩,
      fun hstate => ⟨_, hgo _, State.fwCommit_floor hstate⟩⟩
    · exact ⟨(hgo _).trans (congrArg _ (if_pos (by rw [hnone]; rfl))), (hgo _).trans (congrArg _ (if_pos (by rw [hnone]; rfl)))⟩
    · exact (hgo _).trans (congrArg _ (State.fwActivate_staged hb hstore hheld))
    · exact (hgo _).trans (congrArg _ (State.fwDiscard_staged hb))
  case unread =>
    have herr : s.stageErr b = 1 := if_pos (by rw [hhost]; rfl)
    exact (exec_stageDone hbusy hon).trans (if_pos herr)
  case good =>
    have hfloor : (s.confidential && decide (b.svn.toNat < s.sec.floor.toNat)) = false := by
      obtain h | h := hsvn
      · rw [h, Bool.false_and]
      · rw [decide_eq_false (Nat.not_lt.mpr h), Bool.and_false]
    have herr : s.stageErr b = 0 := by simp [State.stageErr, hhost, hvalid, hfloor]
    obtain ⟨t, q, hrow, ht⟩ := exec_stageDone_read (b := b) hbusy hon (by omega)
    refine ⟨t, hrow, ?_⟩
    rw [ht, herr]
    exact ⟨rfl, rfl, rfl, s.mgt.slot_setSlot _ _, s.mgt.slot_setSlot_other _ _⟩
  case bad =>
    have herr : s.stageErr b = 3 := by simp [State.stageErr, hhost, hvalid]
    obtain ⟨t, q, hrow, ht⟩ := exec_stageDone_read (b := b) hbusy hon (by omega)
    refine ⟨t, hrow, ?_⟩
    rw [ht, herr]
    exact ⟨rfl, rfl⟩

end Sys2Proof.Machine
end
